-- ==== Sys2Proof/Word.lean ====
section
/-! DEFINITION. The word types, exact-to-machine conversions of R13, intervals of R17, and the sparse map
in canonical form that holds memories, register files and tables. -/

namespace Sys2Proof

abbrev Byte := BitVec 8
abbrev Word := BitVec 32
abbrev DWord := BitVec 64

/-- A program counter: a 57-bit byte address (R14). -/
abbrev Pc := BitVec 57

/-- R13 clamp. -/
def clampZ (x lo hi : Int) : Int := if x < lo then lo else if hi < x then hi else x

/-- The bit field name[start+len-1 : start] of a value (R10). -/
def bits {n : Nat} (x : BitVec n) (start len : Nat) : BitVec len := x.extractLsb' start len

/-- A closed interval of exact integers; the spec's bounds are signed 32-bit (R17). -/
structure Iv where
  lo : Int
  hi : Int
deriving DecidableEq, Repr, Inhabited

/-- TOP (R12). -/
def Iv.top : Iv := ⟨-2147483648, 2147483647⟩

/-- The exact interval of one value. -/
def Iv.exact (x : Int) : Iv := ⟨x, x⟩

/-- hull (R13). -/
def Iv.hull (a b : Iv) : Iv := ⟨min a.lo b.lo, max a.hi b.hi⟩

/-- inside(a, b) (R13). -/
def Iv.inside (a b : Iv) : Bool := decide (b.lo ≤ a.lo) && decide (a.hi ≤ b.hi)

/-- The value lies in the interval. -/
def Iv.has (a : Iv) (x : Int) : Bool := decide (a.lo ≤ x) && decide (x ≤ a.hi)

/-- A sparse table: keys strictly rising, no entry equal to what an unlisted key reads as. -/
abbrev NatMap (α : Type) := List (Nat × α)

namespace NatMap

variable {α : Type}

/-- What key `k` reads as; `d` is what an unlisted key reads as. -/
def get (d : α) : NatMap α → Nat → α
  | [], _ => d
  | (k', v) :: r, k => if k' = k then v else get d r k

/-- Remove every entry of a key. -/
def erase : NatMap α → Nat → NatMap α
  | [], _ => []
  | (k', v) :: r, k => if k' = k then erase r k else (k', v) :: erase r k

/-- Insert before the first greater key. -/
def insert : NatMap α → Nat → α → NatMap α
  | [], k, v => [(k, v)]
  | (k', v') :: r, k, v => if k < k' then (k, v) :: (k', v') :: r else (k', v') :: insert r k v

/-- Write key `k`, keeping the canonical form: writing `d` removes the entry. -/
def set [DecidableEq α] (d : α) (m : NatMap α) (k : Nat) (v : α) : NatMap α :=
  if v = d then erase m k else insert (erase m k) k v

/-- Every key is above `lo`, and the keys rise strictly, with no entry equal to `d`. -/
def wfFrom [DecidableEq α] (d : α) : Nat → NatMap α → Bool
  | _, [] => true
  | lo, (k, v) :: r => decide (lo ≤ k) && decide (v ≠ d) && wfFrom d (k + 1) r

/-- The canonical form. -/
def wf [DecidableEq α] (d : α) (m : NatMap α) : Bool := wfFrom d 0 m

/-- The listed keys, rising. -/
def keys (m : NatMap α) : List Nat := m.map Prod.fst

/-- Is the key listed? -/
def has (m : NatMap α) (k : Nat) : Bool := m.any (fun p => p.1 == k)

/-- Write consecutive keys. -/
def setRange [DecidableEq α] (d : α) (m : NatMap α) (k : Nat) : List α → NatMap α
  | [] => m
  | v :: r => setRange d (set d m k v) (k + 1) r

/-- Read `n` consecutive keys. -/
def getRange (d : α) (m : NatMap α) (k : Nat) : Nat → List α
  | 0 => []
  | n + 1 => get d m k :: getRange d m (k + 1) n

/-- Drop every key in [lo, hi). -/
def clearRange (m : NatMap α) (lo hi : Nat) : NatMap α := m.filter (fun p => p.1 < lo || hi ≤ p.1)

end NatMap

/-- Little-endian value of bytes (R10). -/
def leNat : List Byte → Nat
  | [] => 0
  | b :: r => b.toNat + 256 * leNat r

/-- The `n` bytes of a value, the byte at the lowest address first (R10). -/
def leBytes : Nat → Nat → List Byte
  | 0, _ => []
  | n + 1, v => BitVec.ofNat 8 v :: leBytes n (v / 256)

/-- Round up to a multiple. -/
def roundUp (x m : Nat) : Nat := (x + m - 1) / m * m

/-- ceil(a / b). -/
def ceilDiv (a b : Nat) : Nat := (a + b - 1) / b

/-- Do two half-open byte ranges share a byte? -/
def overlaps (a alen b blen : Nat) : Bool := decide (0 < alen) && decide (0 < blen) && decide (a < b + blen) && decide (b < a + alen)

/-- Does [a, a+alen) lie inside [b, b+blen)? -/
def withinRange (a alen b blen : Nat) : Bool := decide (b ≤ a) && decide (a + alen ≤ b + blen)

end Sys2Proof
end

