-- ==== Sys2Proof/Config.lean ====
section
/-! DEFINITION. What an implementation fixes, and the free values: constants without a body, so that no proof sees a
value of them. -/

namespace Sys2Proof.Config

/-- Bytes fitted on each second-tier channel (R2, R365); nothing is fitted on LMV-GB2P. [DESIGN CHOICE, log 19] -/
opaque tierChannelBytes : Nat

/-- Candidate results of the approximations of R96, kept where they lie inside the bound (R97: one fixed function of
the operand). [DESIGN CHOICE, log 17] -/
opaque frcp : Word → Word
opaque frsq : Word → Word
opaque fexp2 : Word → Word
opaque flog2 : Word → Word
opaque fsin : Word → Word
opaque fcos : Word → Word

/-- Does an access to a multi-entry page whose entries differ take the first entry (R229)? [DESIGN CHOICE, log 21] -/
opaque firstEntry : Nat → Bool

/-- Signatures of R369 and R370: whether a signature over a digest verifies under a public key, and byte `i` of the signature
that the device's identity key makes. [DESIGN CHOICE, log 22] -/
opaque mlDsaVerify (key : List Byte) (digest : BitVec 512) (signature : List Byte) : Bool
opaque mlDsa87 (digest : BitVec 512) (i : Nat) : Byte

/-- Values fixed at manufacture (R369, R370). [DESIGN CHOICE, log 22] -/
opaque fusedKeyHash : BitVec 512
opaque deviceSerial : BitVec 96
opaque certChain : List Byte

/-- Keys of slot 0 from the on-die random source (R367 step 4), by reset count. [DESIGN CHOICE, log 22] -/
opaque randomKey : Nat → BitVec 512

/-- The SRAM array of a row identifier, and the array's spare rows, as fused (R352). [DESIGN CHOICE, log 23] -/
opaque sramArray : Nat → Nat
opaque sramSpares : Nat → Nat

/-- Which way a lane of a die-to-die boundary runs (R352, R353), by boundary and lane. [DESIGN CHOICE, log 23] -/
opaque laneWay : Nat → Nat → Bool

/-- New or old data of an overlapping copy word (R130), by the copy's number and word. [DESIGN CHOICE, log 24] -/
opaque overlapNew : Nat → Nat → Bool

/-- How much of a word or an operation that a function reset cuts short was applied (R295, R333).
[DESIGN CHOICE, log 78] -/
opaque cutAfter : Nat → Nat


end Sys2Proof.Config
end

