-- ==== Sys2Proof/Machine/Crypt.lean ====
section
/-! DEFINITION. The standard functions that the spec names: SHA3-512 (R369, R370; FIPS 202), and AES-256-XTS with 64-byte data
units (R346; FIPS 197, IEEE 1619). -/

namespace Sys2Proof.Machine

-- SHA3-512.

/-- Round constants of Keccak-f[1600]. -/
def keccakConstants : List DWord :=
  [0x0000000000000001, 0x0000000000008082, 0x800000000000808A, 0x8000000080008000, 0x000000000000808B, 0x0000000080000001,
   0x8000000080008081, 0x8000000000008009, 0x000000000000008A, 0x0000000000000088, 0x0000000080008009, 0x000000008000000A]
  ++ [0x000000008000808B, 0x800000000000008B, 0x8000000000008089, 0x8000000000008003, 0x8000000000008002, 0x8000000000000080,
   0x000000000000800A, 0x800000008000000A, 0x8000000080008081, 0x8000000000008080, 0x0000000080000001, 0x8000000080008008]

/-- Rotation of lane x + 5 y. -/
def keccakOffsets : List Nat :=
  [0, 1, 62, 28, 27, 36, 44, 6, 55, 20, 3, 10, 43, 25, 39, 41, 45, 15, 21, 8, 18, 2, 61, 56, 14]

def lane (a : List DWord) (x y : Nat) : DWord := a.getD (x % 5 + 5 * (y % 5)) 0

/-- One round: theta, rho, pi, chi, iota. -/
def keccakRound (a : List DWord) (rc : DWord) : List DWord :=
  let c := (List.range 5).map (fun x => (List.range 5).foldl (fun v y => v ^^^ lane a x y) 0)
  let d := (List.range 5).map (fun x => c.getD ((x + 4) % 5) 0 ^^^ (c.getD ((x + 1) % 5) 0).rotateLeft 1)
  let t := (List.range 25).map (fun i => (a.getD i 0 ^^^ d.getD (i % 5) 0).rotateLeft (keccakOffsets.getD i 0))
  let b := (List.range 25).map (fun i => lane t (i % 5 + 3 * (i / 5)) (i % 5))
  (List.range 25).map (fun i =>
    let x := i % 5
    let v := lane b x (i / 5) ^^^ (~~~(lane b (x + 1) (i / 5)) &&& lane b (x + 2) (i / 5))
    if i = 0 then v ^^^ rc else v)

def keccak (a : List DWord) : List DWord := keccakConstants.foldl keccakRound a

/-- Absorb blocks of 72 bytes. -/
def absorb : Nat → List DWord → List Byte → List DWord
  | 0, a, _ => a
  | n + 1, a, l => absorb n (keccak (a.mapIdx (fun i v => if i < 9 then v ^^^ BitVec.ofNat 64 (leNat ((l.drop (8 * i)).take 8)) else v)))
      (l.drop 72)

/-- SHA3-512, byte 0 of the digest in bits [7:0]. -/
def sha3 (data : List Byte) : BitVec 512 :=
  let k := 72 - data.length % 72
  let pad : List Byte := if k = 1 then [0x86] else 0x06 :: List.replicate (k - 2) 0 ++ [0x80]
  let a := absorb (data.length / 72 + 1) (List.replicate 25 0) (data ++ pad)
  BitVec.ofNat 512 (leNat ((a.take 8).flatMap (fun v => leBytes 8 v.toNat)))

-- AES-256.

/-- Multiply by x in the field of FIPS 197. -/
def xtime (b : Byte) : Byte := (b <<< 1) ^^^ (if b.getLsbD 7 then 0x1B else 0)
def gmul (a b : Byte) : Byte :=
  ((List.range 8).foldl (fun (p : Byte × Byte) i => (if b.getLsbD i then p.1 ^^^ p.2 else p.1, xtime p.2)) (0, a)).1
/-- The inverse, the 254th power; 0 for 0. -/
def ginv (a : Byte) : Byte :=
  ((List.range 7).foldl (fun (p : Byte × Byte) _ => let q := gmul p.2 p.2; (gmul p.1 q, q)) (1, a)).1
def subByte (a : Byte) : Byte :=
  let x := ginv a
  x ^^^ x.rotateLeft 1 ^^^ x.rotateLeft 2 ^^^ x.rotateLeft 3 ^^^ x.rotateLeft 4 ^^^ 0x63
def unsubByte (y : Byte) : Byte := ginv (y.rotateLeft 1 ^^^ y.rotateLeft 3 ^^^ y.rotateLeft 6 ^^^ 0x05)

def xorBytes (a b : List Byte) : List Byte := List.zipWith (· ^^^ ·) a b

/-- The key schedule, latest word first: `n` further words of 4 bytes. -/
def expandKey : Nat → List (List Byte) → List (List Byte)
  | 0, w => w
  | n + 1, w =>
    let i := w.length
    let t := w.headD []
    let u : List Byte :=
      if i % 8 = 0 then xorBytes ((t.drop 1 ++ t.take 1).map subByte) [(List.range (i / 8 - 1)).foldl (fun r _ => xtime r) 1, 0, 0, 0]
      else if i % 8 = 4 then t.map subByte else t
    expandKey n (xorBytes (w.getD 7 []) u :: w)

/-- The 15 round keys. -/
def roundKeys (key : List Byte) : List (List Byte) :=
  let w := (expandKey 52 ((List.range 8).map (fun i => (key.drop (4 * i)).take 4)).reverse).reverse
  (List.range 15).map (fun r => ((w.drop (4 * r)).take 4).flatMap id)

/-- ShiftRows with step `k` (1, or 3 for its inverse). -/
def shiftRows (k : Nat) (s : List Byte) : List Byte :=
  (List.range 16).map (fun i => s.getD (i % 4 + 4 * ((i / 4 + k * (i % 4)) % 4)) 0)

/-- Multiply each column by the circulant of `m`. -/
def mixColumns (m : List Byte) (s : List Byte) : List Byte :=
  (List.range 16).map (fun i => (List.range 4).foldl (fun v j =>
    v ^^^ gmul (s.getD (4 * (i / 4) + j) 0) (m.getD ((j + 4 - i % 4) % 4) 0)) 0)

def aesEncrypt (rk : List (List Byte)) (b : List Byte) : List Byte :=
  (List.range 14).foldl (fun s r =>
    let t := shiftRows 1 (s.map subByte)
    xorBytes (if r = 13 then t else mixColumns [2, 3, 1, 1] t) (rk.getD (r + 1) [])) (xorBytes b (rk.headD []))

def aesDecrypt (rk : List (List Byte)) (b : List Byte) : List Byte :=
  (List.range 14).foldl (fun s r =>
    let t := xorBytes ((shiftRows 3 s).map unsubByte) (rk.getD (13 - r) [])
    if r = 13 then t else mixColumns [14, 11, 13, 9] t) (xorBytes b (rk.getD 14 []))

/-- The tweaks of the four blocks of sector `sector`. -/
def xtsTweaks (key : BitVec 512) (sector : Nat) : List (List Byte) :=
  let t := aesEncrypt (roundKeys (leBytes 32 (key.toNat / 2 ^ 256))) (leBytes 16 sector)
  let next (v : List Byte) : List Byte :=
    let n := 2 * leNat v
    leBytes 16 (if n < 2 ^ 128 then n else Nat.xor (n - 2 ^ 128) 0x87)
  [t, next t, next (next t), next (next (next t))]

/-- One data unit through `f`, block by block. -/
def xtsUnit (f : List (List Byte) → List Byte → List Byte) (key : BitVec 512) (sector : Nat) (data : List Byte) : List Byte :=
  let rk := roundKeys (leBytes 32 (key.toNat % 2 ^ 256))
  (List.range 4).flatMap (fun j =>
    let t := (xtsTweaks key sector).getD j []
    xorBytes (f rk (xorBytes ((data.drop (16 * j)).take 16) t)) t)

/-- A sector's data, written under one key pair, as it reads under another (R346): the tweak is PA[51:6].
[DEDUCED, log 20] -/
def recrypt (written read : BitVec 512) (sector : Nat) (data : List Byte) : List Byte :=
  xtsUnit aesDecrypt read sector (xtsUnit aesEncrypt written sector data)

end Sys2Proof.Machine
end

