-- ==== Sys2Proof/Machine/Float.lean ====
section
/-! DEFINITION. Exact arithmetic on floating-point values and the one rounding function (R87, R91 to R93, R262, R264).
A finite value is (-1)^neg * mag * 2^exp with exact integers; results take a format only through roundTo. -/

namespace Sys2Proof.Machine

/-- What an exponent field of all ones means (R262). -/
inductive Special where
  | ieee   -- infinities and NaN
  | nanOnly -- NaN at the all-ones pattern only (E4M3)
  | none
deriving DecidableEq, Repr

/-- A floating-point format: exponent bits, mantissa bits, bias, special values (R262). -/
structure Fmt where
  eb : Nat
  mb : Nat
  bias : Nat
  sp : Special
deriving DecidableEq, Repr

def fp32 : Fmt := ⟨8, 23, 127, .ieee⟩
def fp64 : Fmt := ⟨11, 52, 1023, .ieee⟩
def fp16 : Fmt := ⟨5, 10, 15, .ieee⟩
def bf16 : Fmt := ⟨8, 7, 127, .ieee⟩
def e8m10 : Fmt := ⟨8, 10, 127, .ieee⟩
def e4m3 : Fmt := ⟨4, 3, 7, .nanOnly⟩
def e5m2 : Fmt := ⟨5, 2, 15, .ieee⟩
def e3m2 : Fmt := ⟨3, 2, 3, .none⟩
def e2m1 : Fmt := ⟨2, 1, 1, .none⟩

/-- An exact value. -/
inductive FVal where
  | nan
  | inf (neg : Bool)
  | fin (neg : Bool) (mag : Nat) (exp : Int)
deriving DecidableEq, Repr

/-- Rounding modes (R13). -/
inductive Mode where
  | rne | rtz | rup | rdn | rna
deriving DecidableEq, Repr

/-- RM of R91. -/
def Mode.ofRm (x : BitVec 2) : Mode :=
  match x.toNat with
  | 0 => .rne
  | 1 => .rtz
  | 2 => .rup
  | _ => .rdn

namespace Fmt
/-- Exponent field of all ones. -/
def emax (f : Fmt) : Nat := 2 ^ f.eb - 1
/-- Smallest normal exponent. -/
def emin (f : Fmt) : Int := 1 - (f.bias : Int)
/-- Pattern of the largest finite magnitude. -/
def maxPat (f : Fmt) : Nat :=
  match f.sp with
  | .ieee => f.emax * 2 ^ f.mb - 1
  | .nanOnly => f.emax * 2 ^ f.mb + 2 ^ f.mb - 2
  | .none => f.emax * 2 ^ f.mb + 2 ^ f.mb - 1
def infPat (f : Fmt) : Nat := f.emax * 2 ^ f.mb
/-- The canonical NaN (R87); E4M3 has the all-ones pattern. -/
def nanPat (f : Fmt) : Nat :=
  match f.sp with
  | .ieee => f.emax * 2 ^ f.mb + 2 ^ (f.mb - 1)
  | _ => f.emax * 2 ^ f.mb + 2 ^ f.mb - 1
def signPat (f : Fmt) (neg : Bool) : Nat := if neg then 2 ^ (f.eb + f.mb) else 0
end Fmt

/-- The value of a pattern (R262). -/
def decodeF (f : Fmt) (p : Nat) : FVal :=
  let neg := decide (p / 2 ^ (f.eb + f.mb) % 2 = 1)
  let e := p / 2 ^ f.mb % 2 ^ f.eb
  let m := p % 2 ^ f.mb
  if f.sp = .ieee ∧ e = f.emax then (if m = 0 then .inf neg else .nan)
  else if f.sp = .nanOnly ∧ e = f.emax ∧ m = 2 ^ f.mb - 1 then .nan
  else if e = 0 then .fin neg m (f.emin - f.mb)
  else .fin neg (2 ^ f.mb + m) ((e : Int) - f.bias - f.mb)

/-- Does the mode take the candidate farther from zero, given the discarded part r of 2^sh (R264 step 2)? -/
def roundUpQ (mode : Mode) (neg : Bool) (odd : Bool) (r half : Nat) (sticky : Bool) : Bool :=
  let inexact := decide (0 < r) || sticky
  match mode with
  | .rtz => false
  | .rup => !neg && inexact
  | .rdn => neg && inexact
  | .rne => decide (half < r) || (decide (r = half) && (sticky || odd))
  | .rna => decide (half ≤ r)

/-- The chosen candidate m * 2^q for mag * 2^exp, with `sticky` for a value just above it (R264 steps 1, 2). -/
def roundMag (mb : Nat) (emin : Int) (mode : Mode) (neg : Bool) (mag : Nat) (exp : Int) (sticky : Bool) : Nat × Int :=
  let q := max (exp + Nat.log2 mag - mb) (emin - mb)
  if q ≤ exp then (mag * 2 ^ (exp - q).toNat, q)
  else
    let sh := (q - exp).toNat
    let m := mag / 2 ^ sh
    let up := roundUpQ mode neg (decide (m % 2 = 1)) (mag % 2 ^ sh) (2 ^ (sh - 1)) sticky
    (if up then m + 1 else m, q)

/-- The pattern of m * 2^q, without its sign; not bounded above. -/
def patOf (f : Fmt) (m : Nat) (q : Int) : Nat :=
  if m = 0 then 0
  else
    let e := q + Nat.log2 m
    if e < f.emin then m * 2 ^ (q - (f.emin - f.mb)).toNat
    else (e + f.bias).toNat * 2 ^ f.mb + (if q ≤ e - f.mb then m / 2 ^ (e - f.mb - q).toNat else m * 2 ^ (q - (e - f.mb)).toNat)
      - 2 ^ f.mb

/-- What an overflow gives (R264 step 3) in a format with infinities. -/
def overflowPat (f : Fmt) (mode : Mode) (neg : Bool) : Nat :=
  match mode with
  | .rne | .rna => f.infPat
  | .rtz => f.maxPat
  | .rup => if neg then f.maxPat else f.infPat
  | .rdn => if neg then f.infPat else f.maxPat

/-- Does the chosen candidate exceed the largest finite value (R264 step 3)? -/
def overflows (f : Fmt) (m : Nat) (q : Int) : Bool := decide (f.maxPat < patOf f m q)

/-- round(x, fmt, mode) for the formats with IEEE overflow (R264), as a pattern; `sticky` marks a value just above. -/
def roundTo (f : Fmt) (mode : Mode) (x : FVal) (sticky : Bool := false) : Nat :=
  match x with
  | .nan => f.nanPat
  | .inf neg => f.signPat neg + f.infPat
  | .fin neg mag exp =>
    let r := roundMag f.mb f.emin mode neg mag exp sticky
    if overflows f r.1 r.2 then f.signPat neg + overflowPat f mode neg
    else f.signPat neg + patOf f r.1 r.2

namespace FVal

def isNan : FVal → Bool
  | .nan => true
  | _ => false

def negate : FVal → FVal
  | .nan => .nan
  | .inf n => .inf (!n)
  | .fin n m e => .fin (!n) m e

/-- The signed integer v * 2^e that a finite value is, at exponent `e` at or below its own. -/
def scaled (neg : Bool) (m : Nat) (ex e : Int) : Int :=
  let v : Int := ((m * 2 ^ (ex - e).toNat : Nat) : Int)
  if neg then -v else v

/-- An exact sum; an exact zero takes its sign from the mode (R87). -/
def add (mode : Mode) : FVal → FVal → FVal
  | .nan, _ => .nan
  | _, .nan => .nan
  | .inf a, .inf b => if a = b then .inf a else .nan
  | .inf a, _ => .inf a
  | _, .inf b => .inf b
  | .fin n1 m1 e1, .fin n2 m2 e2 =>
    let e := min e1 e2
    let v := scaled n1 m1 e1 e + scaled n2 m2 e2 e
    if v = 0 then (if m1 = 0 ∧ m2 = 0 ∧ n1 = n2 then .fin n1 0 e else .fin (mode == .rdn) 0 e)
    else .fin (decide (v < 0)) v.natAbs e

/-- An exact product. -/
def mul : FVal → FVal → FVal
  | .nan, _ => .nan
  | _, .nan => .nan
  | .inf a, .inf b => .inf (a != b)
  | .inf a, .fin n m _ => if m = 0 then .nan else .inf (a != n)
  | .fin n m _, .inf b => if m = 0 then .nan else .inf (n != b)
  | .fin n1 m1 e1, .fin n2 m2 e2 => .fin (n1 != n2) (m1 * m2) (e1 + e2)

/-- a * b + c, exact. -/
def fma (mode : Mode) (a b c : FVal) : FVal := add mode (mul a b) c

/-- Exact order of two values that are not NaN, with -0 below +0 when `zeros` (R93). -/
def lt (zeros : Bool) : FVal → FVal → Bool
  | .nan, _ => false
  | _, .nan => false
  | .inf a, .inf b => a && !b
  | .inf a, .fin _ _ _ => a
  | .fin _ _ _, .inf b => !b
  | .fin n1 m1 e1, .fin n2 m2 e2 =>
    let e := min e1 e2
    let a := scaled n1 m1 e1 e
    let b := scaled n2 m2 e2 e
    decide (a < b) || (zeros && decide (a = b) && decide (a = 0) && n1 && !n2)

/-- Numeric equality of two values that are not NaN. -/
def eq : FVal → FVal → Bool
  | .nan, _ => false
  | _, .nan => false
  | .inf a, .inf b => a == b
  | .inf _, .fin _ _ _ => false
  | .fin _ _ _, .inf _ => false
  | .fin n1 m1 e1, .fin n2 m2 e2 =>
    decide (scaled n1 m1 e1 (min e1 e2) = scaled n2 m2 e2 (min e1 e2))

/-- The value of an integer. -/
def ofInt (v : Int) : FVal := .fin (decide (v < 0)) v.natAbs 0

end FVal

/-- The lesser (or greater) of two patterns under R93. -/
def fminmax (f : Fmt) (wantMax : Bool) (a b : Nat) : Nat :=
  let x := decodeF f a
  let y := decodeF f b
  if x.isNan then (if y.isNan then f.nanPat else b)
  else if y.isNan then a
  else if wantMax then (if FVal.lt true x y then b else a)
  else if FVal.lt true y x then b else a

/-- Rounded sum, product and fused product of patterns (R92). -/
def faddP (f : Fmt) (mode : Mode) (a b : Nat) : Nat := roundTo f mode (FVal.add mode (decodeF f a) (decodeF f b))
def fmulP (f : Fmt) (mode : Mode) (a b : Nat) : Nat := roundTo f mode (FVal.mul (decodeF f a) (decodeF f b))
def ffmaP (f : Fmt) (mode : Mode) (a b c : Nat) : Nat :=
  roundTo f mode (FVal.fma mode (decodeF f a) (decodeF f b) (decodeF f c))

/-- Flip the sign of a pattern. -/
def fnegP (f : Fmt) (a : Nat) : Nat :=
  if a / 2 ^ (f.eb + f.mb) % 2 = 1 then a - 2 ^ (f.eb + f.mb) else a + 2 ^ (f.eb + f.mb)

/-- The integer square root, bit by bit: the largest r with r * r at or below v, trying bits below `k`. -/
def isqrtFrom : Nat → Nat → Nat → Nat
  | 0, r, _ => r
  | k + 1, r, v => isqrtFrom k (if (r + 2 ^ k) * (r + 2 ^ k) ≤ v then r + 2 ^ k else r) v

def isqrt (v : Nat) : Nat := isqrtFrom (Nat.log2 v / 2 + 1) 0 v

/-- Correctly rounded square root (R92): 64 extra bits and a sticky bit. -/
def fsqrtP (f : Fmt) (mode : Mode) (a : Nat) : Nat :=
  match decodeF f a with
  | .nan => f.nanPat
  | .inf neg => if neg then f.nanPat else f.infPat
  | .fin neg m e =>
    if m = 0 then a
    else if neg then f.nanPat
    else
      let sh : Nat := 128 + (e % 2).toNat
      let v := m * 2 ^ sh
      let r := isqrt v
      roundTo f mode (.fin false r ((e - sh) / 2)) (decide (r * r < v))

/-- .sat of R91: NaN to +0, else clamp to [+0, 1]. -/
def fsatP (f : Fmt) (p : Nat) : Nat :=
  match decodeF f p with
  | .nan => 0
  | .inf neg => if neg then 0 else f.bias * 2 ^ f.mb
  | .fin neg m e =>
    if neg then 0 else if FVal.lt false (.fin false 1 0) (.fin neg m e) then f.bias * 2 ^ f.mb else p

end Sys2Proof.Machine
end

