-- ==== Sys2Proof/Syntax.lean ====
section
/-! DEFINITION. The instruction syntax: one constructor of Instr for each row of spec/opcode_table.json. A row that is
an instruction word carries the fields of its format (R29); a row that is an event of the device carries the values
that name its subject, and what the environment chooses. -/

namespace Sys2Proof

/-- An 11-bit source field (R31): mode 00 register by flat index or Quartz s-register, 01 literal, 10 latch entry,
11 unit s-register. -/
inductive Src where
  | reg (f : BitVec 9)
  | lit (f : BitVec 9)
  | latch (f : BitVec 9)
  | sreg (f : BitVec 9)
deriving DecidableEq, Repr

/-- The 5-bit guard (R32). -/
structure Guard where
  en : Bool
  neg : Bool
  p : BitVec 3
deriving DecidableEq, Repr

/-- The hold field H of format A (R29). -/
inductive Hold where
  | none | s1 | s2 | s3
deriving DecidableEq, Repr

/-- ORD of format M (R36). -/
inductive Order where
  | rlx | acq | rel | sc
deriving DecidableEq, Repr

/-- Format A (R29), with the E bit of R25. -/
structure AOps where
  e : Bool
  d : BitVec 9
  s1 : Src
  s2 : Src
  s3 : Src
  g : Guard
  h : Hold
  x : BitVec 3
  hint : Bool
deriving DecidableEq, Repr

/-- Format I (R29). -/
structure IOps where
  e : Bool
  d : BitVec 9
  s1 : Src
  imm : BitVec 32
  hint : Bool
deriving DecidableEq, Repr

/-- Format M (R29). -/
structure MOps where
  e : Bool
  d : BitVec 9
  ar : BitVec 4
  ix : Src
  off : BitVec 16
  g : Guard
  sz : BitVec 3
  ord : Order
  scope : BitVec 3
deriving DecidableEq, Repr

/-- Format B (R29). -/
structure BOps where
  e : Bool
  s1 : Src
  s2 : Src
  cond : BitVec 4
  off : BitVec 26
  hint : Bool
deriving DecidableEq, Repr

/-- One half of a pair word (R39). -/
structure Half where
  op : BitVec 7
  d : BitVec 9
  s : Src
  h : Bool
  x : BitVec 3
deriving DecidableEq, Repr

/-- A pair word: half 0 in [61:31], half 1 in [30:0] (R25). -/
structure POps where
  e : Bool
  h0 : Half
  h1 : Half
deriving DecidableEq, Repr

/-- The space of a seal table (R132). -/
inductive SealSpace where
  | x | w | y
deriving DecidableEq, Repr

/-- The key of a bin: a program counter, and a warp when filed by REFORM.W or at unit start (R194). -/
structure BinKey where
  pc : Pc
  warp : Option Nat
deriving DecidableEq, Repr

/-- Who asks a home for a read (R284). -/
inductive Requester where
  | core (core : Nat)
  | die (d : Nat)
  | host
deriving DecidableEq, Repr

/-- The level of a work handle (R181). -/
inductive Level where
  | launch | graph | phase | job
deriving DecidableEq, Repr

/-- A section of a code object (R52); `other` names one that is loaded by its ordinary ELF meaning. -/
inductive Section where
  | text | quartz | launch | other (n : Nat)
deriving DecidableEq, Repr

/-- A relocation of a code object (R54): `sym` is none for SHN_UNDEF, else the symbol's value relative to the load base. -/
structure Reloc where
  rtype : Nat
  sec : Section
  off : Nat
  sym : Option Int
  addend : Int
deriving DecidableEq, Repr

/-- A level note (R53). -/
structure LevelNote where
  namesz : Nat
  descsz : Nat
  ntype : Nat
  name : List Byte
  required : Nat
  target : Nat
deriving DecidableEq, Repr

/-- An allocated section that the device does not interpret (R52): its bytes in memory, and its address relative to the load
base. -/
structure DataSection where
  at_ : Nat
  bytes : List Byte
deriving DecidableEq, Repr

/-- A code object by the fields that the loader reads (R51 to R54); section bytes as they stand in the file, and the
addresses of the sections relative to the load base, as ELF gives them. -/
structure CodeObject where
  eiClass : Nat
  eiData : Nat
  eiVersion : Nat
  eType : Nat
  eMachine : Nat
  notes : List LevelNote
  text : List Byte
  quartz : List Byte
  launch : List Byte
  textAt : Nat
  quartzAt : Nat
  launchAt : Nat
  others : List DataSection
  nTemplates : Nat
  relocs : List Reloc
deriving DecidableEq, Repr

/-- The bytes of a copy that land (R130): the first, and how many at the most. -/
structure CopySpan where
  start : Nat
  len : Nat
deriving DecidableEq, Repr

/-- A firmware image (R369): its signing key, its header (security version, digest of the body), the signature over the header's
digest, and its body. -/
structure Firmware where
  key : List Byte
  version : Nat
  digest : BitVec 512
  signature : List Byte
  body : List Byte
deriving DecidableEq, Repr

/-- A wrong sum of the matrix array (R277): `value` * 2^`exp` is added to the sum of a group of products, in the first computation
of its block, and with `again` in the rerun too. -/
structure ArrayFault where
  row : Nat
  col : Nat
  group : Nat
  value : Int
  exp : Int
  again : Bool
deriving DecidableEq, Repr

/-- How a bring-up goes (R367, R368): whether H1 trains as the coherent link, and the step that fails for hardware, if any, with its
failing check. -/
structure BringUp where
  h1Coherent : Bool
  failStep : Option (Nat × Nat)
deriving DecidableEq, Repr

/-- The part that detects an ECC error (R356, R362). Of an HBM4E or second-tier error also its granularity (1 sector, 3 row, 4 bank,
5 channel) and the length of its range. -/
inductive EccSite where
  | hbm (channel : Nat) (aux1 : DWord) (gran : Nat) (len : Nat)
  | sram (structure_ : Nat) (row : DWord)
deriving DecidableEq, Repr

/-- A 64-bit command-queue register value or a wider window register write. -/
structure RegWrite where
  func : Nat
  offset : Nat
  size : Nat
  value : Nat
deriving DecidableEq, Repr

/-- One constructor for each row of the opcode table. -/
inductive Instr where
  -- integer, index, control
  | nop (o : AOps)
  | pairWord (o : POps)
  | iadd (o : AOps) | isub (o : AOps) | imul (o : AOps) | imulhi (o : AOps) | imad (o : AOps)
  | ineg (o : AOps) | iabs (o : AOps) | imin (o : AOps) | imax (o : AOps) | iminu (o : AOps) | imaxu (o : AOps)
  | iaddWide (o : IOps) | imulWide (o : IOps) | andWide (o : IOps) | orWide (o : IOps) | xorWide (o : IOps)
  | iminWide (o : IOps) | imaxWide (o : IOps) | movi (o : IOps) | moviHi (o : IOps)
  | shl (o : AOps) | shra (o : AOps) | shrl (o : AOps) | rotl (o : AOps)
  | and (o : AOps) | or (o : AOps) | xor (o : AOps) | andn (o : AOps) | not (o : AOps)
  | popc (o : AOps) | clz (o : AOps) | brev (o : AOps) | bfx (o : AOps) | bfi (o : AOps) | prmt (o : AOps)
  | mov (o : AOps) | kmov (o : AOps) | rdspec (o : IOps) | iwiden (o : AOps) | klo (o : AOps) | khi (o : AOps)
  | icmp (o : AOps) | pand (o : AOps) | por (o : AOps) | pxor (o : AOps) | pnot (o : AOps) | sel (o : AOps)
  | lread (o : AOps) | lshfx (o : AOps) | lbcast (o : AOps) | lsum (o : AOps) | lmax (o : AOps)
  | vote (o : AOps) | lprefix (o : AOps)
  | bra (o : BOps) | brc (o : BOps) | brp (o : BOps) | jmpx (o : AOps) | call (o : BOps) | ret (o : AOps)
  | reform (o : AOps) | exit (o : AOps)
  -- floating point
  | fadd (o : AOps) | fsub (o : AOps) | fmul (o : AOps) | ffma (o : AOps) | fsqrt (o : AOps)
  | dadd (o : AOps) | dmul (o : AOps) | dfma (o : AOps) | fmin (o : AOps) | fmax (o : AOps)
  | dmin (o : AOps) | dmax (o : AOps) | fcmp (o : AOps) | dcmp (o : AOps) | fclass (o : AOps)
  | frcp (o : AOps) | frsq (o : AOps) | fexp2 (o : AOps) | flog2 (o : AOps) | fsin (o : AOps) | fcos (o : AOps)
  | hadd2 (o : AOps) | hmul2 (o : AOps) | hfma2 (o : AOps) | hmax2 (o : AOps)
  | f2i (o : AOps) | i2f (o : AOps) | f2f (o : AOps) | f2d (o : AOps) | d2f (o : AOps)
  | cvts (o : AOps) | cvtl (o : AOps)
  -- memory
  | aset (o : AOps) | aget (o : AOps)
  | ld (o : MOps) | st (o : MOps) | ldu (o : MOps) | ldx (o : MOps) | stx (o : MOps) | ldy (o : MOps)
  | pref (o : MOps) | cinv (o : MOps) | cwb (o : MOps)
  | atomAdd (o : MOps) | atomAnd (o : MOps) | atomOr (o : MOps) | atomXor (o : MOps) | atomMin (o : MOps)
  | atomMax (o : MOps) | atomExch (o : MOps) | atomIncw (o : MOps) | atomDecw (o : MOps) | atomAddb (o : MOps)
  | atomfAdd (o : MOps) | atomfMin (o : MOps) | atomfMax (o : MOps) | cas (o : MOps)
  | redAdd (o : MOps) | redAnd (o : MOps) | redOr (o : MOps) | redXor (o : MOps) | redMin (o : MOps) | redMax (o : MOps)
  | updAddI32 (o : MOps) | updAddI64 (o : MOps) | updAddF32 (o : MOps) | updMinI32 (o : MOps)
  | updMaxI32 (o : MOps) | updMinN32 (o : MOps) | updMaxN32 (o : MOps) | updMinF32 (o : MOps)
  | updMaxF32 (o : MOps) | updOrB32 (o : MOps) | updXorB32 (o : MOps) | updAndB32 (o : MOps)
  | fence (o : AOps)
  | cpy (o : AOps) | cpym (o : AOps) | cpyw (o : AOps) | cpyf (o : AOps) | bgath (o : AOps) | bscat (o : AOps)
  | seal (o : AOps) | reclaim (o : AOps)
  | sealEntryRemove (space : SealSpace) (place : Nat) (start : Nat)
  | bar (o : AOps) | binit (o : AOps) | bexp (o : AOps) | bwait (o : AOps)
  | qinit (o : AOps) | qpush (o : AOps) | qpop (o : AOps) | twait (o : AOps) | tread (o : AOps)
  | topk (o : AOps) | bvmask (o : AOps)
  -- Quartz
  | mma (o : AOps) | mmas (o : AOps) | mzero (o : AOps) | mldm (o : AOps) | mdrain (o : AOps) | mqnt (o : AOps)
  | mchk (o : AOps) | mscl (o : AOps)
  -- system and work
  | trap (o : IOps) | sysc (o : IOps) | tret (o : AOps) | rplx (o : AOps) | rplw (o : AOps) | rpld (o : AOps)
  | xrd (o : AOps) | xwr (o : AOps)
  | rinit (o : AOps) | rinitPerform (die : Nat) | rgrab (o : AOps)
  | lnch (o : AOps) | cntw (o : AOps) | cncl (o : AOps) | dlread (o : AOps) | idem (o : AOps)
  -- events: loader, bins, dispatch
  | codeObjectLoad (f : Nat) (base : Nat) (obj : CodeObject)
  | binAged (uid : Nat) (key : BinKey)
  | binDraw (core : Nat)
  | binBringBack (uid : Nat) (key : BinKey)
  | dissolutionMark (core : Nat)
  | groupDissolve (core : Nat) (slot : Nat)
  | cohortStart (offs : List Nat)
  | unitComplete (uid : Nat)
  | quartzContextEnd (cluster : Nat) (ctx : Nat)
  | launchComplete (f : Nat) (idx : Nat)
  -- events: engines
  | copyBytesLand (op : Nat) (core : Nat) (span : CopySpan)
  | copyComplete (op : Nat)
  | gatherComplete (op : Nat)
  | engineTranslationFault (op : Nat)
  | faultRecordWrite (id : Nat)
  | topkComplete (core : Nat)
  | prefetchHintFill (cluster : Nat)
  | matrixGrant (cluster : Nat) (faults : List ArrayFault)
  | matrixOperationComplete (cluster : Nat) (seq : Nat)
  | ebudRefill
  | rgrabReply (die : Nat)
  -- commands
  | cqtailWrite (f : Nat) (value : BitVec 32)
  | job (f : Nat) | phase (f : Nat) | graph (f : Nat) | close (f : Nat) | cancel (f : Nat) | wait (f : Nat)
  | inval (f : Nat) | invalComplete (id : Nat) | ctxswSave (f : Nat) | ctxswResume (f : Nat)
  -- sequencer
  | nodeStart (f : Nat) (idx : Nat)
  | workObjectEnd (f : Nat) (level : Level) (idx : Nat)
  | nodeDeadlineExpire (f : Nat) (idx : Nat)
  | phaseDeadlineExpire (f : Nat) (idx : Nat)
  | cancelHang (f : Nat) (level : Level) (idx : Nat)
  | fanswerRetry (f : Nat) (tag : BitVec 32)
  | fanswerDeliver (f : Nat) (tag : BitVec 32)
  | fanswerAbort (f : Nat) (tag : BitVec 32)
  -- pre-emption
  | tenantSliceEnd (cluster : Nat)
  | drainTimeout (uid : Nat)
  | unitSave (uid : Nat)
  | forcedSave (uid : Nat)
  | quartzContextSave (cluster : Nat) (ctx : Nat)
  | unitRestore (f : Nat) (idx : Nat) (cohort : Nat)
  | ctxswSliceTimeout (f : Nat)
  | unitRelaunch (uid : Nat)
  -- homes and views
  | homeReadRequest (pa : Nat) (who : Requester)
  | homeWriteRequest (id : Nat)
  | homeAtomic (id : Nat)
  | updRegistration (id : Nat)
  | homeCwb (id : Nat)
  | dropNotice (die : Nat) (line : Nat)
  | writeApply (die : Nat) (home : Nat)
  | lineFill (die : Nat) (line : Nat)
  | l1CopyExpire (core : Nat) (sector : Nat)
  | partialEvict (core : Nat) (sector : Nat)
  | collectorEvict (die : Nat) (sector : Nat)
  | directoryError (line : Nat) (dataCorrect : Bool)
  | hostRead (pa : Nat) (n : Nat)
  | hostWrite (pa : Nat) (data : List Byte)
  | hostHomeUpdate (die : Nat) (line : Nat) (invalidate : Bool)
  | h1CoherentLoss
  | fabricMessageReceive (port : Nat) (sub : Nat) (ppid : Nat) (f : Nat) (va : Nat) (kind : BitVec 3) (data : List Byte)
  | fabricWakeReceive (port : Nat) (sub : Nat) (ppid : Nat) (f : Nat)
  | eccCorrected (pa : Nat) (f : Nat) (va : Option Nat) (where_ : EccSite) (site : BitVec 32)
  | eccUncorrectable (pa : Nat) (f : Nat) (va : Option Nat) (where_ : EccSite) (site : BitVec 32)
  -- tenants
  | collapseBegin (f : Nat)
  | wakeWrite (f : Nat) (value : BitVec 32)
  | wakeEnd (f : Nat)
  | fabricWakeSend (value : BitVec 64)
  | partitionEnable (p : Nat) (value : BitVec 64)
  | partitionDisable (p : Nat) (value : BitVec 64)
  | functionCreate (f : Nat) (value : BitVec 512)
  | functionDisable (f : Nat) (value : BitVec 512)
  | keyInstall (value : BitVec 64)
  | keyZeroise (value : BitVec 64)
  | psplitWrite (value : BitVec 64)
  -- repair, power, bring-up
  | repairSoftRow (value : BitVec 128)
  | softRepairComplete
  | repairHardRow (value : BitVec 128)
  | repairArrayColumn (value : BitVec 128)
  | repairArrayRow (value : BitVec 128)
  | repairCluster (value : BitVec 128)
  | repairSramRow (value : BitVec 128)
  | repairD2dLane (value : BitVec 128)
  | repairFabricLane (value : BitVec 128)
  | pclr (value : BitVec 64)
  | attest (value : BitVec 128)
  | powerThrottle (us : Nat)
  | packageReset (fw : Firmware) (h1Coherent : Bool) (failStep : Option (Nat × Nat))
  | recoveryImage (fw : Firmware) (b : BringUp)
  | certChainRead
  | registerWrite (w : RegWrite)
  | collapseComplete (f : Nat)
  | attestComplete
  | linkLaneError (fabric : Bool) (boundary : Nat) (lane : Nat)
deriving DecidableEq, Repr

end Sys2Proof
end

