-- ==== Sys2Proof/Decode.lean ====
section
/-! DEFINITION. The 64-bit instruction word (R25, R29, R31, R39, R42, R43): the decoder, total on every word and
rejecting by name, and after it the encoder. MBZ fields, modifiers and register ranges are kept in the record, since
they are check 3 of R44, which reports a trap of its own (WellFormed.lean). -/

namespace Sys2Proof

/-- What a word decodes to: an instruction, or an unassigned opcode, which raises illegal-instruction (R43, R44). -/
inductive Decoded where
  | word (i : Instr)
  | unassigned (opcode : Nat)
deriving DecidableEq, Repr

/-- A source field: mode in [10:9], field in [8:0] (R31). -/
def Src.ofBits (x : BitVec 11) : Src :=
  let f := bits x 0 9
  match (bits x 9 2).toNat with
  | 0 => .reg f
  | 1 => .lit f
  | 2 => .latch f
  | _ => .sreg f

/-- The guard field: enable, negate, predicate (R32). -/
def Guard.ofBits (x : BitVec 5) : Guard := ⟨x.getLsbD 4, x.getLsbD 3, bits x 0 3⟩

/-- The hold field (R29). -/
def Hold.ofBits (x : BitVec 2) : Hold :=
  match x.toNat with
  | 0 => .none
  | 1 => .s1
  | 2 => .s2
  | _ => .s3

/-- The order field (R36). -/
def Order.ofBits (x : BitVec 2) : Order :=
  match x.toNat with
  | 0 => .rlx
  | 1 => .acq
  | 2 => .rel
  | _ => .sc

/-- Format A (R29). -/
def unpackA (w : BitVec 64) : AOps :=
  { e := w.getLsbD 63, d := bits w 44 9, s1 := .ofBits (bits w 33 11), s2 := .ofBits (bits w 22 11),
    s3 := .ofBits (bits w 11 11), g := .ofBits (bits w 6 5), h := .ofBits (bits w 4 2), x := bits w 1 3,
    hint := w.getLsbD 0 }

/-- Format I (R29). -/
def unpackI (w : BitVec 64) : IOps :=
  { e := w.getLsbD 63, d := bits w 44 9, s1 := .ofBits (bits w 33 11), imm := bits w 1 32, hint := w.getLsbD 0 }

/-- Format M (R29). -/
def unpackM (w : BitVec 64) : MOps :=
  { e := w.getLsbD 63, d := bits w 44 9, ar := bits w 40 4, ix := .ofBits (bits w 29 11), off := bits w 13 16,
    g := .ofBits (bits w 8 5), sz := bits w 5 3, ord := .ofBits (bits w 3 2), scope := bits w 0 3 }

/-- Format B (R29). -/
def unpackB (w : BitVec 64) : BOps :=
  { e := w.getLsbD 63, s1 := .ofBits (bits w 42 11), s2 := .ofBits (bits w 31 11), cond := bits w 27 4,
    off := bits w 1 26, hint := w.getLsbD 0 }

/-- One half of a pair word (R39). -/
def unpackHalf (h : BitVec 31) : Half :=
  { op := bits h 24 7, d := bits h 15 9, s := .ofBits (bits h 4 11), h := h.getLsbD 3, x := bits h 0 3 }

/-- A pair word: half 0 in [61:31], half 1 in [30:0] (R25). -/
def unpackP (w : BitVec 64) : POps :=
  { e := w.getLsbD 63, h0 := unpackHalf (bits w 31 31), h1 := unpackHalf (bits w 0 31) }

/-- The pair opcodes of R42. -/
def pairOpAssigned (op : BitVec 7) : Bool :=
  decide (op.toNat < 0x18) || (decide (0x20 ≤ op.toNat) && decide (op.toNat < 0x2F))

/-- Opcodes of format A (R43). -/
def opcodeA : Nat → Option (AOps → Instr)
  | 0x000 => some .nop
  | 0x001 => some .iadd
  | 0x002 => some .isub
  | 0x003 => some .imul
  | 0x004 => some .imulhi
  | 0x005 => some .imad
  | 0x006 => some .ineg
  | 0x007 => some .iabs
  | 0x008 => some .imin
  | 0x009 => some .imax
  | 0x00A => some .iminu
  | 0x00B => some .imaxu
  | 0x010 => some .shl
  | 0x011 => some .shra
  | 0x012 => some .shrl
  | 0x013 => some .rotl
  | 0x014 => some .and
  | 0x015 => some .or
  | 0x016 => some .xor
  | 0x017 => some .andn
  | 0x018 => some .not
  | 0x019 => some .popc
  | 0x01A => some .clz
  | 0x01B => some .brev
  | 0x01C => some .bfx
  | 0x01D => some .bfi
  | 0x01E => some .prmt
  | 0x030 => some .kmov
  | 0x031 => some .iwiden
  | 0x032 => some .klo
  | 0x033 => some .khi
  | 0x038 => some .icmp
  | 0x039 => some .pand
  | 0x03A => some .por
  | 0x03B => some .pxor
  | 0x03C => some .pnot
  | 0x03D => some .sel
  | 0x040 => some .mov
  | 0x048 => some .lread
  | 0x049 => some .lshfx
  | 0x04A => some .lsum
  | 0x04B => some .lmax
  | 0x04C => some .vote
  | 0x04D => some .lprefix
  | 0x04E => some .lbcast
  | 0x053 => some .jmpx
  | 0x055 => some .ret
  | 0x056 => some .reform
  | 0x057 => some .exit
  | 0x080 => some .fadd
  | 0x081 => some .fsub
  | 0x082 => some .fmul
  | 0x083 => some .ffma
  | 0x084 => some .fmin
  | 0x085 => some .fmax
  | 0x086 => some .fcmp
  | 0x087 => some .fclass
  | 0x088 => some .frcp
  | 0x089 => some .frsq
  | 0x08A => some .fsqrt
  | 0x08B => some .fexp2
  | 0x08C => some .flog2
  | 0x08D => some .fsin
  | 0x08E => some .fcos
  | 0x090 => some .dadd
  | 0x091 => some .dmul
  | 0x092 => some .dfma
  | 0x093 => some .dcmp
  | 0x094 => some .dmin
  | 0x095 => some .dmax
  | 0x098 => some .hadd2
  | 0x099 => some .hmul2
  | 0x09A => some .hfma2
  | 0x09B => some .hmax2
  | 0x0A0 => some .f2i
  | 0x0A1 => some .i2f
  | 0x0A2 => some .f2f
  | 0x0A3 => some .f2d
  | 0x0A4 => some .d2f
  | 0x0A5 => some .cvts
  | 0x0A6 => some .cvtl
  | 0x0C0 => some .aset
  | 0x0C1 => some .aget
  | 0x100 => some .fence
  | 0x101 => some .cpy
  | 0x102 => some .cpym
  | 0x103 => some .cpyw
  | 0x104 => some .cpyf
  | 0x105 => some .bgath
  | 0x106 => some .bscat
  | 0x107 => some .seal
  | 0x108 => some .reclaim
  | 0x110 => some .bar
  | 0x111 => some .binit
  | 0x112 => some .bexp
  | 0x113 => some .bwait
  | 0x114 => some .qinit
  | 0x115 => some .qpush
  | 0x116 => some .qpop
  | 0x117 => some .twait
  | 0x118 => some .tread
  | 0x119 => some .topk
  | 0x11A => some .bvmask
  | 0x140 => some .mma
  | 0x141 => some .mmas
  | 0x142 => some .mzero
  | 0x143 => some .mldm
  | 0x144 => some .mdrain
  | 0x145 => some .mqnt
  | 0x146 => some .mchk
  | 0x147 => some .mscl
  | 0x181 => some .tret
  | 0x182 => some .rplx
  | 0x183 => some .rplw
  | 0x184 => some .rpld
  | 0x185 => some .xrd
  | 0x186 => some .xwr
  | 0x188 => some .rinit
  | 0x189 => some .rgrab
  | 0x18A => some .lnch
  | 0x18B => some .cntw
  | 0x18C => some .cncl
  | 0x18D => some .dlread
  | 0x18E => some .idem
  | _ => none

/-- Opcodes of format I (R43). -/
def opcodeI : Nat → Option (IOps → Instr)
  | 0x020 => some .iaddWide
  | 0x021 => some .imulWide
  | 0x022 => some .andWide
  | 0x023 => some .orWide
  | 0x024 => some .xorWide
  | 0x025 => some .iminWide
  | 0x026 => some .imaxWide
  | 0x027 => some fun o => if o.s1 = .lit 0 then .movi o else .moviHi o
  | 0x041 => some .rdspec
  | 0x180 => some .trap
  | 0x187 => some .sysc
  | _ => none

/-- Opcodes of format M (R43). -/
def opcodeM : Nat → Option (MOps → Instr)
  | 0x0C2 => some .ld
  | 0x0C3 => some .st
  | 0x0C4 => some .ldu
  | 0x0C5 => some .ldx
  | 0x0C6 => some .stx
  | 0x0C7 => some .ldy
  | 0x0C8 => some .pref
  | 0x0C9 => some .cinv
  | 0x0CA => some .cwb
  | 0x0D0 => some .atomAdd
  | 0x0D1 => some .atomAnd
  | 0x0D2 => some .atomOr
  | 0x0D3 => some .atomXor
  | 0x0D4 => some .atomMin
  | 0x0D5 => some .atomMax
  | 0x0D6 => some .atomExch
  | 0x0D7 => some .atomIncw
  | 0x0D8 => some .atomDecw
  | 0x0D9 => some .atomAddb
  | 0x0DA => some .atomfAdd
  | 0x0DB => some .atomfMin
  | 0x0DC => some .atomfMax
  | 0x0DD => some .cas
  | 0x0E0 => some .redAdd
  | 0x0E1 => some .redAnd
  | 0x0E2 => some .redOr
  | 0x0E3 => some .redXor
  | 0x0E4 => some .redMin
  | 0x0E5 => some .redMax
  | 0x0F0 => some .updAddI32
  | 0x0F1 => some .updAddI64
  | 0x0F2 => some .updAddF32
  | 0x0F3 => some .updMinI32
  | 0x0F4 => some .updMaxI32
  | 0x0F5 => some .updMinN32
  | 0x0F6 => some .updMaxN32
  | 0x0F7 => some .updMinF32
  | 0x0F8 => some .updMaxF32
  | 0x0F9 => some .updOrB32
  | 0x0FA => some .updXorB32
  | 0x0FB => some .updAndB32
  | _ => none

/-- Opcodes of format B (R43). -/
def opcodeB : Nat → Option (BOps → Instr)
  | 0x050 => some .bra
  | 0x051 => some .brc
  | 0x052 => some .brp
  | 0x054 => some .call
  | _ => none

/-- Decode one word: K selects the pair form; the opcode OP[61:53] implies the format (R25, R43). -/
def decode (w : BitVec 64) : Decoded :=
  if w.getLsbD 62 then
    let o := unpackP w
    if !pairOpAssigned o.h0.op then .unassigned o.h0.op.toNat
    else if !pairOpAssigned o.h1.op then .unassigned o.h1.op.toNat
    else .word (.pairWord o)
  else
    let op := (bits w 53 9).toNat
    match opcodeA op with
    | some c => .word (c (unpackA w))
    | none =>
      match opcodeM op with
      | some c => .word (c (unpackM w))
      | none =>
        match opcodeI op with
        | some c => .word (c (unpackI w))
        | none =>
          match opcodeB op with
          | some c => .word (c (unpackB w))
          | none => .unassigned op

/-- The word held by eight bytes, the lowest address first (R10). -/
def wordOfBytes (l : List Byte) : BitVec 64 := BitVec.ofNat 64 (leNat l)

/-- Decode the eight bytes of a word. -/
def decodeBytes (l : List Byte) : Decoded := decode (wordOfBytes l)

def Src.toBits : Src → BitVec 11
  | .reg f => 0#2 ++ f
  | .lit f => 1#2 ++ f
  | .latch f => 2#2 ++ f
  | .sreg f => 3#2 ++ f

def Guard.toBits (g : Guard) : BitVec 5 := BitVec.ofBool g.en ++ BitVec.ofBool g.neg ++ g.p

def Hold.toBits : Hold → BitVec 2
  | .none => 0
  | .s1 => 1
  | .s2 => 2
  | .s3 => 3

def Order.toBits : Order → BitVec 2
  | .rlx => 0
  | .acq => 1
  | .rel => 2
  | .sc => 3

def packA (op : Nat) (o : AOps) : BitVec 64 :=
  BitVec.ofBool o.e ++ 0#1 ++ BitVec.ofNat 9 op ++ o.d ++ o.s1.toBits ++ o.s2.toBits ++ o.s3.toBits ++ o.g.toBits
    ++ o.h.toBits ++ o.x ++ BitVec.ofBool o.hint

def packI (op : Nat) (o : IOps) : BitVec 64 :=
  BitVec.ofBool o.e ++ 0#1 ++ BitVec.ofNat 9 op ++ o.d ++ o.s1.toBits ++ o.imm ++ BitVec.ofBool o.hint

def packM (op : Nat) (o : MOps) : BitVec 64 :=
  BitVec.ofBool o.e ++ 0#1 ++ BitVec.ofNat 9 op ++ o.d ++ o.ar ++ o.ix.toBits ++ o.off ++ o.g.toBits ++ o.sz
    ++ o.ord.toBits ++ o.scope

def packB (op : Nat) (o : BOps) : BitVec 64 :=
  BitVec.ofBool o.e ++ 0#1 ++ BitVec.ofNat 9 op ++ o.s1.toBits ++ o.s2.toBits ++ o.cond ++ o.off ++ BitVec.ofBool o.hint

def packHalf (h : Half) : BitVec 31 := h.op ++ h.d ++ h.s.toBits ++ BitVec.ofBool h.h ++ h.x

def packP (o : POps) : BitVec 64 := BitVec.ofBool o.e ++ 1#1 ++ packHalf o.h0 ++ packHalf o.h1

/-- Encode the word of an instruction (R25, R29, R39, R43); none for an event, which has no word. -/
def encode : Instr → Option (BitVec 64)
  | .nop o => some (packA 0x000 o)
  | .iadd o => some (packA 0x001 o)
  | .isub o => some (packA 0x002 o)
  | .imul o => some (packA 0x003 o)
  | .imulhi o => some (packA 0x004 o)
  | .imad o => some (packA 0x005 o)
  | .ineg o => some (packA 0x006 o)
  | .iabs o => some (packA 0x007 o)
  | .imin o => some (packA 0x008 o)
  | .imax o => some (packA 0x009 o)
  | .iminu o => some (packA 0x00A o)
  | .imaxu o => some (packA 0x00B o)
  | .shl o => some (packA 0x010 o)
  | .shra o => some (packA 0x011 o)
  | .shrl o => some (packA 0x012 o)
  | .rotl o => some (packA 0x013 o)
  | .and o => some (packA 0x014 o)
  | .or o => some (packA 0x015 o)
  | .xor o => some (packA 0x016 o)
  | .andn o => some (packA 0x017 o)
  | .not o => some (packA 0x018 o)
  | .popc o => some (packA 0x019 o)
  | .clz o => some (packA 0x01A o)
  | .brev o => some (packA 0x01B o)
  | .bfx o => some (packA 0x01C o)
  | .bfi o => some (packA 0x01D o)
  | .prmt o => some (packA 0x01E o)
  | .iaddWide o => some (packI 0x020 o)
  | .imulWide o => some (packI 0x021 o)
  | .andWide o => some (packI 0x022 o)
  | .orWide o => some (packI 0x023 o)
  | .xorWide o => some (packI 0x024 o)
  | .iminWide o => some (packI 0x025 o)
  | .imaxWide o => some (packI 0x026 o)
  | .movi o => some (packI 0x027 o)
  | .moviHi o => some (packI 0x027 o)
  | .kmov o => some (packA 0x030 o)
  | .iwiden o => some (packA 0x031 o)
  | .klo o => some (packA 0x032 o)
  | .khi o => some (packA 0x033 o)
  | .icmp o => some (packA 0x038 o)
  | .pand o => some (packA 0x039 o)
  | .por o => some (packA 0x03A o)
  | .pxor o => some (packA 0x03B o)
  | .pnot o => some (packA 0x03C o)
  | .sel o => some (packA 0x03D o)
  | .mov o => some (packA 0x040 o)
  | .rdspec o => some (packI 0x041 o)
  | .lread o => some (packA 0x048 o)
  | .lshfx o => some (packA 0x049 o)
  | .lsum o => some (packA 0x04A o)
  | .lmax o => some (packA 0x04B o)
  | .vote o => some (packA 0x04C o)
  | .lprefix o => some (packA 0x04D o)
  | .lbcast o => some (packA 0x04E o)
  | .bra o => some (packB 0x050 o)
  | .brc o => some (packB 0x051 o)
  | .brp o => some (packB 0x052 o)
  | .jmpx o => some (packA 0x053 o)
  | .call o => some (packB 0x054 o)
  | .ret o => some (packA 0x055 o)
  | .reform o => some (packA 0x056 o)
  | .exit o => some (packA 0x057 o)
  | .fadd o => some (packA 0x080 o)
  | .fsub o => some (packA 0x081 o)
  | .fmul o => some (packA 0x082 o)
  | .ffma o => some (packA 0x083 o)
  | .fmin o => some (packA 0x084 o)
  | .fmax o => some (packA 0x085 o)
  | .fcmp o => some (packA 0x086 o)
  | .fclass o => some (packA 0x087 o)
  | .frcp o => some (packA 0x088 o)
  | .frsq o => some (packA 0x089 o)
  | .fsqrt o => some (packA 0x08A o)
  | .fexp2 o => some (packA 0x08B o)
  | .flog2 o => some (packA 0x08C o)
  | .fsin o => some (packA 0x08D o)
  | .fcos o => some (packA 0x08E o)
  | .dadd o => some (packA 0x090 o)
  | .dmul o => some (packA 0x091 o)
  | .dfma o => some (packA 0x092 o)
  | .dcmp o => some (packA 0x093 o)
  | .dmin o => some (packA 0x094 o)
  | .dmax o => some (packA 0x095 o)
  | .hadd2 o => some (packA 0x098 o)
  | .hmul2 o => some (packA 0x099 o)
  | .hfma2 o => some (packA 0x09A o)
  | .hmax2 o => some (packA 0x09B o)
  | .f2i o => some (packA 0x0A0 o)
  | .i2f o => some (packA 0x0A1 o)
  | .f2f o => some (packA 0x0A2 o)
  | .f2d o => some (packA 0x0A3 o)
  | .d2f o => some (packA 0x0A4 o)
  | .cvts o => some (packA 0x0A5 o)
  | .cvtl o => some (packA 0x0A6 o)
  | .aset o => some (packA 0x0C0 o)
  | .aget o => some (packA 0x0C1 o)
  | .ld o => some (packM 0x0C2 o)
  | .st o => some (packM 0x0C3 o)
  | .ldu o => some (packM 0x0C4 o)
  | .ldx o => some (packM 0x0C5 o)
  | .stx o => some (packM 0x0C6 o)
  | .ldy o => some (packM 0x0C7 o)
  | .pref o => some (packM 0x0C8 o)
  | .cinv o => some (packM 0x0C9 o)
  | .cwb o => some (packM 0x0CA o)
  | .atomAdd o => some (packM 0x0D0 o)
  | .atomAnd o => some (packM 0x0D1 o)
  | .atomOr o => some (packM 0x0D2 o)
  | .atomXor o => some (packM 0x0D3 o)
  | .atomMin o => some (packM 0x0D4 o)
  | .atomMax o => some (packM 0x0D5 o)
  | .atomExch o => some (packM 0x0D6 o)
  | .atomIncw o => some (packM 0x0D7 o)
  | .atomDecw o => some (packM 0x0D8 o)
  | .atomAddb o => some (packM 0x0D9 o)
  | .atomfAdd o => some (packM 0x0DA o)
  | .atomfMin o => some (packM 0x0DB o)
  | .atomfMax o => some (packM 0x0DC o)
  | .cas o => some (packM 0x0DD o)
  | .redAdd o => some (packM 0x0E0 o)
  | .redAnd o => some (packM 0x0E1 o)
  | .redOr o => some (packM 0x0E2 o)
  | .redXor o => some (packM 0x0E3 o)
  | .redMin o => some (packM 0x0E4 o)
  | .redMax o => some (packM 0x0E5 o)
  | .updAddI32 o => some (packM 0x0F0 o)
  | .updAddI64 o => some (packM 0x0F1 o)
  | .updAddF32 o => some (packM 0x0F2 o)
  | .updMinI32 o => some (packM 0x0F3 o)
  | .updMaxI32 o => some (packM 0x0F4 o)
  | .updMinN32 o => some (packM 0x0F5 o)
  | .updMaxN32 o => some (packM 0x0F6 o)
  | .updMinF32 o => some (packM 0x0F7 o)
  | .updMaxF32 o => some (packM 0x0F8 o)
  | .updOrB32 o => some (packM 0x0F9 o)
  | .updXorB32 o => some (packM 0x0FA o)
  | .updAndB32 o => some (packM 0x0FB o)
  | .fence o => some (packA 0x100 o)
  | .cpy o => some (packA 0x101 o)
  | .cpym o => some (packA 0x102 o)
  | .cpyw o => some (packA 0x103 o)
  | .cpyf o => some (packA 0x104 o)
  | .bgath o => some (packA 0x105 o)
  | .bscat o => some (packA 0x106 o)
  | .seal o => some (packA 0x107 o)
  | .reclaim o => some (packA 0x108 o)
  | .bar o => some (packA 0x110 o)
  | .binit o => some (packA 0x111 o)
  | .bexp o => some (packA 0x112 o)
  | .bwait o => some (packA 0x113 o)
  | .qinit o => some (packA 0x114 o)
  | .qpush o => some (packA 0x115 o)
  | .qpop o => some (packA 0x116 o)
  | .twait o => some (packA 0x117 o)
  | .tread o => some (packA 0x118 o)
  | .topk o => some (packA 0x119 o)
  | .bvmask o => some (packA 0x11A o)
  | .mma o => some (packA 0x140 o)
  | .mmas o => some (packA 0x141 o)
  | .mzero o => some (packA 0x142 o)
  | .mldm o => some (packA 0x143 o)
  | .mdrain o => some (packA 0x144 o)
  | .mqnt o => some (packA 0x145 o)
  | .mchk o => some (packA 0x146 o)
  | .mscl o => some (packA 0x147 o)
  | .trap o => some (packI 0x180 o)
  | .tret o => some (packA 0x181 o)
  | .rplx o => some (packA 0x182 o)
  | .rplw o => some (packA 0x183 o)
  | .rpld o => some (packA 0x184 o)
  | .xrd o => some (packA 0x185 o)
  | .xwr o => some (packA 0x186 o)
  | .sysc o => some (packI 0x187 o)
  | .rinit o => some (packA 0x188 o)
  | .rgrab o => some (packA 0x189 o)
  | .lnch o => some (packA 0x18A o)
  | .cntw o => some (packA 0x18B o)
  | .cncl o => some (packA 0x18C o)
  | .dlread o => some (packA 0x18D o)
  | .idem o => some (packA 0x18E o)
  | .pairWord o => some (packP o)
  | .sealEntryRemove .. => none
  | .rinitPerform .. => none
  | .codeObjectLoad .. => none
  | .binAged .. => none
  | .binDraw .. => none
  | .binBringBack .. => none
  | .dissolutionMark .. => none
  | .groupDissolve .. => none
  | .cohortStart _ => none
  | .unitComplete .. => none
  | .quartzContextEnd .. => none
  | .launchComplete .. => none
  | .copyBytesLand .. => none
  | .copyComplete .. => none
  | .gatherComplete .. => none
  | .engineTranslationFault .. => none
  | .faultRecordWrite .. => none
  | .topkComplete .. => none
  | .prefetchHintFill .. => none
  | .matrixGrant .. => none
  | .matrixOperationComplete .. => none
  | .ebudRefill => none
  | .rgrabReply .. => none
  | .cqtailWrite .. => none
  | .job .. => none
  | .phase .. => none
  | .graph .. => none
  | .close .. => none
  | .cancel .. => none
  | .wait .. => none
  | .inval .. => none
  | .invalComplete .. => none
  | .ctxswSave .. => none
  | .ctxswResume .. => none
  | .nodeStart .. => none
  | .workObjectEnd .. => none
  | .nodeDeadlineExpire .. => none
  | .phaseDeadlineExpire .. => none
  | .cancelHang .. => none
  | .fanswerRetry .. => none
  | .fanswerDeliver .. => none
  | .fanswerAbort .. => none
  | .tenantSliceEnd .. => none
  | .drainTimeout .. => none
  | .unitSave .. => none
  | .forcedSave .. => none
  | .quartzContextSave .. => none
  | .unitRestore .. => none
  | .ctxswSliceTimeout .. => none
  | .unitRelaunch .. => none
  | .homeReadRequest .. => none
  | .homeWriteRequest .. => none
  | .homeAtomic .. => none
  | .updRegistration .. => none
  | .homeCwb .. => none
  | .dropNotice .. => none
  | .writeApply .. => none
  | .lineFill .. => none
  | .l1CopyExpire .. => none
  | .partialEvict .. => none
  | .collectorEvict .. => none
  | .directoryError .. => none
  | .hostRead .. => none
  | .hostWrite .. => none
  | .hostHomeUpdate .. => none
  | .h1CoherentLoss => none
  | .fabricMessageReceive .. => none
  | .fabricWakeReceive .. => none
  | .eccCorrected .. => none
  | .eccUncorrectable .. => none
  | .collapseBegin .. => none
  | .wakeWrite .. => none
  | .wakeEnd .. => none
  | .fabricWakeSend .. => none
  | .partitionEnable .. => none
  | .partitionDisable .. => none
  | .functionCreate .. => none
  | .functionDisable .. => none
  | .keyInstall .. => none
  | .keyZeroise .. => none
  | .psplitWrite .. => none
  | .repairSoftRow .. => none
  | .softRepairComplete => none
  | .repairHardRow .. => none
  | .repairArrayColumn .. => none
  | .repairArrayRow .. => none
  | .repairCluster .. => none
  | .repairSramRow .. => none
  | .repairD2dLane .. => none
  | .repairFabricLane .. => none
  | .pclr .. => none
  | .attest .. => none
  | .powerThrottle .. => none
  | .packageReset .. => none
  | .recoveryImage .. => none
  | .certChainRead => none
  | .registerWrite .. => none
  | .collapseComplete .. => none
  | .attestComplete => none
  | .linkLaneError .. => none

/-- The host's question: `w` numbers the bits of the word with bit 0 its least significant. -/
def decodeTableWord (_nbits w : Nat) : Option Instr :=
  match decodeBytes (leBytes 8 w) with
  | .word i => some i
  | .unassigned _ => none

end Sys2Proof
end

