-- ==== Sys2Proof/Machine/State.lean ====
section
/-! DEFINITION. The state of the package as plain data, its reset value, and the reasons a step can stop. Each structure
names the rules of spec/ that give its fields. Sparse tables are NatMap in canonical form. Keys: a vector core is
4 * cluster + core; a group is 32 * core key + slot; a Quartz context is 8 * cluster + context. -/

namespace Sys2Proof.Machine

/-- Why the machine stops: it never does. Every access has the effect that the spec gives it, and nothing raises a fault of
this type. Safe. -/
inductive Fault where
deriving DecidableEq, Repr

/-- Why a step has no meaning. [DESIGN CHOICE, log 12] -/
inductive Refusal where
  /-- Raised by the dispatcher alone, for an instruction that has no meaning yet. Safe. -/
  | notModelled (mnemonic : String)
  /-- Raised by a meaning when the agenda names an event whose condition does not hold in this state, or a word with no
  agent to issue it. The device could not take the step either. Safe. -/
  | notEnabled (row : String)
deriving DecidableEq, Repr

/-- Who issues words (R24, R146). -/
inductive Agent where
  | group (core : Nat) (slot : Nat)
  | quartz (cluster : Nat) (ctx : Nat)
deriving DecidableEq, Repr

/-- One turn of the agenda: the clocks that pass, and what happens. Of an issue, `upset` gives the lanes of a shadow that
differ, `stalls` the slots of the quadrant, or the contexts of the Quartz core, whose next word stalls at this clock
(R149, R199), and `later` says that the word issues without finishing; it finishes at a `finish` of its group (R171, R322).
Model's own. [DESIGN CHOICE, log 1] -/
inductive Act where
  | issue (a : Agent) (upset : Word) (stalls : List Nat) (later : Bool)
  | finish (a : Agent)
  | event (i : Instr)
deriving DecidableEq, Repr

/-- [DESIGN CHOICE, log 1] -/
structure Turn where
  dt : Nat
  act : Act
deriving DecidableEq, Repr

/-- A latch entry and the run position that wrote it (R37). -/
structure LatchEntry where
  pos : Nat
  vals : NatMap DWord
deriving DecidableEq, Repr

/-- A replay entry (R176). `dat` is keyed 4 * lane + i. `keeps` is the run position whose latch entry the word has still to
write (R37); `raised` holds XADDR and XMASK of the nonuniform trap that left the entry (R189). -/
structure ReplayEntry where
  word : BitVec 64
  pc : Pc
  mask : Word
  stat : Byte
  op1 : NatMap DWord
  op2 : NatMap DWord
  op3 : NatMap DWord
  dat : NatMap DWord
  keeps : Option Nat
  raised : Option (DWord × Word)
deriving DecidableEq, Repr


/-- An array register (R105). -/
structure ArrayReg where
  base : DWord
  ext : Word
  attr : Word
deriving DecidableEq, Repr

def ArrayReg.reset : ArrayReg := ⟨0, 0, 0⟩

/-- A word that has issued and not finished (R171, R322): what it captured, the interval of its index, and the array register
that its bounds decision, made once, has read (R110). -/
structure Unfinished where
  entry : ReplayEntry
  iv : Iv
  reg : ArrayReg
deriving DecidableEq, Repr

/-- The trap frame (R28, R174). -/
structure Frame where
  pos : Nat
  latch : List LatchEntry
  xpc0 : DWord
deriving DecidableEq, Repr

/-- Why an agent issues nothing: an unanswered translation fault of its word, held as a replay entry, or of its fetch
(R233), the same of its oldest unfinished word (R322) or of an entry that TRET re-issues (R174), or a grab on its way
(R180). -/
inductive Hold where
  | fault (id : Nat) (entry : Option ReplayEntry)
  | standing (id : Nat)
  | replayFault (id : Nat)
  | range (die : Nat)
deriving DecidableEq, Repr

/-- What a group and a Quartz context have in common: PC, run, latch, the banked registers (R17, R147, R171), and the words
issued and not finished, oldest first (R322). -/
structure Front where
  pc : Pc
  j : Nat
  latch : List LatchEntry
  priv : Bool
  xpc : DWord
  xcause : Word
  xstat : DWord
  xaddr : DWord
  xmask : Word
  replay : List ReplayEntry
  frame : Frame
  hold : Option Hold
  unfinished : List Unfinished
deriving DecidableEq, Repr

/-- [DESIGN CHOICE, log 8] -/
def Front.start (pc : Pc) : Front :=
  { pc := pc, j := 0, latch := [], priv := false, xpc := 0, xcause := 0, xstat := 0, xaddr := 0, xmask := 0,
    replay := [], frame := ⟨0, [], 0⟩, hold := none, unfinished := [] }

/-- An issue group (R17, R190, R198). `lanes` gives the thread index of each home lane; `shadow` is the slot of the
group's shadow under REDUNDANT, and `paired` says that the shadow runs (R357, R358). -/
structure Group where
  front : Front
  uid : Nat
  lanes : NatMap (Option Nat)
  iv : NatMap Iv
  drawn : Nat
  marked : Bool
  shadow : Option Nat
  paired : Bool
deriving DecidableEq, Repr

/-- A thread (R14, R111, R186). `r` is keyed by flat index (R16). `own` lists its performed writes that some die has
still to apply (R240); `seen` the writes that the values of its relaxed reads follow, which a later FENCE.acq applies
(R243); `fence` the requests that its later writes wait for, and `fenceSys` that they wait for the write-through too
(R236); `covers` the registrations under way that cover contributions of it (R247). -/
structure Thread where
  r : NatMap Word
  p : BitVec 8
  bounds : Bool
  mark : Option Pc
  exited : Bool
  own : List Nat
  seen : List Nat
  fence : List Nat
  fenceSys : Bool
  covers : List Nat
deriving DecidableEq, Repr

def Thread.start : Thread := ⟨[], 0, false, none, false, [], [], [], false, []⟩

/-- A bin (R194). `waiting` is the clock since which it is known to be eligible (R195, R198); `spilled` says that it stands in
the save area, at `place` once it has been written there (R197). -/
structure Bin where
  key : BinKey
  threads : List Nat
  iv : NatMap Iv
  birth : Nat
  aged : Bool
  spilled : Bool
  waiting : Option Nat
  place : Option Nat
deriving DecidableEq, Repr

/-- What a parked set waits for (R144). -/
inductive ParkOn where
  | bar
  | bwait (off : Nat) (phase : Word)
  | qpush (q : Nat) (val : DWord)
  | qpop (q : Nat) (d : BitVec 9) (wide : Bool)
  | twait (tl : Nat) (n : Nat)
  | cntw (handle : DWord) (n : Nat) (done : Bool)
deriving DecidableEq, Repr

/-- A parked set, with the address of its blocking word and the order of its arrival (R144, R140). -/
structure Parked where
  threads : List Nat
  iv : NatMap Iv
  pc : Pc
  on : ParkOn
  seq : Nat
deriving DecidableEq, Repr

/-- A timeline: operations issued, the completed prefix, and completed numbers above it (R125). -/
structure Timeline where
  i : Nat
  c : Nat
  done : List Nat
deriving DecidableEq, Repr

def Timeline.start : Timeline := ⟨0, 0, []⟩

/-- A buffered write of a contained unit (R359), with the address it was translated to. `consumer` and `aux1` are what a record of
its error response names: 6 and the address of a store word, 2 and the operation of a copy (R362). -/
structure BufWrite where
  thread : Nat
  consumer : Nat
  aux1 : Nat
  va : Nat
  pa : Nat
  key : Nat
  data : List Byte
deriving DecidableEq, Repr

/-- A unit on its core (R19, R190, R192). `wroteAt` is one more than the clock of its latest write of an s-register or an
array register by a word; `sWas` and `aWas` hold what the registers written in that clock held before it (R58, R105). `restarts`
says that the unit leaves its core to be restarted
(R326); `idleAt` is the clock since which no thread of it stands in a group slot (R195, R198). `atFault` says that
row 1 of R326 decided its save. -/
structure Unit_ where
  func : Nat
  launch : Nat
  index : Nat
  cohort : Nat
  core : Nat
  xoff : Nat
  xbytes : Nat
  nthreads : Nat
  regs : Nat
  started : Nat
  s : NatMap DWord
  a : NatMap ArrayReg
  threads : NatMap Thread
  bins : List Bin
  parked : List Parked
  arrived : List Nat
  tl : NatMap Timeline
  tokens : NatMap Nat
  runs : Nat
  redundant : Bool
  contain : Bool
  relaunchable : Bool
  relaunched : Bool
  buffer : List BufWrite
  drain : Option Nat
  saveBy : Option Nat
  stopping : Bool
  relaunchDue : Bool
  restarts : Bool
  atFault : Bool
  idleAt : Option Nat
  bySwitch : Bool
  wroteAt : Nat
  sWas : NatMap (Option DWord)
  aWas : NatMap (Option ArrayReg)
deriving DecidableEq, Repr

/-- A seal entry's state (R132, R164, R168). -/
inductive SealState where
  | filling | sealed | reclaiming
deriving DecidableEq, Repr

/-- A seal entry (R132). `owner` is the unit that sealed it, for R193. -/
structure SealEntry where
  start : Nat
  len : Nat
  state : SealState
  refs : Nat
  owner : Option Nat
  failed : Bool
deriving DecidableEq, Repr

/-- A partial of a core or a collector (R285, R287). `els` holds the marked elements; `preds` the writes it follows; `funcs` the
functions that contributed (R295); `bad` an uncorrectable error in it (R294). -/
structure Partial where
  tag : Nat
  els : NatMap (Option DWord)
  preds : List Nat
  funcs : List Nat
  bad : Bool
deriving DecidableEq, Repr

/-- A die's collector entry for a sector (R287): the die partial, and the clusters that hold core partials. -/
structure Collector where
  part : Option Partial
  clus : BitVec 16
deriving DecidableEq, Repr

/-- An L1 copy of a sector in state S: the clock of its fill, its bytes, and the writes that they follow and that the die had
not all applied (R241, R251, R280); `bad` an uncorrectable error in it (R355). -/
structure L1Copy where
  filled : Nat
  data : List Byte
  preds : List Nat
  bad : Bool
deriving DecidableEq, Repr

/-- A reservation of X made for a cohort (R206). -/
structure XRes where
  func : Nat
  launch : Nat
  cohort : Nat
  off : Nat
  len : Nat
deriving DecidableEq, Repr

/-- A 64-byte sector of code in an instruction cache, as a key slot reads it (R5, R56). -/
structure FetchLine where
  sec : Nat
  key : Nat
  data : List Byte
deriving DecidableEq, Repr

/-- A vector core (R23, R132, R199, R280, R285). `barriers` lists the X addresses that a barrier word or a credit has
named as byte barriers (R136). `issued` and `drewAt` are one more than the clock of the latest issue of each quadrant and of
the latest draw (R196, R199); `icache` is the instruction cache, latest fill first (R5); `badX` lists the 4-byte words of X that
have an uncorrectable error (R355). -/
structure CoreSt where
  x : NatMap Byte
  xres : List XRes
  seals : List SealEntry
  l1 : NatMap (Option L1Copy)
  partials : NatMap (Option Partial)
  lastSlot : NatMap Nat
  barriers : List Nat
  issued : NatMap Nat
  drewAt : Nat
  icache : List FetchLine
  badX : List Nat
deriving DecidableEq, Repr

/-- [DESIGN CHOICE, log 6; DESIGN CHOICE, log 7] -/
def CoreSt.reset : CoreSt := ⟨[], [], [], [], [], [], [], [], 0, [], []⟩

/-- A queue binding of a launch on a cluster (R138, R150). `kept` holds the object once its X has been given up (R206). -/
structure QBind where
  func : Nat
  launch : Nat
  q : Nat
  core : Nat
  off : Nat
  closed : Bool
  kept : Option (List Byte)
deriving DecidableEq, Repr

/-- A posted matrix operation (R155): its word, operands as read, and what it was numbered. -/
structure MatOp where
  ctx : Nat
  func : Nat
  launch : Nat
  word : BitVec 64
  o1 : DWord
  o2 : DWord
  o3 : DWord
  sca : DWord
  scb : DWord
  posted : Nat
  num : Nat
  prio : Nat
  granted : Bool
  failed : Bool
deriving DecidableEq, Repr

/-- A prefetch hint (R218): function, first line address, lines. -/
structure HintEnt where
  func : Nat
  va : Nat
  lines : Nat
deriving DecidableEq, Repr

/-- Power of a cluster (R349). -/
inductive Gate where
  | running | clockGated | powerGated
deriving DecidableEq, Repr

/-- A cluster (R23, R132, R138, R155, R209, R218, R347). `issued` is one more than the clock of the latest issue of its
Quartz core (R149); `badW` and `badY` list the 4-byte words of W and of Y that have an uncorrectable error (R355). -/
structure ClusterSt where
  w : NatMap Byte
  y : NatMap Byte
  wSeals : List SealEntry
  ySeals : List SealEntry
  queues : List QBind
  table : List MatOp
  hints : List HintEnt
  serving : Option Nat
  lastServed : Option Nat
  sliceStart : Nat
  turning : Bool
  lastCtx : Nat
  gate : Gate
  issued : Nat
  badW : List Nat
  badY : List Nat
deriving DecidableEq, Repr

/-- [DESIGN CHOICE, log 6; DESIGN CHOICE, log 7] -/
def ClusterSt.reset : ClusterSt := ⟨[], [], [], [], [], [], [], none, none, 0, false, 7, .running, 0, [], []⟩

/-- A Quartz context in service (R147, R150). `m` is keyed 4096 * register + byte. An ended context keeps its counters
until its place is used again. -/
structure Ctx where
  front : Front
  func : Nat
  launch : Nat
  cohort : Nat
  s : NatMap DWord
  m : NatMap Byte
  ebud : Word
  prio : BitVec 2
  sca : DWord
  scb : DWord
  chkst : DWord
  failed : Option (Nat × Nat)
  tl : Timeline
  park : Option Parked
  exiting : Bool
  ended : Bool
  saveBy : Option Nat
  bySwitch : Bool
deriving DecidableEq, Repr

/-- The state of a directory entry (R282). -/
inductive DirState where
  | i | e | m | s | u
deriving DecidableEq, Repr

/-- A directory entry of a 64-byte sector (R282). -/
structure DirEntry where
  st : DirState
  dirty : Bool
  tag : Nat
  dies : BitVec 4
  clus : BitVec 16
  host : Bool
deriving DecidableEq, Repr

def DirEntry.idle : DirEntry := ⟨.i, false, 0, 0, 0, false⟩

/-- A cached translation of one page (R231, R232): its first 4 KiB granule, that one's frame, key slot, memory type and
permissions of both stages, and how many granules it has. The TLBs are keyed by holder: vector core k by k, the Quartz core of
cluster c by 256 + c, cluster c by 320 + c, die d by 384 + d; the latest entry stands first. -/
structure TlbEntry where
  func : Nat
  vpn : Nat
  ppn : Nat
  key : Nat
  unc : Bool
  w : Bool
  x : Bool
  pages : Nat
deriving DecidableEq, Repr

/-- A range request on its way to a range engine (R178 to R180). -/
inductive RangeReq where
  | init (func launch q : Nat) (total : Word) (pm : Word) (once : Bool)
  | grab (core slot : Nat) (uid : Nat) (q : Nat) (d : BitVec 9) (word : BitVec 64)
deriving DecidableEq, Repr

/-- An L2 line counted to a function, oldest use first (R226, R227). -/
structure OccLine where
  line : Nat
  func : Nat
deriving DecidableEq, Repr

/-- A die (R178, R219, R226, R240, R280, R287). `view` holds the bytes of visitor copies, `held` their sectors, `bad`
those that have an uncorrectable error (R355). -/
structure DieSt where
  held : List Nat
  view : NatMap Byte
  fills : List Nat
  collectors : NatMap (Option Collector)
  rangeReqs : List RangeReq
  rangeUsed : List (Nat × Nat)
  advisory : NatMap (BitVec 128)
  lines : List OccLine
  lim : NatMap (BitVec 20)
  powerOff : Bool
  bad : List Nat
deriving DecidableEq, Repr

def DieSt.reset : DieSt := ⟨[], [], [], [], [], [], [], [], [], false, []⟩

/-- Who sent a write (R238). -/
inductive Sender where
  | thread (uid t : Nat)
  | engine (op : Nat)
  | device
  | host
  | fabric
deriving DecidableEq, Repr

/-- What a sent request does at the home (R284). -/
inductive SentKind where
  | write (data : List Byte)
  | red (op : Nat) (sz : BitVec 3) (val : DWord)
  | upd (tag : Nat) (val : DWord)
  | register (tag : Nat) (core : Nat)
  | clean (system : Bool)
deriving DecidableEq, Repr

/-- A request sent toward a home and not yet performed (R238, R242); `quad` is the quadrant that issued its word. It
waits, unsent, for the requests of `after` to be performed and, with `through`, for host memory to be written through
(R236, R244). Of its word, `word` is a number that no other word has, and `foot` the footprint: first byte and length (R215, R333). -/
structure Sent where
  id : Nat
  by_ : Sender
  func : Nat
  die : Nat
  core : Nat
  quad : Nat
  pa : Nat
  va : Nat
  key : Nat
  wordPc : Nat
  word : Nat
  foot : Nat × Nat
  kind : SentKind
  preds : List Nat
  after : List Nat
  through : Bool
deriving DecidableEq, Repr

/-- A performed write that some view holder has still to apply (R240): holders 0 to 3 are dies, 4 the host. `at_` is the
clock at which it was performed (R251). [DEDUCED, log 25] -/
structure PWrite where
  id : Nat
  at_ : Nat
  pa : Nat
  data : List Byte
  preds : List Nat
  pending : List Nat
deriving DecidableEq, Repr

/-- The kinds of engine operation (R125). -/
inductive OpKind where
  | cpy | cpym (mask : Nat) | cpyw | cpyf (op : Nat) | bgath | bscat
deriving DecidableEq, Repr

/-- An engine operation in flight (R125 to R131, R297). `done` gives, for each destination core, the spans of its bytes that have
landed, rising and apart; `err` says that an error ended it, `sat` that a credit of it saturated (R136); `shadow` holds source
bytes that it has itself overwritten; `pins` are the translations that it uses until their bytes have landed (R231, R297);
`counted` are the frames that it has counted (R220). -/
structure EngineOp where
  id : Nat
  kind : OpKind
  uid : Nat
  func : Nat
  core : Nat
  xoff : Nat
  desc : List Byte
  token : Nat
  tl : Nat
  num : Nat
  done : NatMap (List (Nat × Nat))
  err : Bool
  sat : Bool
  waiting : Option Nat
  shadow : NatMap Byte
  own : List Nat
  pins : List TlbEntry
  counted : List Nat
deriving DecidableEq, Repr

/-- A TOPK in flight (R143): scores as read, and where the results go. -/
structure TopkOp where
  core : Nat
  uid : Nat
  threads : List Nat
  d : BitVec 9
  ty : Nat
  minDir : Bool
  scores : List Word
  dst : Nat
  k : Nat
  ibase : Word
deriving DecidableEq, Repr

/-- Who waits for a fault (R233). -/
inductive FaultSrc where
  | agent (a : Agent) (fetch : Bool)
  | op (id : Nat)
  | saved (func : Nat) (image : Nat) (k : Nat)
deriving DecidableEq, Repr

/-- A fault record that waits for log space or for an answer (R233, R234). [DEDUCED, log 63] -/
structure FaultRec where
  id : Nat
  log : Nat
  va : Nat
  gpa : Nat
  func : Nat
  kind : Nat
  where_ : Nat
  site : Nat
  lanes : Word
  tag : Nat
  written : Bool
  info : Bool
  src : FaultSrc
  held : Option Nat
deriving DecidableEq, Repr

/-- An invalidation in progress (R231, R304), with the accesses it waits for. -/
structure InvalOp where
  id : Nat
  func : Nat
  stage : Nat
  lo : Nat
  hi : Nat
  waits : List Nat
  issuer : Nat
  entry : Nat
  irq : Bool
deriving DecidableEq, Repr

/-- A launch record (R201). `rec` fields keep the record's widths as naturals where they are counts. -/
structure LaunchRec where
  entry : Pc
  trapentry : Pc
  qentry : Pc
  gridx : Nat
  gridy : Nat
  gridz : Nat
  threads : Nat
  regs : Nat
  xbytes : Nat
  age : Nat
  qctx : Nat
  prio : Option Nat
  slotset : Byte
  flags : Word
  smask : BitVec 16
  qsmask : BitVec 16
  slots : NatMap DWord
  arrays : NatMap ArrayReg
  sinit : NatMap DWord
  qsinit : NatMap DWord
deriving DecidableEq, Repr

def LaunchRec.empty : LaunchRec :=
  ⟨0, 0, 0, 1, 1, 1, 32, 32, 0, 0, 0, none, 0, 0, 0, 0, [], [], [], []⟩

/-- A declared region (R310): its hull, whether it reads, writes, and lies in host memory. -/
structure Region where
  lo : Nat
  hi : Nat
  reads : Bool
  writes : Bool
  host : Bool
deriving DecidableEq, Repr

/-- The states DLREAD.st reports (R185). -/
inductive ObjState where
  | pending | running | complete | cancelled
deriving DecidableEq, Repr

/-- What launches, graphs, phases and jobs have in common (R181, R304, R307, R315 to R317). `entry` is the address of
the command that waits for DONE; `parent` and `parentGen` name the object that holds it; `past` says of each earlier generation
whether it ended as cancelled; `lost` that a child of it has (R315); `asked` is the clock of the first CNCL or CANCEL that named it
(R331). -/
structure Obj where
  gen : Nat
  st : ObjState
  count : Nat
  closed : Bool
  cancelAt : Option Nat
  deadline : Nat
  dlStart : Option Nat
  dlCancel : Bool
  expired : Bool
  events : Nat
  parent : Nat
  parentGen : Nat
  entry : Option Nat
  irq : Bool
  held : Bool
  past : List Bool
  lost : Bool
  asked : Option Nat
deriving DecidableEq, Repr

/-- A range entry (R178). -/
structure RangeEnt where
  total : Nat
  p : Nat
  min : Nat
  next : Nat
deriving DecidableEq, Repr

/-- A launch slot (R307, R308, R312): the node's object, its record and its progress. -/
structure LaunchSlot where
  obj : Obj
  rcd : LaunchRec
  regions : List Region
  devlnch : Bool
  arg : Option DWord
  preds : List (Nat × Nat)
  readyAt : Option Nat
  cohorts : Nat
  home : Option Nat
  unitsDone : Nat
  runsDone : Nat
  ranges : NatMap (Option RangeEnt)
  relaunch : List (Nat × Nat)
deriving DecidableEq, Repr

/-- A graph slot: its object and its nodes' launch slots. -/
structure GraphSlot where
  obj : Obj
  nodes : List Nat
deriving DecidableEq, Repr

/-- A phase slot: its object and priority. -/
structure PhaseSlot where
  obj : Obj
  prio : Nat
deriving DecidableEq, Repr

/-- A region-table entry (R311); nodes are launch INDEX and GEN. -/
structure RegionEnt where
  lo : Nat
  hi : Nat
  writer : Option (Nat × Nat)
  readers : List (Nat × Nat)
  replaced : Bool
deriving DecidableEq, Repr

/-- A command that waits for its DONE (R304, R305). For CTXSW also its ACTION, the units named at acceptance, the clock
at which a slice end cuts it, and the address of its progress record (R334 to R336). -/
structure PendCmd where
  opc : Nat
  entry : Nat
  irq : Bool
  handle : DWord
  total : Nat
  action : Nat
  cutAt : Option Nat
  recAt : Option Nat
deriving DecidableEq, Repr

/-- A unit taken off its core (R327 to R330): its image lies in the save area, at `addr`. `rest`, `groups` and `ops` are what no
field of the image holds, `seals`, `barriers` and `queues` (offsets) what names ranges of its X.
[DESIGN CHOICE, log 51] -/
structure SavedUnit where
  id : Nat
  addr : Nat
  size : Nat
  how : Nat
  launch : Nat
  index : Nat
  cohort : Nat
  core : Nat
  xoff : Nat
  xbytes : Nat
  bySwitch : Bool
  rest : Unit_
  groups : List Group
  ops : List EngineOp
  seals : List SealEntry
  barriers : List Nat
  queues : List Nat
deriving DecidableEq, Repr

/-- A saved Quartz context: where its image lies, and what no field of the image holds. [DESIGN CHOICE, log 51] -/
structure SavedCtx where
  cluster : Nat
  ctx : Nat
  addr : Nat
  size : Nat
  bySwitch : Bool
  st : Ctx
deriving DecidableEq, Repr

/-- A saved cluster: where its image lies. [DESIGN CHOICE, log 51] -/
structure SavedCluster where
  cluster : Nat
  addr : Nat
  size : Nat
deriving DecidableEq, Repr

/-- A log ring: BASE, EN, LOG2N, HEAD, TAIL (R338, R361). -/
structure Ring where
  base : Nat
  en : Bool
  log2n : Nat
  head : Nat
  tail : Nat
deriving DecidableEq, Repr

def Ring.reset : Ring := ⟨0, false, 0, 0, 0⟩

/-- WAKE.STATE (R350). -/
inductive WakeState where
  | awake | collapsing | collapsed | waking
deriving DecidableEq, Repr

/-- A function (R301, R307, R311, R327, R337 to R350, R361, R364). `begun` holds the address and the bytes of the entry that the
device has begun to read, while it waits at acceptance; `drained` says that a doorbell has withdrawn what lies behind it (R302);
`flogBad` that a write into the fault log has failed (R372), `merging` that the merge of a collapse is under way (R300, R349). -/
structure Func where
  cqbase : Nat
  cqen : Bool
  cqlog2n : Nat
  cqtail : Nat
  cqhead : Nat
  begun : Option (Nat × List Byte)
  drained : Bool
  flog : Ring
  elog : Ring
  overflow : Bool
  flogBad : Bool
  fanswer : DWord
  s1root : Nat
  savebase : Nat
  savesize : Nat
  wake : WakeState
  wakeAt : Nat
  merging : Bool
  wmiss : Word
  counters : NatMap DWord
  jobs : NatMap (Option Obj)
  phases : NatMap (Option PhaseSlot)
  graphs : NatMap (Option GraphSlot)
  launches : NatMap (Option LaunchSlot)
  regions : List RegionEnt
  cmds : List PendCmd
  saved : List SavedUnit
  savedCtxs : List SavedCtx
  savedClusters : List SavedCluster
  torn : Bool
  idleSince : Nat
deriving DecidableEq, Repr

def Func.reset : Func :=
  { cqbase := 0, cqen := false, cqlog2n := 0, cqtail := 0, cqhead := 0, begun := none, drained := false, flog := .reset, elog := .reset,
    overflow := false, flogBad := false, fanswer := 0, s1root := 0, savebase := 0, savesize := 0, wake := .awake, wakeAt := 0, merging := false,
    wmiss := 0, counters := [], jobs := [], phases := [], graphs := [], launches := [], regions := [], cmds := [],
    saved := [], savedCtxs := [], savedClusters := [], torn := false, idleSince := 0 }

/-- FCFGf (R344). -/
structure Fcfg where
  slice : Nat
  cchan : BitVec 256
  s2root : Nat
  idle : Nat
  keyhi : Nat
  keylo : Nat
  wclass : Nat
  part : Nat
  en : Bool
deriving DecidableEq, Repr

def Fcfg.reset : Fcfg := ⟨2000, 0, 0, 0, 0, 0, 0, 0, false⟩

/-- PARTp (R340). -/
structure Part where
  clus : BitVec 64
  en : Bool
  err : Bool
  ppid : Nat
  node : Nat
  ebref : Word
  ebcap : Word
  lanes : BitVec 128
  chan : BitVec 256
deriving DecidableEq, Repr

def Part.reset : Part := ⟨0, false, false, 0, 0, 0, 128, 0, 0⟩

/-- REPAIR and ATTEST status (R353, R370). -/
inductive Status where
  | idle | busy | done | failed
deriving DecidableEq, Repr

/-- BOOTST (R368). -/
structure Boot where
  state : Nat
  step : Nat
  err : Nat
  h1c : Bool
deriving DecidableEq, Repr

/-- A scheduled repair (R353, R354). -/
structure Repair where
  ty : Nat
  target : DWord
deriving DecidableEq, Repr

/-- A fabric message that leaves the package (R343, R350). [DEDUCED, log 63] -/
structure FabricMsg where
  port : Nat
  sub : Nat
  ppid : Nat
  func : Nat
  va : Nat
  kind : Nat
  data : List Byte
deriving DecidableEq, Repr

/-- The result of a load of a code object (R55): status and base. -/
structure LoadResult where
  func : Nat
  base : Nat
  status : Nat
deriving DecidableEq, Repr

/-- The key of a slot: the pair from the on-die random source at bring-up, or an installed pair (R346, R367). The data of
a sector that PCLR cleared (R355), or that only the host has written, stands under no fixed key: it takes the key of the
next access. [DESIGN CHOICE, log 5] -/
inductive Key where
  | boot
  | pair (k : BitVec 512)
  | unbound
deriving DecidableEq, Repr

/-- An error record on its way to the logs (R361, R362). `func` caused it. -/
structure Report where
  cls : Nat
  gran : Nat
  cause : Nat
  pa : Option Nat
  va : Option Nat
  len : Nat
  func : Nat
  site : Nat
  aux0 : Nat
  aux1 : Nat
deriving DecidableEq, Repr

/-- The state of the package. `follows` lists the performed writes that some holder has still to apply and that precede a write
which every view shows (R240). `poison` lists the poisoned sectors, `poisonLines` the lines that a directory error poisoned (R294,
R355). `hostDirty` names the bytes of host memory that a slice has not yet written there (R239).
[DESIGN CHOICE, log 2; DESIGN CHOICE, log 3; DESIGN CHOICE, log 66] -/
structure State where
  agenda : List Turn
  cur : Option Agent
  upset : Word
  later : Bool
  rank : Nat
  fresh : Nat
  nextUid : Nat
  nextTag : Nat
  nextSeq : Nat
  clock : Nat
  refilled : Nat
  boot : Boot
  mem : NatMap Byte
  home : NatMap Byte
  dir : NatMap DirEntry
  hostHeld : NatMap (BitVec 4)
  poison : List Nat
  poisonLines : List Nat
  secKey : NatMap Key
  lastW : NatMap (List Nat)
  follows : List Nat
  hostDirty : NatMap Bool
  performed : List PWrite
  sent : List Sent
  hostOwn : List Nat
  fabricOwn : List Nat
  hostView : NatMap Byte
  tlbs : NatMap (List TlbEntry)
  invals : List InvalOp
  faults : List FaultRec
  engineOps : List EngineOp
  topks : List TopkOp
  irqs : List Nat
  reports : List Report
  hostData : List Byte
  hostPoisoned : Bool
  fabricOut : List FabricMsg
  doeOut : List Byte
  loads : List LoadResult
  dies : NatMap DieSt
  cores : NatMap CoreSt
  clusters : NatMap ClusterSt
  groups : NatMap (Option Group)
  ctxs : NatMap (Option Ctx)
  units : NatMap (Option Unit_)
  funcs : NatMap Func
  fcfg : NatMap Fcfg
  parts : NatMap Part
  pfebRef : Word
  pfebCap : Word
  psplit : DWord
  route : NatMap Byte
  keysel : Nat
  keydata : BitVec 512
  keys : NatMap (Option Key)
  repairStatus : Status
  repairReg : Repair
  repairMap : List Repair
  softRow : Option DWord
  softUsed : List Nat
  pclrPa : Nat
  plimit : Nat
  throttled : Word
  attStatus : Status
  attAddr : Nat
  attBuf : Nat
  attDigest : BitVec 512
  rollback : Nat
  firmware : List Byte
  fwVersion : Nat
  fwake : DWord
  selfRefresh : List Nat
  resets : Nat
deriving DecidableEq, Repr

/-- The package right after package reset is asserted, before bring-up (R367, R368).
[DESIGN CHOICE, log 2; DESIGN CHOICE, log 3; DESIGN CHOICE, log 9; DESIGN CHOICE, log 10] -/
def State.reset : State :=
  { agenda := [], cur := none, upset := 0, later := false, rank := 0, fresh := 0, nextUid := 0, nextTag := 1, nextSeq := 0, clock := 0, refilled := 0,
    boot := ⟨0, 0, 0, false⟩, mem := [], home := [], dir := [], hostHeld := [], poison := [], poisonLines := [], secKey := [],
    lastW := [], follows := [], hostDirty := [], performed := [], sent := [], hostOwn := [], fabricOwn := [], hostView := [], tlbs := [],
    invals := [], faults := [], engineOps := [], topks := [], irqs := [], reports := [], hostData := [], hostPoisoned := false,
    fabricOut := [], doeOut := [], loads := [], dies := [], cores := [], clusters := [], groups := [], ctxs := [],
    units := [], funcs := [], fcfg := [], parts := [], pfebRef := 0xFFFFFFFF, pfebCap := 0xFFFFFFFF, psplit := 0,
    route := [], keysel := 0, keydata := 0, keys := [], repairStatus := .idle, repairReg := ⟨0, 0⟩,
    repairMap := [], softRow := none, softUsed := [], pclrPa := 0, plimit := 2300, throttled := 0,
    attStatus := .idle, attAddr := 0, attBuf := 0, attDigest := 0, rollback := 0, firmware := [], fwVersion := 0, fwake := 0,
    selfRefresh := [], resets := 0 }

/-- The canonical form of memory: addresses rising, no entry equal to 0, which an unlisted byte reads as.
[DESIGN CHOICE, log 4] -/
def Memory.wf (m : NatMap Byte) : Bool := NatMap.wf 0 m

end Sys2Proof.Machine
end

