-- ==== Sys2Proof/Machine/Ops.lean ====
section
/-! DEFINITION. The named operations over the pieces of the state: one reader and one writer for each table, the physical
address map (R365), the home map (R281), and the places of cores, clusters and dies. -/

namespace Sys2Proof.Machine

namespace State

def core (s : State) (k : Nat) : CoreSt := NatMap.get .reset s.cores k
def setCore (s : State) (k : Nat) (c : CoreSt) : State := { s with cores := NatMap.set .reset s.cores k c }
def cluster (s : State) (k : Nat) : ClusterSt := NatMap.get .reset s.clusters k
def setCluster (s : State) (k : Nat) (c : ClusterSt) : State := { s with clusters := NatMap.set .reset s.clusters k c }
def die (s : State) (k : Nat) : DieSt := NatMap.get .reset s.dies k
def setDie (s : State) (k : Nat) (d : DieSt) : State := { s with dies := NatMap.set .reset s.dies k d }
def group? (s : State) (core slot : Nat) : Option Group := NatMap.get none s.groups (32 * core + slot)
def setGroup (s : State) (core slot : Nat) (g : Option Group) : State :=
  { s with groups := NatMap.set none s.groups (32 * core + slot) g }
def ctx? (s : State) (cluster c : Nat) : Option Ctx := NatMap.get none s.ctxs (8 * cluster + c)
def setCtx (s : State) (cluster c : Nat) (x : Option Ctx) : State :=
  { s with ctxs := NatMap.set none s.ctxs (8 * cluster + c) x }
def unit? (s : State) (uid : Nat) : Option Unit_ := NatMap.get none s.units uid
def setUnit (s : State) (uid : Nat) (u : Option Unit_) : State := { s with units := NatMap.set none s.units uid u }
def func (s : State) (f : Nat) : Func := NatMap.get .reset s.funcs f
def setFunc (s : State) (f : Nat) (x : Func) : State := { s with funcs := NatMap.set .reset s.funcs f x }
def fcfgOf (s : State) (f : Nat) : Fcfg := NatMap.get .reset s.fcfg f
def part (s : State) (p : Nat) : Part := NatMap.get .reset s.parts p
def setPart (s : State) (p : Nat) (x : Part) : State := { s with parts := NatMap.set .reset s.parts p x }

/-- Change a unit that exists. -/
def modUnit (s : State) (uid : Nat) (f : Unit_ → Unit_) : State :=
  match s.unit? uid with
  | some u => s.setUnit uid (some (f u))
  | none => s

def modFunc (s : State) (f : Nat) (g : Func → Func) : State := s.setFunc f (g (s.func f))
def modCore (s : State) (k : Nat) (g : CoreSt → CoreSt) : State := s.setCore k (g (s.core k))
def modCluster (s : State) (k : Nat) (g : ClusterSt → ClusterSt) : State := s.setCluster k (g (s.cluster k))
def modDie (s : State) (k : Nat) (g : DieSt → DieSt) : State := s.setDie k (g (s.die k))
def modCtx (s : State) (cl c : Nat) (g : Ctx → Ctx) : State :=
  match s.ctx? cl c with
  | some x => s.setCtx cl c (some (g x))
  | none => s
def modGroup (s : State) (core slot : Nat) (f : Group → Group) : State :=
  match s.group? core slot with
  | some g => s.setGroup core slot (some (f g))
  | none => s

end State

/-- Die of a cluster, and of a vector core (R2). [DEDUCED, log 65] -/
def dieOfCluster (cl : Nat) : Nat := cl / 16
/-- [DEDUCED, log 65] -/
def clusterOfCore (core : Nat) : Nat := core / 4
/-- [DEDUCED, log 65] -/
def dieOfCore (core : Nat) : Nat := core / 64

namespace Unit_
def thread (u : Unit_) (t : Nat) : Thread := NatMap.get .start u.threads t
def setThread (u : Unit_) (t : Nat) (x : Thread) : Unit_ := { u with threads := NatMap.set .start u.threads t x }
def modThread (u : Unit_) (t : Nat) (f : Thread → Thread) : Unit_ := u.setThread t (f (u.thread t))
def sreg (u : Unit_) (n : Nat) : DWord := NatMap.get 0 u.s n
def setSreg (u : Unit_) (n : Nat) (v : DWord) : Unit_ :=
  { u with s := NatMap.set 0 u.s n v, tokens := NatMap.erase u.tokens n }
def areg (u : Unit_) (n : Nat) : ArrayReg := NatMap.get .reset u.a n
/-- The unit as a word of clock `now` writes it: what it wrote in an earlier clock is settled (R58). -/
def opened (u : Unit_) (now : Nat) : Unit_ :=
  if u.wroteAt = now + 1 then u else { u with wroteAt := now + 1, sWas := [], aWas := [] }
/-- A word of clock `now` writes an s-register (R58). -/
def putSreg (u : Unit_) (now n : Nat) (v : DWord) : Unit_ :=
  let o := u.opened now
  { o.setSreg n v with
    sWas := if (NatMap.get none o.sWas n).isSome then o.sWas else NatMap.set none o.sWas n (some (o.sreg n)) }
/-- A word of clock `now` writes an array register (R105). -/
def putAreg (u : Unit_) (now n : Nat) (v : ArrayReg) : Unit_ :=
  let o := u.opened now
  { o with
    a := NatMap.set .reset o.a n v
    aWas := if (NatMap.get none o.aWas n).isSome then o.aWas else NatMap.set none o.aWas n (some (o.areg n)) }
/-- An s-register as a word of clock `now` reads it: a write of the same clock is not seen (R58). -/
def sregAt (u : Unit_) (now n : Nat) : DWord :=
  if u.wroteAt = now + 1 then (NatMap.get none u.sWas n).getD (u.sreg n) else u.sreg n
/-- An array register as a word of clock `now` reads it (R105). -/
def aregAt (u : Unit_) (now n : Nat) : ArrayReg :=
  if u.wroteAt = now + 1 then (NatMap.get none u.aWas n).getD (u.areg n) else u.areg n
def timeline (u : Unit_) (n : Nat) : Timeline := NatMap.get .start u.tl n
def setTimeline (u : Unit_) (n : Nat) (t : Timeline) : Unit_ := { u with tl := NatMap.set .start u.tl n t }
/-- Threads of the unit that have not exited. -/
def live (u : Unit_) : List Nat := (List.range u.nthreads).filter (fun t => !(u.thread t).exited)
end Unit_

/-- Advance C over the unbroken prefix of completed operations (R125). -/
def Timeline.settle : Nat → Timeline → Timeline
  | 0, t => t
  | n + 1, t => if t.done.contains (t.c + 1) then settle n { t with c := t.c + 1, done := t.done.erase (t.c + 1) } else t

/-- Operation `n` of the timeline completes (R125). -/
def Timeline.complete (t : Timeline) (n : Nat) : Timeline :=
  Timeline.settle (t.done.length + 1) { t with done := n :: t.done }

/-- Issue one operation: I + 1 (R125). -/
def Timeline.issue (t : Timeline) : Timeline := { t with i := t.i + 1 }

def Thread.reg (t : Thread) (n : Nat) : Word := NatMap.get 0 t.r n
def Thread.setReg (t : Thread) (n : Nat) (v : Word) : Thread := { t with r := NatMap.set 0 t.r n v }
def Thread.pred (t : Thread) (n : Nat) : Bool := t.p.getLsbD n
def Thread.setPred (t : Thread) (n : Nat) (v : Bool) : Thread :=
  { t with p := if v then t.p ||| (1#8 <<< n) else t.p &&& ~~~(1#8 <<< n) }

/-- The interval of k-register `n`; [0, 0] at the start (R17). -/
def ivGet (m : NatMap Iv) (n : Nat) : Iv := NatMap.get (Iv.exact 0) m n
def ivSet (m : NatMap Iv) (n : Nat) (v : Iv) : NatMap Iv := NatMap.set (Iv.exact 0) m n v
/-- hull, interval by interval (R194). -/
def ivHull (a b : NatMap Iv) : NatMap Iv :=
  (List.range 32).foldl (fun m n => ivSet m n (Iv.hull (ivGet a n) (ivGet b n))) []

namespace Ctx
def sreg (c : Ctx) (n : Nat) : DWord := NatMap.get 0 c.s n
def setSreg (c : Ctx) (n : Nat) (v : DWord) : Ctx := { c with s := NatMap.set 0 c.s n v }
end Ctx

/-- The lanes of a group, ascending, with their threads. -/
def Group.members (g : Group) : List (Nat × Nat) :=
  g.lanes.filterMap (fun p => p.2.map (fun t => (p.1, t)))

/-- A mask of lanes. -/
def laneMask (l : List Nat) : Word := l.foldl (fun m i => m ||| (1#32 <<< i)) 0
def maskLanes (m : Word) : List Nat := (List.range 32).filter (fun i => m.getLsbD i)

-- Physical addresses (R365).

def hbmBytes : Nat := 0x2000000000
def tierBase : Nat := 0x10000000000
def hostBase : Nat := 0x8000000000000

/-- Does the address lie in HBM4E? -/
def isHbm (pa : Nat) : Bool := decide (pa < 4 * hbmBytes)
/-- Does the address lie in host memory? -/
def isHost (pa : Nat) : Bool := decide (hostBase ≤ pa) && decide (pa < 2 * hostBase)
/-- Does the address lie in a fitted part of the second tier? -/
def isTier (pa : Nat) : Bool :=
  decide (tierBase ≤ pa) && decide (pa < tierBase + 4 * 0x8000000000)
    && decide (pa % 0x2000000000 < Config.tierChannelBytes)

/-- Does anything lie at the address (R365)? [DESIGN CHOICE, log 19] -/
def populated (pa : Nat) : Bool := isHbm pa || isHost pa || isTier pa

/-- The HBM4E channel of an address (R365). -/
def channelOf (pa : Nat) : Nat := pa / 0x80000000

/-- The home die of an address, 4 for the host home (R239, R281). -/
def homeOf (s : State) (pa : Nat) : Nat :=
  if isHbm pa then pa / hbmBytes
  else if isHost pa then (if s.boot.h1c then 4 else pa / 256 % 4)
  else (pa - tierBase) / 0x8000000000

/-- The slice within the home die (R281). -/
def sliceOf (pa : Nat) : Nat :=
  Nat.xor (pa / 2 ^ 8 % 32) (Nat.xor (pa / 2 ^ 13 % 32) (Nat.xor (pa / 2 ^ 18 % 32)
    (Nat.xor (pa / 2 ^ 23 % 32) (pa / 2 ^ 28 % 32))))

/-- The partition of a cluster, when an enabled one claims it (R341, R342). -/
def partOfCluster (s : State) (cl : Nat) : Option Nat :=
  (List.range 20).find? (fun p => (s.part p).en && (s.part p).clus.getLsbD cl)

/-- The clusters that a function may use: its partition's, or the pool for function 0 (R341, R342). -/
def clusterAllowed (s : State) (f cl : Nat) : Bool :=
  if f = 0 then (partOfCluster s cl).isNone
  else (s.part (s.fcfgOf f).part).en && (s.part (s.fcfgOf f).part).clus.getLsbD cl

/-- Does the function exist (R344)? -/
def funcExists (s : State) (f : Nat) : Bool := f == 0 || (decide (f ≤ 512) && (s.fcfgOf f).en)

/-- SITE of an agent: die, cluster, core, slot or timeline id (R233). -/
def siteOf (cl core slot : Nat) : Nat := dieOfCluster cl + 4 * cl + 256 * core + 1024 * slot

def Agent.site : Agent → Nat
  | .group c sl => siteOf (c / 4) (c % 4) sl
  | .quartz cl c => siteOf cl 0 c

/-- The front of an agent. -/
def frontOf (s : State) : Agent → Option Front
  | .group c sl => (s.group? c sl).map (·.front)
  | .quartz cl c => (s.ctx? cl c).map (·.front)

def setFront (s : State) (a : Agent) (f : Front) : State :=
  match a with
  | .group c sl => s.modGroup c sl (fun g => { g with front := f })
  | .quartz cl c => s.modCtx cl c (fun x => { x with front := f })

def modFront (s : State) (a : Agent) (f : Front → Front) : State :=
  match frontOf s a with
  | some x => setFront s a (f x)
  | none => s

/-- The launch slot of a function. -/
def launchOf (s : State) (f i : Nat) : Option LaunchSlot := NatMap.get none (s.func f).launches i

/-- The launch record that an agent runs under. -/
def recOf (s : State) (f i : Nat) : LaunchRec :=
  match launchOf s f i with
  | some l => l.rcd
  | none => .empty

/-- Function and launch of an agent. -/
def agentLaunch (s : State) : Agent → Option (Nat × Nat)
  | .group c sl => (s.group? c sl).bind (fun g => (s.unit? g.uid).map (fun u => (u.func, u.launch)))
  | .quartz cl c => (s.ctx? cl c).map (fun x => (x.func, x.launch))

/-- The next identity number. [DESIGN CHOICE, log 3] -/
def State.takeSeq (s : State) : Nat × State := (s.nextSeq, { s with nextSeq := s.nextSeq + 1 })

end Sys2Proof.Machine
end

