-- ==== Sys2Proof/Machine/Coherence.lean ====
section
/-! DEFINITION. Homes, directory, die views, partials and merges (R239 to R241, R280 to R294). Requests act on one
64-byte sector; callers split wider accesses. A performed write stays in `performed` while some holder of a copy has
still to apply it. Its predecessors are kept as a set of such writes; the device's vector clock carries that set. -/

namespace Sys2Proof.Machine

def secOf (pa : Nat) : Nat := pa / 64
def lineOf (pa : Nat) : Nat := pa / 256

def dirOf (s : State) (sec : Nat) : DirEntry := NatMap.get .idle s.dir sec
def setDir (s : State) (sec : Nat) (e : DirEntry) : State := { s with dir := NatMap.set .idle s.dir sec e }

/-- The bytes of host memory that a slice holds and has not yet written there (R239). -/
def markDirty (s : State) (a n : Nat) : State :=
  if isHost a && !s.boot.h1c then
    { s with hostDirty := (List.range n).foldl (fun m i => NatMap.set false m (a + i) true) s.hostDirty }
  else s

/-- Add a report; the end of the step writes it to the logs. -/
def State.report (s : State) (r : Report) : State := { s with reports := s.reports ++ [r] }

/-- The byte at the home: its slice's while the sector is held there, else memory's (R282). [DESIGN CHOICE, log 4] -/
def homeByte (s : State) (a : Nat) : Byte :=
  if (dirOf s (secOf a)).st = .i then NatMap.get 0 s.mem a else NatMap.get 0 s.home a

def homeBytes : State → Nat → Nat → List Byte
  | _, _, 0 => []
  | s, a, n + 1 => homeByte s a :: homeBytes s (a + 1) n

-- Keys (R346).

/-- The value of a key. [DESIGN CHOICE, log 5] -/
def keyValue (s : State) : Key → BitVec 512
  | .boot => Config.randomKey s.resets
  | .pair k => k
  | .unbound => 0

/-- Is the access's key slot valid? Host memory is not encrypted (R346). [DEDUCED, log 64] -/
def keyOk (s : State) (pa key : Nat) : Bool := isHost pa || (NatMap.get none s.keys key).isSome

/-- The sector as the access's key reads it: data under another key decrypts to something else (R346).
[DESIGN CHOICE, log 5; DEDUCED, log 20; DEDUCED, log 64] -/
def rekey (s : State) (sec key : Nat) : State :=
  if isHost (64 * sec) then s
  else
    match NatMap.get none s.keys key with
    | none => s
    | some k =>
      let old := NatMap.get .boot s.secKey sec
      if old = k then s
      else if old = .unbound then { s with secKey := NatMap.set .boot s.secKey sec k }
      else
        let bytes := recrypt (keyValue s old) (keyValue s k) sec (homeBytes s (64 * sec) 64)
        let s1 := if (dirOf s sec).st = .i then { s with mem := NatMap.setRange 0 s.mem (64 * sec) bytes }
          else { s with home := NatMap.setRange 0 s.home (64 * sec) bytes }
        { s1 with secKey := NatMap.set .boot s1.secKey sec k }

-- Operators (R123, R286).

def tagSize (tag : Nat) : Nat := if tag = 1 then 8 else 4

/-- Signed minimum or maximum of two n-bit values. -/
def sminmax (n : Nat) (wantMax : Bool) (a b : DWord) : DWord :=
  let x := (a.setWidth n).toInt
  let y := (b.setWidth n).toInt
  if (if wantMax then decide (x < y) else decide (y < x)) then b else a

/-- a ⊕ b of a tag (R286). -/
def combine (tag : Nat) (a b : DWord) : DWord :=
  match tag with
  | 0 => ((a + b).setWidth 32).setWidth 64
  | 1 => a + b
  | 2 => BitVec.ofNat 64 (faddP fp32 .rne a.toNat b.toNat)
  | 3 => sminmax 32 false a b
  | 4 => sminmax 32 true a b
  | 5 => if b.toNat < a.toNat then b else a
  | 6 => if a.toNat < b.toNat then b else a
  | 7 => BitVec.ofNat 64 (fminmax fp32 false a.toNat b.toNat)
  | 8 => BitVec.ofNat 64 (fminmax fp32 true a.toNat b.toNat)
  | 9 => a ||| b
  | 10 => a ^^^ b
  | _ => a &&& b

/-- Identity of a fresh partial (R123). -/
def identity (tag : Nat) : DWord :=
  match tag with
  | 2 => 0x80000000
  | 3 => 0x7FFFFFFF
  | 4 => 0x80000000
  | 5 => 0xFFFFFFFF
  | 7 => 0x7F800000
  | 8 => 0xFF800000
  | 11 => 0xFFFFFFFF
  | _ => 0

def unionIds (a b : List Nat) : List Nat := a ++ b.filter (fun x => !a.contains x)

/-- Combine one value into a partial's element, marking it (R285). -/
def Partial.contribute (p : Partial) (el : Nat) (v : DWord) : Partial :=
  let old := (NatMap.get none p.els el).getD (identity p.tag)
  { p with els := NatMap.set none p.els el (some (combine p.tag old v)) }

/-- P ⊕ p on the elements that p marks (R287). -/
def Partial.join (P : Option Partial) (p : Partial) : Partial :=
  match P with
  | none => p
  | some q =>
    { q with
      els := p.els.foldl (fun m (x : Nat × Option DWord) =>
        match x.2, NatMap.get none m x.1 with
        | some v, some w => NatMap.set none m x.1 (some (combine q.tag w v))
        | some v, none => NatMap.set none m x.1 (some v)
        | none, _ => m) q.els
      preds := unionIds q.preds p.preds
      funcs := unionIds q.funcs p.funcs
      bad := q.bad || p.bad }

def collectorOf (s : State) (d sec : Nat) : Option Collector := NatMap.get none (s.die d).collectors sec
def setCollector (s : State) (d sec : Nat) (p : Option Collector) : State :=
  s.modDie d (fun x => { x with collectors := NatMap.set none x.collectors sec p })
def partialOf (s : State) (c sec : Nat) : Option Partial := NatMap.get none (s.core c).partials sec
def setPartial (s : State) (c sec : Nat) (p : Option Partial) : State :=
  s.modCore c (fun x => { x with partials := NatMap.set none x.partials sec p })

/-- The cores that hold any table entry, ascending. -/
def State.coreKeys (s : State) : List Nat := s.cores.map Prod.fst

/-- Is the request a core's registration for a sector? -/
def isRegister (core sec : Nat) (q : Sent) : Bool :=
  match q.kind with
  | .register _ c => c == core && secOf q.pa == sec
  | _ => false

/-- Is the core's partial named by DIES and CLUS, or by its die's collector (R282, R287)? -/
def tracked (s : State) (sec : Nat) (e : DirEntry) (c : Nat) : Bool :=
  let hd := homeOf s (64 * sec)
  let bit := c / 4 % 16
  if dieOfCore c = hd then e.clus.getLsbD bit
  else e.dies.getLsbD (dieOfCore c) && (collectorOf s (dieOfCore c) sec).any (fun k => k.clus.getLsbD bit)

/-- The cores of die `k` whose partial a merge of the sector recalls, ascending (R288). A partial whose registration is still
on its way is none of them (R290). [DEDUCED, log 55] -/
def recallCores (s : State) (sec : Nat) (e : DirEntry) (k : Nat) : List Nat :=
  s.coreKeys.filter (fun c => dieOfCore c == k && tracked s sec e c && !s.sent.any (isRegister c sec) &&
    (match partialOf s c sec with | some p => p.tag == e.tag | none => false))

/-- d(k) of R288, step 1. -/
def diePartial (s : State) (sec : Nat) (e : DirEntry) (k : Nat) : Option Partial :=
  (recallCores s sec e k).foldl (fun P c =>
    match partialOf s c sec with
    | some p => some (Partial.join P p)
    | none => P) ((collectorOf s k sec).bind (·.part))

/-- Drop the partials and the collector of die `k` that a merge has recalled. -/
def dropPartials (s : State) (sec : Nat) (e : DirEntry) (k : Nat) : State :=
  setCollector ((recallCores s sec e k).foldl (fun st c => setPartial st c sec none) s) k sec none

/-- B := B ⊕ d, element by element, on the marked elements (R288, step 2). -/
def combineBase (s : State) (sec : Nat) (d : Option Partial) : State :=
  match d with
  | none => s
  | some p =>
    let n := tagSize p.tag
    let s1 := p.els.foldl (fun st (x : Nat × Option DWord) =>
      match x.2 with
      | none => st
      | some v =>
        let a := 64 * sec + n * x.1
        let old := BitVec.ofNat 64 (leNat (homeBytes st a n))
        markDirty { st with home := NatMap.setRange 0 st.home a (leBytes n (combine p.tag old v).toNat) } a n) s
    { s1 with lastW := (List.range 16).foldl (fun m i =>
        NatMap.set [] m (16 * sec + i) (unionIds (NatMap.get [] m (16 * sec + i)) p.preds)) s1.lastW }

/-- Fill a sector from memory when the home does not hold it: E (R284). -/
def fillHome (s : State) (sec : Nat) : State :=
  if (dirOf s sec).st = .i then
    let bytes := NatMap.getRange 0 s.mem (64 * sec) 64
    setDir { s with home := NatMap.setRange 0 s.home (64 * sec) bytes } sec ⟨.e, false, 0, 0, 0, false⟩
  else s

/-- Write the held sector to memory: of host memory, the bytes that the device has written (R239). -/
def writeMem (s : State) (sec : Nat) : State :=
  if isHost (64 * sec) then
    (List.range 64).foldl (fun st i =>
      let a := 64 * sec + i
      if NatMap.get false st.hostDirty a then
        { st with mem := NatMap.set 0 st.mem a (homeByte st a), hostDirty := NatMap.erase st.hostDirty a }
      else st) s
  else { s with mem := NatMap.setRange 0 s.mem (64 * sec) (homeBytes s (64 * sec) 64) }

-- Views (R240).

/-- Does the holder (a die, or 4 for the host) hold the sector? -/
def holds (s : State) (h sec : Nat) : Bool :=
  if h = 4 then (dirOf s sec).host else (s.die h).held.contains sec

/-- Does the holder's view reflect the write (R238, R240)? Where it holds no copy, its view is the home's value. -/
def appliedTo (s : State) (h : Nat) (w : PWrite) : Bool := !w.pending.contains h || !holds s h (secOf w.pa)

def appliedAt (s : State) (h : Nat) (ids : List Nat) : Bool :=
  ids.all (fun i => s.performed.all (fun w => w.id != i || appliedTo s h w))

/-- Only the writes that somebody has still to apply. -/
def awaited (l : List PWrite) : List PWrite := l.filter (fun w => w.pending != [])

/-- The list of awaited writes changes. Every view shows a write that leaves it, so that what is sent from then on follows the
predecessors of that write (R240, cases 1 and 4). -/
def setPerformed (s : State) (l : List PWrite) : State :=
  let there (i : Nat) : Bool := l.any (fun w => w.id == i)
  { s with
    performed := l
    follows := ((s.performed.filter (fun w => !there w.id)).foldl (fun acc w => unionIds acc w.preds) s.follows).filter there }

/-- Strike holder `h` from the pending sets of writes to a sector. -/
def strikeSector (s : State) (h sec : Nat) : State :=
  setPerformed s (awaited (s.performed.map (fun w => if secOf w.pa = sec then { w with pending := w.pending.erase h } else w)))

/-- Strike a holder from the pending set of a write, and drop writes that nobody awaits. -/
def strike (s : State) (h id : Nat) : State :=
  setPerformed s (awaited (s.performed.map (fun w => if w.id = id then { w with pending := w.pending.erase h } else w)))

/-- Holder `h` applies a write: the view changes where the line is held (R240). -/
def applyOne (h : Nat) (s : State) (w : PWrite) : State :=
  let s1 :=
    if h = 4 then
      (if holds s 4 (secOf w.pa) then { s with hostView := NatMap.setRange 0 s.hostView w.pa w.data } else s)
    else if holds s h (secOf w.pa) then s.modDie h (fun d => { d with view := NatMap.setRange 0 d.view w.pa w.data })
    else s
  strike s1 h w.id

/-- The writes that `h` must apply before and with `ids`: their predecessors, and earlier writes to the same bytes.
The list is scanned from the latest performed write to the earliest. [DEDUCED, log 25] -/
def needed (h : Nat) : List PWrite → List Nat → List PWrite → List PWrite
  | [], _, acc => acc
  | w :: r, ids, acc =>
    if w.pending.contains h && (ids.contains w.id || acc.any (fun x => overlaps x.pa x.data.length w.pa w.data.length)) then
      needed h r (unionIds ids w.preds) (w :: acc)
    else needed h r (if ids.contains w.id then unionIds ids w.preds else ids) acc

/-- Holder `h` applies `ids` and all that must come before them. [DEDUCED, log 25] -/
def catchUp (s : State) (h : Nat) (ids : List Nat) : State :=
  (needed h s.performed.reverse ids []).foldl (applyOne h) s

/-- Every holder applies `ids`. -/
def catchUpAll (s : State) (ids : List Nat) : State := (List.range 5).foldl (fun st h => catchUp st h ids) s

/-- The writes a value at [pa, pa + n) follows, itself among them (R241). [DEDUCED, log 25] -/
def predsOf (s : State) (pa n : Nat) : List Nat :=
  (List.range (n / 4 + 2)).foldl (fun acc i =>
    if 4 * (pa / 4 + i) < pa + n then unionIds acc (NatMap.get [] s.lastW (pa / 4 + i)) else acc) []

/-- Keep only writes that someone has still to apply. -/
def prune (s : State) (ids : List Nat) : List Nat := ids.filter (fun i => s.performed.any (fun w => w.id == i))

/-- Cases 1, 2 and 4 of R240 for a write that die `d` sends, with `own` the agent's performed writes. [DEDUCED, log 25] -/
def sendPreds (s : State) (d : Nat) (own : List Nat) : List Nat :=
  let direct := s.performed.filter (fun w => appliedTo s d w || own.contains w.id || s.follows.contains w.id)
  direct.foldl (fun acc w => unionIds acc (w.id :: prune s w.preds)) []

/-- The host drops a line of device memory: it holds lines whole (R280, R293). -/
def dropHostLine (s : State) (line : Nat) : State :=
  (List.range 4).foldl (fun st i =>
    let sec := 4 * line + i
    let e := dirOf st sec
    if e.host then
      let s0 := strikeSector st 4 sec
      let s1 := { s0 with hostView := NatMap.clearRange s0.hostView (64 * sec) (64 * sec + 64) }
      setDir s1 sec (if e.st = .s ∧ e.dies = 0 then ⟨if e.dirty then .m else .e, false, 0, 0, 0, false⟩ else { e with host := false })
    else st) s

/-- Die `k` drops its visitor copy of a sector; a line of which it holds no sector any more leaves its L2 (R226). -/
def dropCopy (s : State) (k sec : Nat) : State :=
  if holds s k sec || (s.die k).fills.contains sec then
    s.modDie k (fun d =>
      let held := d.held.erase sec
      let fills := d.fills.erase sec
      { d with
        held := held, fills := fills, bad := d.bad.erase sec
        view := NatMap.clearRange d.view (64 * sec) (64 * sec + 64)
        lines := if (held ++ fills).any (fun q => q / 4 == sec / 4) then d.lines
          else d.lines.filter (fun l => l.line != sec / 4) })
  else s

/-- The die drops every sector of a line. -/
def dropCopyLine (s : State) (k line : Nat) : State := (List.range 4).foldl (fun st i => dropCopy st k (4 * line + i)) s

/-- Invalidate every visitor copy and host copy of a sector (R283, R284). -/
def invalidateCopies (s : State) (sec : Nat) : State :=
  let s1 := (List.range 4).foldl (fun st k => dropCopy st k sec) s
  let s2 := setPerformed s1 (s1.performed.filter (fun w => secOf w.pa != sec))
  if (dirOf s2 sec).host then dropHostLine s2 (sec / 4) else s2

/-- A core drops its L1 copies of a line (R241). -/
def dropL1Line (s : State) (core line : Nat) : State :=
  s.modCore core (fun c => { c with l1 := c.l1.filter (fun p => p.1 / 4 != line) })

/-- A core drops every S copy of its L1 (R243). -/
def dropL1 (s : State) (core : Nat) : State := s.modCore core (fun c => { c with l1 := [] })

/-- A core acquires at package scope: its die applies every performed write, and its L1 is dropped (R243, R249). -/
def acquirePackage (s : State) (core : Nat) : State := dropL1 (catchUp s (dieOfCore core) (s.performed.map (·.id))) core

/-- The L1 copy of a sector goes. -/
def dropL1Sec (s : State) (core sec : Nat) : State :=
  s.modCore core (fun c => { c with l1 := NatMap.erase c.l1 sec })

/-- Every holder drops its partial of a sector. One whose registration is on its way stays: the registration meets what stands at
the home when it is served (R285). -/
def forgetPartials (s : State) (sec : Nat) : State :=
  let s1 := s.coreKeys.foldl (fun st c =>
    if (partialOf st c sec).isSome && !st.sent.any (isRegister c sec) then setPartial st c sec none else st) s
  (List.range 4).foldl (fun st d => if (collectorOf st d sec).isSome then setCollector st d sec none else st) s1

/-- The poison mark of a sector (R355). -/
def markSector (s : State) (sec : Nat) : State := { s with poison := if s.poison.contains sec then s.poison else s.poison ++ [sec] }

/-- Add a line to a list of lines, once. -/
def insertLine (n : Nat) (l : List Nat) : List Nat := if l.contains n then l else n :: l

/-- A line poisoned as a whole, sector by sector (R294). -/
def poisonLine (f : State → Nat → State) (s : State) (line : Nat) : State :=
  let s1 := (List.range 4).foldl (fun st i => f st (4 * line + i)) s
  { s1 with poisonLines := insertLine line s1.poisonLines }

/-- A sector of a poisoned line: M, with the mark (R294, R355). [DEDUCED, log 55] -/
def poisonSector (s : State) (sec : Nat) : State :=
  let s1 := invalidateCopies (forgetPartials s sec) sec
  let s2 := fillHome (s1.coreKeys.foldl (fun st c => dropL1Sec st c sec) s1) sec
  markSector (setDir s2 sec ⟨.m, false, 0, 0, 0, false⟩) sec

/-- The functions that map a physical address, each with its own virtual address, by the translations that the device holds
(R363). [DEDUCED, log 55] -/
def mappersOf (s : State) (pa : Nat) : List (Nat × Nat) :=
  (s.tlbs.flatMap (fun p => p.2)).foldl (fun acc e =>
    if e.ppn ≤ pa / 4096 ∧ pa / 4096 < e.ppn + e.pages ∧ acc.all (fun q => q.1 != e.func) = true then
      acc ++ [(e.func, 4096 * e.vpn + (pa - 4096 * e.ppn))]
    else acc) []

/-- The first of them. -/
def mappedBy (s : State) (pa : Nat) : Option (Nat × Nat) := (mappersOf s pa).head?

/-- The record of R294: class 2 rebuilt, 3 poisoned. [DEDUCED, log 42] -/
def directoryReport (s : State) (line cls tag : Nat) : Report :=
  let m := mappedBy s (256 * line)
  ⟨cls, 2, 0x03, some (256 * line), m.map (fun p => p.2), 256, (m.map (fun p => p.1)).getD 0,
    homeOf s (256 * line), tag, 0⟩

/-- Merge a sector in U (R288); the sector is then M. An uncorrectable error in a partial that the merge meets poisons the line
(R294). -/
def merge (s : State) (sec : Nat) : State :=
  let e := dirOf s sec
  if e.st = .u then
    let ds := (List.range 4).map (diePartial s sec e)
    if ds.any (fun d => d.any (·.bad)) then
      (poisonLine poisonSector s (sec / 4)).report (directoryReport s (sec / 4) 3 e.tag)
    else
      let s1 := (List.range 4).foldl (fun st k => dropPartials st sec e k) s
      let s2 := ds.foldl (fun st d => combineBase st sec d) s1
      setDir s2 sec ⟨.m, false, 0, 0, 0, false⟩
  else s

/-- A home drops a line (R283): U merged, copies invalidated, dirty data written, the line I. -/
def homeDropLine (s : State) (line : Nat) : State :=
  (List.range 4).foldl (fun st i =>
    let sec := 4 * line + i
    let s1 := invalidateCopies (merge st sec) sec
    let e := dirOf s1 sec
    let s2 := if e.st = .m || e.dirty then writeMem s1 sec else s1
    let s3 := { s2 with home := NatMap.clearRange s2.home (64 * sec) (64 * sec + 64) }
    if e.st = .i then s1 else setDir s3 sec .idle) s

-- Occupancy (R226, R227).

def occOf (d : DieSt) (f : Nat) : Nat := (d.lines.filter (fun l => l.func == f)).length
def limOf (d : DieSt) (f : Nat) : Nat := (NatMap.get 0xFFFFF d.lim f).toNat

/-- The lines of the set that a line falls in: those of its slice (R227, R281), 8,192 of them. [DESIGN CHOICE, log 28] -/
def setLines (d : DieSt) (line : Nat) : List OccLine := d.lines.filter (fun l => sliceOf (256 * l.line) == sliceOf (256 * line))

/-- The victim of a fill by `f` among the lines of a set, oldest use first (R227). -/
def victimOf (d : DieSt) (f : Nat) (set : List OccLine) : Option OccLine :=
  match if limOf d f ≤ occOf d f then set.find? (fun l => l.func == f) else none with
  | some l => some l
  | none =>
    match set.find? (fun l => decide (limOf d l.func ≤ occOf d l.func)) with
    | some l => some l
    | none => set.head?

/-- A die drops a line: a line homed there leaves its slice (R283), a visitor copy is dropped. [DESIGN CHOICE, log 28] -/
def evictLine (s : State) (d line : Nat) : State :=
  let s1 := s.modDie d (fun x => { x with lines := x.lines.filter (fun l => l.line != line) })
  if homeOf s (256 * line) = d then homeDropLine s1 line else dropCopyLine s1 d line

/-- A request of function `f` uses a line of die `d`'s L2: the line is counted, and made the latest used.
[DESIGN CHOICE, log 28] -/
def occupy (s : State) (d f line : Nat) : State :=
  let x := s.die d
  match x.lines.find? (fun l => l.line == line) with
  | some l => s.modDie d (fun y => { y with lines := y.lines.filter (fun k => k.line != line) ++ [l] })
  | none =>
    let set := setLines x line
    let s1 := if 8192 ≤ set.length then
        (match victimOf x f set with
         | some v => evictLine s d v.line
         | none => s)
      else s
    s1.modDie d (fun y => { y with lines := y.lines ++ [⟨line, f⟩] })

/-- A request that is served at the home uses the line there (R284). The host's own requests count to function 0.
[DESIGN CHOICE, log 28] -/
def useHome (s : State) (f pa : Nat) : State :=
  if homeOf s pa < 4 then occupy s (homeOf s pa) f (lineOf pa) else s

/-- A read through die `d`'s view uses the die's own L2, and the home's when the die holds no copy (R241). -/
def useView (s : State) (d f pa : Nat) : State :=
  if homeOf s pa = d then occupy s d f (lineOf pa)
  else if holds s d (secOf pa) then occupy s d f (lineOf pa)
  else occupy (useHome s f pa) d f (lineOf pa)

-- Requests (R284).

/-- A read at the home. `who` is none for a home-die agent. -/
def readReq (s : State) (sec : Nat) (who : Option Nat) : State :=
  let s1 := fillHome (merge s sec) sec
  let e := dirOf s1 sec
  match who with
  | none => s1
  | some h =>
    let dirty := e.dirty || e.st == .m
    if h = 4 then setDir s1 sec { e with st := .s, dirty := dirty, host := true }
    else setDir s1 sec { e with st := .s, dirty := dirty, dies := e.dies ||| (1#4 <<< h) }

/-- The holders of copies of a sector in S. -/
def copyHolders (e : DirEntry) : List Nat :=
  if e.st = .s then (List.range 4).filter (fun k => e.dies.getLsbD k) ++ (if e.host then [4] else []) else []

/-- A write is performed at its home (R239, R284): its place in coherence order, and what every copy has to apply. -/
def performWrite (s : State) (pa key : Nat) (data : List Byte) (preds : List Nat) : Nat × State :=
  let sec := secOf pa
  let hd := homeOf s pa
  let id := s.nextSeq
  let words := (List.range ((pa + data.length + 3) / 4 - pa / 4)).map (fun i => pa / 4 + i)
  let ps := prune s preds
  let note (st : State) (hs : List Nat) : State :=
    { st with
      lastW := words.foldl (fun m w => NatMap.set [] m w (if hs = [] then ps else id :: ps)) st.lastW
      performed := if hs = [] then st.performed else st.performed ++ [⟨id, s.clock, pa, data, ps, hs⟩]
      follows := if hs = [] then unionIds (prune st st.follows) ps else st.follows
      nextSeq := id + 1 }
  if hd = 4 then
    (id, note { s with mem := NatMap.setRange 0 s.mem pa data }
      ((List.range 4).filter (fun k => (NatMap.get 0 s.hostHeld (lineOf pa)).getLsbD k)))
  else
    let s1 := rekey (fillHome (merge s sec) sec) sec key
    let e := dirOf s1 sec
    let s2 := note (markDirty { s1 with home := NatMap.setRange 0 s1.home pa data } pa data.length) (copyHolders e)
    (id, setDir s2 sec (if e.st = .s then { e with dirty := true } else ⟨.m, false, 0, 0, 0, false⟩))

/-- A read-modify-write that writes nothing leaves its sector as one that writes does (R284, R292). -/
def touchHome (s : State) (pa : Nat) : State :=
  let e := dirOf s (secOf pa)
  if homeOf s pa = 4 then s
  else match e.st with
    | .s => setDir s (secOf pa) { e with dirty := true }
    | .e => setDir s (secOf pa) ⟨.m, false, 0, 0, 0, false⟩
    | _ => s

/-- The read at the home, for atomics and uncached pages (R241): the value, after the merge that a sector in U needs.
[DEDUCED, log 26] -/
def homeRead (s : State) (pa n key : Nat) : List Byte × State :=
  if homeOf s pa = 4 then (NatMap.getRange 0 s.mem pa n, s)
  else
    let s1 := rekey (fillHome (merge s (secOf pa)) (secOf pa)) (secOf pa) key
    (homeBytes s1 pa n, s1)

/-- CWB at the home (R116, R284). -/
def cleanReq (s : State) (pa : Nat) (system : Bool) : State :=
  let sec := secOf pa
  if homeOf s pa = 4 then s
  else
    let s1 := merge s sec
    if !system then s1
    else
      let e := dirOf s1 sec
      match e.st with
      | .m => setDir (writeMem s1 sec) sec { e with st := .e, dirty := false }
      | .s => if e.dirty then setDir (writeMem s1 sec) sec { e with dirty := false } else s1
      | _ => s1

/-- The home's data of a sector is written to memory; partials stay where they are (R279, R289). -/
def throughSec (s : State) (sec : Nat) : State :=
  let e := dirOf s sec
  match e.st with
  | .m => setDir (writeMem s sec) sec { e with st := .e, dirty := false }
  | .s | .u => if e.dirty then setDir (writeMem s sec) sec { e with dirty := false } else s
  | _ => s

/-- Host memory homed in the device is written through (R244, system scope). -/
def writeThrough (s : State) : State :=
  if s.boot.h1c then s
  else (s.dir.filter (fun p => isHost (64 * p.1))).foldl (fun st p => throughSec st p.1) s

/-- A line of which its home holds no sector leaves the home's L2 (R226). -/
def forgetLine (s : State) (line : Nat) : State :=
  if (List.range 4).all (fun i => (dirOf s (4 * line + i)).st == .i) then
    s.modDie (homeOf s (256 * line)) (fun d => { d with lines := d.lines.filter (fun l => l.line != line) })
  else s

/-- The slices write what they have to write of host memory over H0 and drop it, so that later reads find what the host has
written there: the device's side of an acquire at system scope from the host (R249). [DEDUCED, log 70] -/
def dropHostCopies (s : State) : State :=
  if s.boot.h1c then s
  else (s.dir.filter (fun p => isHost (64 * p.1) && p.2.st != .u)).foldl (fun st p =>
    let s1 := invalidateCopies (writeMem st p.1) p.1
    forgetLine (setDir { s1 with home := NatMap.clearRange s1.home (64 * p.1) (64 * p.1 + 64) } p.1 .idle) (p.1 / 4)) s

/-- A doorbell orders the host's earlier writes before what the device reads after it (R249, R301). [DEDUCED, log 70] -/
def hostDoorbell (s : State) : State := (List.range 4).foldl (fun st d => catchUp st d s.hostOwn) (dropHostCopies s)

/-- A release at system scope as a report to the host makes it (R249): what has been performed is in host memory, or in
the view of a coherent host. -/
def reportRelease (s : State) : State := catchUp (writeThrough s) 4 (s.performed.map (·.id))

/-- A slice moves a collector out: the die's partial is combined into the base, and its tracking goes (R287). An uncorrectable error
in it poisons the line, as no contribution is discarded otherwise (R294). [DEDUCED, log 55] -/
def collectorOut (s : State) (die sec : Nat) : State :=
  let e := dirOf s sec
  let d := diePartial s sec e die
  if d.any (·.bad) then (poisonLine poisonSector s (sec / 4)).report (directoryReport s (sec / 4) 3 e.tag)
  else
  let s1 := combineBase (dropPartials s sec e die) sec d
  setDir s1 sec (if homeOf s (64 * sec) = die then { e with clus := 0, dirty := e.dirty || d.isSome }
    else { e with dies := e.dies &&& ~~~(1#4 <<< die), dirty := e.dirty || d.isSome })

/-- The lines that have a collector entry in the slice of a sector on a die (R287). -/
def sliceCollectors (s : State) (d sec : Nat) : List Nat :=
  (((s.die d).collectors.filter (fun p => sliceOf (64 * p.1) == sliceOf (64 * sec))).map (fun p => p.1 / 4)).eraseDups

/-- Room for the collector entry of a sector's line: a slice with 256 entries moves one out, of the lowest line.
[DESIGN CHOICE, log 71] -/
def collectorRoom (s : State) (d sec : Nat) : State :=
  let l := sliceCollectors s d sec
  if l.contains (sec / 4) || decide (l.length < 256) then s
  else
    match l.head? with
    | some line => (List.range 4).foldl (fun st i =>
        if (collectorOf st d (4 * line + i)).isSome then collectorOut st d (4 * line + i) else st) s
    | none => s

/-- The collector of a die notes a cluster that holds a core partial (R287). -/
def noteCollector (s : State) (core sec : Nat) : State :=
  let d := dieOfCore core
  let s1 := collectorRoom s d sec
  let k := (collectorOf s1 d sec).getD ⟨none, 0⟩
  setCollector s1 d sec (some { k with clus := k.clus ||| (1#16 <<< (core / 4 % 16)) })

/-- A UPD registration reaches the home (R284, R285, R287). -/
def registerReq (s : State) (pa tag core key : Nat) : State :=
  let sec := secOf pa
  let e0 := dirOf s sec
  let s1 := if e0.st = .u ∧ e0.tag ≠ tag then merge s sec else s
  let s2 := rekey (fillHome s1 sec) sec key
  let s3 := if (dirOf s2 sec).st = .s then invalidateCopies s2 sec else s2
  let e := dirOf s3 sec
  let home := decide (dieOfCore core = homeOf s pa)
  let base : DirEntry := if e.st = .u then e
    else ⟨.u, e.dirty || e.st == .m, tag, 0, 0, false⟩
  noteCollector (setDir s3 sec (if home then { base with clus := base.clus ||| (1#16 <<< (core / 4 % 16)) }
    else { base with dies := base.dies ||| (1#4 <<< dieOfCore core) })) core sec

/-- A drop notice reaches the home (R283, R284). -/
def dropNotice (s : State) (d line : Nat) : State :=
  (List.range 4).foldl (fun st i =>
    let sec := 4 * line + i
    let e := dirOf st sec
    if e.st = .s ∧ e.dies.getLsbD d ∧ !holds st d sec then
      let dies := e.dies &&& ~~~(1#4 <<< d)
      let s1 := strikeSector st d sec
      setDir s1 sec (if dies = 0 ∧ !e.host then ⟨if e.dirty then .m else .e, false, 0, 0, 0, false⟩ else { e with dies := dies })
    else st) s

/-- A queued fill enters the die's view (R240): the home's bytes, with every earlier write to the sector applied, and with the
mark that they have there (R355). -/
def completeFill (s : State) (d sec : Nat) (bytes : List Byte) : State :=
  (strikeSector s d sec).modDie d (fun x => { x with
    fills := x.fills.erase sec, held := sec :: x.held.erase sec
    bad := if s.poison.contains sec then sec :: x.bad.erase sec else x.bad
    view := NatMap.setRange 0 x.view (64 * sec) bytes })

/-- A fill that a home has answered waits for its place in the die's view (R240). -/
def queueFill (s : State) (d sec : Nat) : State :=
  s.modDie d (fun x => if x.fills.contains sec then x else { x with fills := x.fills ++ [sec] })

/-- The value of die `d`'s view (R240, R241). A sector that the die does not hold is read at the home, and its fill is
queued (LINE_FILL); of a host-homed line the whole line is (R280, R293). [DEDUCED, log 26] -/
def viewRead (s : State) (d pa n key : Nat) : List Byte × State :=
  let sec := secOf pa
  let hd := homeOf s pa
  if hd = d then
    let s1 := rekey (readReq s sec none) sec key
    (homeBytes s1 pa n, s1)
  else if holds s d sec then (NatMap.getRange 0 (s.die d).view pa n, s)
  else
    if hd = 4 then
      (NatMap.getRange 0 s.mem pa n,
        (List.range 4).foldl (fun st i => queueFill st d (4 * lineOf pa + i)) { s with
          hostHeld := NatMap.set 0 s.hostHeld (lineOf pa) (NatMap.get 0 s.hostHeld (lineOf pa) ||| (1#4 <<< d)) })
    else
      let s1 := rekey (readReq s sec (some d)) sec key
      (homeBytes s1 pa n, queueFill s1 d sec)

/-- A core's L1 copy that may still be read: dropped no later than 65,536 clocks after its fill (R251). -/
def l1Copy (s : State) (core sec : Nat) : Option L1Copy :=
  match NatMap.get none (s.core core).l1 sec with
  | some c => if s.clock - c.filled < 65536 then some c else none
  | none => none

/-- The writes that a value read in die `d`'s view follows and that the die may have still to apply: none where the die holds
a copy, which it keeps in causal order (R240, R241). -/
def viewPreds (s : State) (d pa n : Nat) : List Nat := if holds s d (secOf pa) then [] else predsOf s pa n

/-- An L1 moves a U sector out: the core's partial moves to its die's collector (R287). A registration on its way is served
first. -/
def partialOut (s : State) (core sec : Nat) : State :=
  match partialOf s core sec with
  | none => s
  | some p =>
    let d := dieOfCore core
    let s1 := setPartial (collectorRoom s d sec) core sec none
    let k := (collectorOf s1 d sec).getD ⟨none, 0⟩
    let others := (List.range 4).any (fun i => (partialOf s1 (4 * (core / 4) + i) sec).isSome)
    let bit : BitVec 16 := if others then 0 else 1#16 <<< (core / 4 % 16)
    let s2 := setCollector s1 d sec (some ⟨some (Partial.join k.part p), k.clus &&& ~~~bit⟩)
    let e := dirOf s2 sec
    if homeOf s (64 * sec) = d ∧ e.st = .u then setDir s2 sec { e with clus := e.clus &&& ~~~bit } else s2

/-- The lines of a core's L1, in either state: 256 KiB are 1,024 lines (R5, R280). -/
def l1Lines (s : State) (core : Nat) : List Nat :=
  ((s.core core).l1.map (fun (p : Nat × Option L1Copy) => p.1 / 4) ++
    (s.core core).partials.map (fun (p : Nat × Option Partial) => p.1 / 4)).eraseDups

-- Writes of an agent (R240, case 2).

/-- The agent's own performed writes that some holder has still to apply. -/
def ownOf (s : State) : Sender → List Nat
  | .thread uid t => match s.unit? uid with
    | some u => (u.thread t).own
    | none => []
  | .engine op => match s.engineOps.find? (fun o => o.id == op) with
    | some o => o.own
    | none => []
  | .host => s.hostOwn
  | .fabric => s.fabricOwn
  | .device => []

/-- Note a performed write of an agent, while somebody has still to apply it. -/
def addOwn (s : State) (b : Sender) (id : Nat) : State :=
  if s.performed.any (fun w => w.id == id) then
    match b with
    | .thread uid t => s.modUnit uid (fun u => u.modThread t (fun x => { x with own := prune s x.own ++ [id] }))
    | .engine op => { s with engineOps := s.engineOps.map (fun o =>
        if o.id = op then { o with own := prune s o.own ++ [id] } else o) }
    | .host => { s with hostOwn := prune s s.hostOwn ++ [id] }
    | .fabric => { s with fabricOwn := prune s s.fabricOwn ++ [id] }
    | .device => s
  else s

/-- Perform one write of an agent, within a sector. -/
def performFor (s : State) (b : Sender) (pa key : Nat) (data : List Byte) (preds : List Nat) : State :=
  let r := performWrite s pa key data preds
  addOwn r.2 b r.1

/-- Perform a run of bytes of an agent on die `d`, sector by sector. -/
def performRun (b : Sender) (d key : Nat) : Nat → State → Nat → List Byte → State
  | 0, s, _, _ => s
  | n + 1, s, pa, data =>
    if data = [] then s
    else
      let k := min data.length (64 - pa % 64)
      performRun b d key n (performFor s b pa key (data.take k) (sendPreds s d (ownOf s b))) (pa + k) (data.drop k)

/-- Is the sector poisoned (R355)? -/
def poisoned (s : State) (pa : Nat) : Bool := s.poison.contains (secOf pa)

-- Error responses (R294, R346, R355, R356).

/-- POISON_CONSUMED by a consumer (R356, R362), with the granularity of the mark: a line that a directory error poisoned, else a
sector (R355). -/
def poisonReport (s : State) (pa : Nat) (va : Option Nat) (f site consumer aux1 : Nat) : Report :=
  let n := if s.poisonLines.contains (lineOf pa) then 256 else 64
  ⟨4, if n = 256 then 2 else 1, 0x04, some (pa / n * n), va.map (fun v => v / n * n), n, f, site, consumer, aux1⟩

/-- KEY_SLOT of a sector (R346, R362). [DEDUCED, log 64] -/
def keyReport (pa : Nat) (va : Option Nat) (f site key : Nat) : Report :=
  ⟨3, 1, 0x09, some (pa / 64 * 64), va.map (fun v => v / 64 * 64), 64, f, site, key, 0⟩

/-- Why an access gets an error response: poison (R356) or an invalid key slot (R346). -/
inductive AccErr where
  | poison | key
deriving DecidableEq, Repr

/-- [DEDUCED, log 64] -/
def accErr (s : State) (pa key : Nat) : Option AccErr :=
  if poisoned s pa then some .poison else if keyOk s pa key then none else some .key

/-- The error response of an access that is served at the home. A sector in U is merged first, and the merge may poison it (R284,
R294). -/
def homeErr (s : State) (pa key : Nat) : Option AccErr × State :=
  let s1 := if homeOf s pa < 4 then merge s (secOf pa) else s
  (accErr s1 pa key, s1)

/-- The error response of a read of some data where a holder has a copy, with an error in it or not (R355). -/
def copyErr (s : State) (pa key : Nat) (bad : Bool) : Option AccErr :=
  if !keyOk s pa key then some .key else if bad then some .poison else none

/-- The error response of a read through die `d`'s view: of its copy, else at the home (R241, R355). -/
def viewErr (s : State) (d pa key : Nat) : Option AccErr × State :=
  if homeOf s pa ≠ d ∧ holds s d (secOf pa) = true then (copyErr s pa key ((s.die d).bad.contains (secOf pa)), s)
  else homeErr s pa key

/-- The record of an error response; `aux1` is the word's address for consumers 1 and 6 (R362). [DEDUCED, log 42] -/
def reportErr (s : State) (e : AccErr) (f va pa key site consumer aux1 : Nat) : State :=
  match e with
  | .poison => s.report (poisonReport s pa (some va) f site consumer aux1)
  | .key => s.report (keyReport pa (some va) f site key)

end Sys2Proof.Machine
end

