-- ==== Sys2Proof/Machine/Xlate.lean ====
section
/-! DEFINITION. Translation (R228 to R232, R345, R365), and the device's own reads and writes of function memory (R372). -/

namespace Sys2Proof.Machine

/-- What an access wants (R232). -/
inductive Want where
  | read | write | fetch
deriving DecidableEq, Repr

/-- A translation fault: faulting guest address of a stage-2 fault, KIND, level and stage (R233). -/
structure XFault where
  va : Nat
  gpa : Nat
  kind : Nat
  level : Nat
  stage2 : Bool
deriving DecidableEq, Repr

/-- A translated byte: physical address, key slot, memory type 0b01. -/
structure Trans where
  pa : Nat
  key : Nat
  unc : Bool
deriving DecidableEq, Repr

/-- Result of a translation. -/
inductive Tr (α : Type) where
  | ok (v : α)
  | flt (f : XFault)
deriving DecidableEq, Repr

/-- A leaf entry as found: the entry, its level, the frame of the access's own 4 KiB granule, and how many granules the translation
covers. -/
structure Leaf where
  entry : DWord
  level : Nat
  frame : Nat
  pages : Nat
deriving DecidableEq, Repr

/-- A table entry, read coherently at system scope (R230) under a key slot; none where the read gets an error response (R346).
[DEDUCED, log 74] -/
def tableRead (s : State) (f pa key : Nat) : Option DWord × State :=
  match homeErr s pa key with
  | (some e, s1) => (none, reportErr s1 e f pa pa key (homeOf s pa) 1 0)
  | (none, s1) =>
    let s2 := rekey s1 (secOf pa) key
    (some (BitVec.ofNat 64 (leNat (homeBytes s2 pa 8))), s2)

def entV (e : DWord) : Bool := e.getLsbD 0
def entLeaf (e : DWord) : Bool := e.getLsbD 1
def entW (e : DWord) : Bool := e.getLsbD 4
def entX (e : DWord) : Bool := e.getLsbD 5
def entSize (e : DWord) : Nat := (bits e 6 2).toNat
def entMt (e : DWord) : Nat := (bits e 8 2).toNat
def entPa (e : DWord) : Nat := (bits e 12 40).toNat * 4096
def entKey (e : DWord) : Nat := (bits e 54 10).toNat

/-- Number of entries of the page that a leaf belongs to (R229). -/
def pageEntries (size : Nat) : Nat := if size = 1 then 16 else if size = 2 then 256 else 1

/-- The format-fault conditions of R229, less alignment. -/
def entBad (e : DWord) (level : Nat) : Bool :=
  bits e 52 2 != 0 || bits e 10 2 != 0 || bits e 2 2 != 0 || decide (2 ≤ entMt e) || decide (entSize e = 3)
    || (decide (level = 0) && !entLeaf e) || (decide (2 ≤ level) && entLeaf e)
    || (decide (entSize e = 2) && decide (level ≠ 1))

/-- A leaf frame out of line with its page size (R229): entry i of a page holds the page's frame plus i steps. -/
def frameBad (e : DWord) (level idx : Nat) : Bool :=
  let step := if level = 0 then 4096 else 0x200000
  let n := pageEntries (entSize e)
  entLeaf e && decide (entPa e % (step * n) ≠ idx % n * step)

/-- Index of an address in the level's table (R229). -/
def tableIndex (level va : Nat) : Nat := va / 2 ^ (12 + 9 * level) % 512

/-- The leaf that a valid leaf entry stands for, after the choice of R229 for a page whose entries differ. `first` is
the first entry of the page. Where the access takes its own entry, that entry alone is covered. [DESIGN CHOICE, log 21] -/
def chooseLeaf (s : State) (e first : DWord) (level idx va : Nat) : Tr Leaf × State :=
  let step := if level = 0 then 4096 else 0x200000
  let sub := if level = 0 then 0 else va / 4096 % 512 * 4096
  let n := pageEntries (entSize e)
  let gran := if level = 0 then 1 else 512
  let own (k : Nat) : Leaf := ⟨e, level, entPa e + sub, gran * k⟩
  let same := decide (entPa e = entPa first + idx % n * step) && decide (bits e 52 12 = bits first 52 12)
    && decide (bits e 0 12 = bits first 0 12)
  if n = 1 || same then (.ok (own n), s)
  else
    let s1 := { s with fresh := s.fresh + 1 }
    if Config.firstEntry s.fresh then
      if !entV first then (.flt ⟨va, 0, 1, level, false⟩, s1)
      else if entBad first level || frameBad first level 0 || entLeaf first != entLeaf e || entSize first != entSize e then
        (.flt ⟨va, 0, 4, level, false⟩, s1)
      else (.ok ⟨first, level, entPa first + idx % n * step + sub, gran * n⟩, s1)
    else (.ok (own 1), s1)

/-- Where a table entry lies: its physical address, and the key slot under which it is read. -/
structure TableAt where
  pa : Nat
  key : Nat
deriving DecidableEq, Repr

/-- What the walk of function `f` finds at one level: a result, or the next table's address. `tr` turns a table address into a
physical address (R230). A table that lies where nothing lies, or whose read gets an error response, stops the walk as a misaligned
frame does (R2, R346, R365). [DEDUCED, log 74] -/
def walkStep (tr : State → Nat → Tr TableAt × State) (f va l table : Nat) (s : State) : (Tr Leaf ⊕ Nat) × State :=
  let idx := tableIndex l va
  let stop (kind : Nat) (st : State) : (Tr Leaf ⊕ Nat) × State := (.inl (.flt ⟨va, 0, kind, l, false⟩), st)
  match tr s (table + 8 * idx) with
  | (.flt x, s1) => (.inl (.flt { x with va := va }), s1)
  | (.ok t, s1) =>
    if !populated t.pa then stop 4 s1
    else
      match tableRead s1 f t.pa t.key with
      | (none, s2) => stop 4 s2
      | (some e, s2) =>
        if !entV e then stop 1 s2
        else if entBad e l || frameBad e l idx then stop 4 s2
        else if entLeaf e then
          let n := pageEntries (entSize e)
          match tr s2 (table + 8 * (idx / n * n)) with
          | (.ok tf, s3) =>
            (match tableRead s3 f tf.pa tf.key with
             | (none, s4) => stop 4 s4
             | (some first, s4) =>
               let c := chooseLeaf s4 e first l idx va
               (.inl c.1, c.2))
          | (.flt x, s3) => (.inl (.flt { x with va := va }), s3)
        else (.inr (entPa e), s2)

/-- Walk from level `l` downward (R229). -/
def walkFrom (tr : State → Nat → Tr TableAt × State) (f va : Nat) : Nat → Nat → State → Tr Leaf × State
  | 0, table, s =>
    match walkStep tr f va 0 table s with
    | (.inl r, s1) => (r, s1)
    | (.inr _, s1) => (.flt ⟨va, 0, 4, 0, false⟩, s1)
  | l + 1, table, s =>
    match walkStep tr f va (l + 1) table s with
    | (.inl r, s1) => (r, s1)
    | (.inr next, s1) => walkFrom tr f va l next s1

/-- Table addresses of a single stage are physical, and read under the firmware's key slot (R345, R346).
[DEDUCED, log 74] -/
def physTable (s : State) (a : Nat) : Tr TableAt × State := (.ok ⟨a, 0⟩, s)

/-- The checks of R345 and R365 on the frame that a last stage names. -/
def frameOk (s : State) (f : Nat) (lf : Leaf) : Bool :=
  populated lf.frame &&
    (f == 0 ||
      ((!isHbm lf.frame || (s.part (s.fcfgOf f).part).chan.getLsbD (channelOf lf.frame))
        && decide ((s.fcfgOf f).keylo ≤ entKey lf.entry) && decide (entKey lf.entry ≤ (s.fcfgOf f).keyhi)))

/-- The last stage: stage 1 of the physical function, stage 2 of a virtual one. -/
def lastStage (s : State) (f va : Nat) : Tr Leaf × State :=
  let root := if f = 0 then (s.func 0).s1root else (s.fcfgOf f).s2root
  match walkFrom physTable f va 4 root s with
  | (.ok lf, s1) => if frameOk s1 f lf then (.ok lf, s1) else (.flt ⟨va, 0, 4, lf.level, false⟩, s1)
  | r => r

/-- Stage 2 of a guest physical address, as a table address or a final one (R230). -/
def stage2 (s : State) (f gpa : Nat) : Tr (Leaf × Nat) × State :=
  match lastStage s f gpa with
  | (.ok lf, s1) => (.ok (lf, lf.frame + gpa % 4096), s1)
  | (.flt x, s1) => (.flt { x with gpa := gpa, stage2 := true }, s1)

def guestTable (f : Nat) (s : State) (a : Nat) : Tr TableAt × State :=
  match stage2 s f a with
  | (.ok p, s1) => (.ok ⟨p.2, entKey p.1.entry⟩, s1)
  | (.flt x, s1) => (.flt x, s1)

/-- The cached form of a translation of `va` to `pa`, of which `n` granules are of one page. A page that is fitted in part is
cached granule by granule (R365). -/
def pageEntry (f va pa n key : Nat) (unc w x : Bool) : TlbEntry :=
  let v := va / 4096
  let first := pa / 4096 - v % n
  if populated (4096 * (first + n) - 1) then ⟨f, v / n * n, first, key, unc, w, x, n⟩ else ⟨f, v, pa / 4096, key, unc, w, x, 1⟩

/-- A full walk: the cached form of the page, and the level and stage at which a refused permission stops it. -/
def fullWalk (s : State) (f va : Nat) (want : Want) : Tr TlbEntry × State :=
  let deny (lf : Leaf) (st2 : Bool) (gpa : Nat) : Option XFault :=
    match want with
    | .read => none
    | .write => if entW lf.entry then none else some ⟨va, gpa, 2, lf.level, st2⟩
    | .fetch => if entX lf.entry then none else some ⟨va, gpa, 3, lf.level, st2⟩
  if f = 0 then
    match lastStage s 0 va with
    | (.ok lf, s1) =>
      match deny lf false 0 with
      | some x => (.flt x, s1)
      | none => (.ok (pageEntry 0 va lf.frame lf.pages 0 (entMt lf.entry == 1) (entW lf.entry) (entX lf.entry)), s1)
    | (.flt x, s1) => (.flt x, s1)
  else
    match walkFrom (guestTable f) f va 4 (s.func f).s1root s with
    | (.ok l1, s1) =>
      match stage2 s1 f (l1.frame + va % 4096) with
      | (.ok (l2, pa), s2) =>
        match deny l1 false 0, deny l2 true (l1.frame + va % 4096) with
        | some x, _ => (.flt x, s2)
        | none, some x => (.flt x, s2)
        | none, none =>
          (.ok (pageEntry f va pa (min l1.pages l2.pages) (entKey l2.entry) (entMt l1.entry == 1 || entMt l2.entry == 1)
            (entW l1.entry && entW l2.entry) (entX l1.entry && entX l2.entry)), s2)
      | (.flt x, s2) => (.flt { x with va := va }, s2)
    | (.flt x, s1) => (.flt x, s1)

def TlbEntry.allows (e : TlbEntry) : Want → Bool
  | .read => true
  | .write => e.w
  | .fetch => e.x

-- The TLBs (R231).

/-- The TLBs that an access of a vector core, of a Quartz core, and of a cluster's copy engine looks up, inner first (R231).
[DEDUCED, log 72] -/
def coreTlbs (core : Nat) : List Nat := [core, 320 + core / 4, 384 + core / 64]
/-- [DEDUCED, log 72] -/
def quartzTlbs (cl : Nat) : List Nat := [256 + cl, 320 + cl, 384 + cl / 16]
/-- [DEDUCED, log 72] -/
def clusterTlbs (cl : Nat) : List Nat := [320 + cl, 384 + cl / 16]

/-- Entries of a holder's TLB (R231). -/
def tlbSize (h : Nat) : Nat := if h < 320 then 64 else if h < 384 then 512 else 16384

/-- Does the page of the entry hold the address, of the function? -/
def TlbEntry.covers (e : TlbEntry) (f va : Nat) : Bool :=
  e.func == f && decide (e.vpn ≤ va / 4096) && decide (va / 4096 < e.vpn + e.pages)

/-- The translation of an address of the page. -/
def TlbEntry.trans (e : TlbEntry) (va : Nat) : Trans := ⟨e.ppn * 4096 + (va - e.vpn * 4096), e.key, e.unc⟩

/-- A holder takes a translation in, in the place of those that it overlaps, so that an address has one translation in each TLB
(R232); when it is full, the one that it took in first goes. [DESIGN CHOICE, log 71] -/
def tlbPut (s : State) (h : Nat) (e : TlbEntry) : State :=
  let others := (NatMap.get [] s.tlbs h).filter (fun x =>
    !(x.func == e.func && decide (x.vpn < e.vpn + e.pages) && decide (e.vpn < x.vpn + x.pages)))
  { s with tlbs := NatMap.set [] s.tlbs h ((e :: others).take (tlbSize h)) }

/-- Keep only some of the cached translations. -/
def keepTlbs (s : State) (keep : TlbEntry → Bool) : State :=
  let t : NatMap (List TlbEntry) := s.tlbs.foldl (fun (m : NatMap (List TlbEntry)) (p : Nat × List TlbEntry) =>
    NatMap.set [] m p.1 (p.2.filter keep)) []
  { s with tlbs := t }

/-- A holder's entry for the access. -/
def tlbHit (s : State) (f va : Nat) (want : Want) (h : Nat) : Option TlbEntry :=
  (NatMap.get [] s.tlbs h).find? (fun e => e.covers f va && e.allows want)

/-- The translation that an access gets (R228 to R232): of the first TLB that holds it, else of a walk. The TLBs before it
take it in. -/
def lookup (f va : Nat) (want : Want) : List Nat → State → Tr TlbEntry × State
  | [], s => fullWalk s f va want
  | h :: hs, s =>
    match tlbHit s f va want h with
    | some e => (.ok e, s)
    | none =>
      match lookup f va want hs s with
      | (.ok e, s1) => (.ok e, tlbPut s1 h e)
      | (.flt x, s1) => (.flt x, s1)

/-- Translate one byte address of a function (R228 to R232), through the TLBs that the access looks up. A cached entry is
used until an invalidation covers it. -/
def translate (s : State) (hs : List Nat) (f va : Nat) (want : Want) : Tr Trans × State :=
  match lookup f va want hs s with
  | (.ok e, s1) => (.ok (e.trans va), s1)
  | (.flt x, s1) => (.flt x, s1)

-- The device's own accesses (R372): relaxed writes at system scope, performed at their homes. They walk each time.

/-- A performed write to host memory over H0 stands in memory at once (R249). [DEDUCED, log 70] -/
def writeOut (s : State) (pa n : Nat) : State :=
  if isHost pa && !s.boot.h1c then
    { s with
      mem := NatMap.setRange 0 s.mem pa (homeBytes s pa n)
      hostDirty := (List.range n).foldl (fun m i => NatMap.erase m (pa + i)) s.hostDirty }
  else s

/-- Write bytes of function `f` at a translated run of addresses, sector by sector; a sector that gives an error response is not
written (R346, R355). [DEDUCED, log 64] -/
def performBytes (f key : Nat) : Nat → State → Nat → Nat → List Byte → State
  | 0, s, _, _, _ => s
  | n + 1, s, va, pa, data =>
    if data = [] then s
    else
      let k := min data.length (64 - pa % 64)
      let put : State := match homeErr s pa key with
        | (some e, s1) => reportErr s1 e f va pa key (homeOf s pa) 6 0
        | (none, s1) => writeOut (performWrite (useHome s1 f pa) pa key (data.take k) []).2 pa k
      performBytes f key n put (va + k) (pa + k) (data.drop k)

/-- One write of the device at virtual addresses of `f`, page by page; on failure the fault, with the pages before it
written. -/
def deviceWriteFrom (f : Nat) : Nat → State → Nat → List Byte → Option XFault × State
  | 0, s, _, _ => (none, s)
  | n + 1, s, va, data =>
    if data = [] then (none, s)
    else
      match translate s [] f va .write with
      | (.ok t, s1) =>
        let k := min data.length (4096 - va % 4096)
        deviceWriteFrom f n (performBytes f t.key (k / 64 + 2) s1 va t.pa (data.take k)) (va + k) (data.drop k)
      | (.flt x, s1) => (some x, s1)

/-- Every page of the range is writable. -/
def rangeWritable (f : Nat) : Nat → State → Nat → Nat → Option XFault × State
  | 0, s, _, _ => (none, s)
  | n + 1, s, va, len =>
    if len = 0 then (none, s)
    else
      match translate s [] f va .write with
      | (.ok _, s1) => rangeWritable f n s1 (va + min len (4096 - va % 4096)) (len - min len (4096 - va % 4096))
      | (.flt x, s1) => (some x, s1)

/-- A whole device write: nothing is written when a page of it has no valid writable translation (R372).
[DESIGN CHOICE, log 57] -/
def deviceWrite (s : State) (f va : Nat) (data : List Byte) : Option XFault × State :=
  match rangeWritable f (data.length / 4096 + 2) s va data.length with
  | (some x, s1) => (some x, s1)
  | (none, s1) => deviceWriteFrom f (data.length / 4096 + 2) s1 va data

/-- A coherent read by the device at virtual addresses of `f`, sector by sector; none where a page does not translate,
or a sector gives an error response (R346, R356). [DEDUCED, log 64] -/
def deviceReadFrom (f : Nat) : Nat → State → Nat → Nat → Option (List Byte) × State
  | 0, s, _, _ => (some [], s)
  | n + 1, s, va, len =>
    if len = 0 then (some [], s)
    else
      let k := min len (64 - va % 64)
      match translate s [] f va .read with
      | (.flt _, s1) => (none, s1)
      | (.ok t, s1) =>
        match homeErr s1 t.pa t.key with
        | (some e, s2) => (none, reportErr s2 e f va t.pa t.key (homeOf s2 t.pa) 4 0)
        | (none, s2) =>
          let r := homeRead (useHome s2 f t.pa) t.pa k t.key
          match deviceReadFrom f n r.2 (va + k) (len - k) with
          | (some l, s3) => (some (r.1 ++ l), s3)
          | (none, s3) => (none, s3)

/-- A coherent read of `n` bytes by the device. -/
def deviceRead (f n : Nat) (s : State) (va : Nat) : Option (List Byte) × State := deviceReadFrom f (n / 64 + 2) s va n

end Sys2Proof.Machine
end

