-- ==== Sys2Proof/Machine/ErrLog.lean ====
section
/-! DEFINITION. Error records and their logs (R361 to R364), and the fault log (R233, R338, R372). -/

namespace Sys2Proof.Machine

/-- Microseconds since package reset (R18, R361). -/
def micros (s : State) : Nat := s.clock / 1400

/-- Add 1 to error counter `n` of function `f`, saturating (R364). [DEDUCED, log 42] -/
def bumpCounter (s : State) (f n : Nat) : State :=
  s.modFunc f (fun x =>
    let v := NatMap.get 0 x.counters n
    { x with counters := NatMap.set 0 x.counters n (if v = BitVec.allOnes 64 then v else v + 1) })

/-- The counters that a record counts in (R364). -/
def countersOf (r : Report) : List Nat :=
  (if r.cls = 1 then [0] else if r.cls = 2 then [1] else if r.cls = 3 then [2] else if r.cls = 4 then [3] else []) ++
  (if r.cause = 0x05 then [4] else if r.cause = 0x0A then [5] else if r.cause = 0x0B then [6] else if r.cause = 0x0C then [9] else [])

/-- Is a ring full, as R338 defines full? -/
def Ring.full (r : Ring) : Bool := !r.en || decide ((r.tail + 1) % 2 ^ r.log2n = r.head % 2 ^ r.log2n)

/-- The 64 bytes of an error record in the log of `f` (R361). -/
def recordBytes (s : State) (f : Nat) (overflow : Bool) (r : Report) : List Byte :=
  let y := decide (r.gran = 7)
  let vaOk := r.va.isSome && !y
  let paOk := r.pa.isSome && f == 0 && !y
  let flags := (if vaOk then 1 else 0) + (if paOk then 2 else 0) + (if overflow then 4 else 0)
  leBytes 8 (if paOk then r.pa.getD 0 else 0) ++ leBytes 8 (r.va.getD 0) ++ leBytes 8 r.len ++ leBytes 2 r.func
    ++ leBytes 1 r.cls ++ leBytes 1 r.gran ++ leBytes 2 r.cause ++ leBytes 2 flags ++ leBytes 4 r.site
    ++ leBytes 4 r.aux0 ++ leBytes 8 r.aux1 ++ leBytes 8 (micros s) ++ leBytes 8 0

/-- Drop a record: LOGDROP, and the overflow flag of the next record (R361). -/
def dropRecord (s : State) (f : Nat) : State := (bumpCounter s f 8).modFunc f (fun x => { x with overflow := true })

/-- One record to the log of one function (R361, R364, R372): TAIL advances as a release at system scope. An error met in writing a
record makes none of its own. [DEDUCED, log 63] -/
def logTo (s : State) (f : Nat) (r : Report) : State :=
  let s1 := (countersOf r).foldl (fun st n => bumpCounter st f n) s
  let x := s1.func f
  if x.elog.full then dropRecord s1 f
  else
    match deviceWrite s1 f (x.elog.base + 64 * (x.elog.tail % 2 ^ x.elog.log2n)) (recordBytes s1 f x.overflow r) with
    | (some _, s2) => dropRecord { s2 with reports := s1.reports } f
    | (none, s2) => (reportRelease { s2 with reports := s1.reports }).modFunc f (fun y => { y with
        overflow := false, elog := { y.elog with tail := (y.elog.tail + 1) % 65536 } })

/-- One record to every log that receives it: the physical function's, the causing function's, and those of the functions that map
the range, each with its own address (R363). [DEDUCED, log 55] -/
def writeReport (s : State) (r : Report) : State :=
  let s1 := logTo s 0 r
  let s2 := if r.func ≠ 0 ∧ funcExists s1 r.func then logTo s1 r.func r else s1
  match r.pa with
  | some pa => (mappersOf s2 pa).foldl (fun st m =>
      if m.1 ≠ 0 ∧ m.1 ≠ r.func ∧ funcExists st m.1 then logTo st m.1 { r with va := some m.2 } else st) s2
  | none => s2

/-- Write every report of this step to the logs. [DESIGN CHOICE, log 79] -/
def flushReports (s : State) : State := s.reports.foldl writeReport { s with reports := [] }

/-- A report without a range. -/
def event0 (f cause aux0 aux1 site : Nat) : Report := ⟨6, 0, cause, none, none, 0, f, site, aux0, aux1⟩

/-- A device write with the record of R372 when it fails: AUX0 names the kind of write. -/
def deviceWriteOr (s : State) (f va kind : Nat) (data : List Byte) : Bool × State :=
  match deviceWrite s f va data with
  | (none, s1) => (true, s1)
  | (some x, s1) => (false, s1.report ⟨6, 6, 0x12, none, some va, data.length, f, 0, kind, x.kind⟩)

-- The fault log.

/-- The 32 bytes of a fault record (R233). -/
def faultBytes (r : FaultRec) (tag : Nat) : List Byte :=
  leBytes 8 r.va ++ leBytes 8 r.gpa ++ leBytes 2 r.func ++ leBytes 1 r.kind ++ leBytes 1 r.where_
    ++ leBytes 4 r.site ++ leBytes 4 tag ++ leBytes 4 r.lanes.toNat

/-- Write one waiting fault record when its log can take it: after a write into it has failed the log counts as full (R233, R338,
R372). A permission fault of an engine counts
as answered when its record is written (R130). The TAIL write is a release at system scope. [DEDUCED, log 63] -/
def writeFault (s : State) (id : Nat) : State :=
  match s.faults.find? (fun r => r.id == id) with
  | none => s
  | some r =>
    let x := s.func r.log
    if r.written || x.flogBad || x.flog.full then s
    else
      let tag := s.nextTag
      match deviceWriteOr s r.log (x.flog.base + 32 * (x.flog.tail % 2 ^ x.flog.log2n)) 3 (faultBytes r tag) with
      | (false, s1) => s1.modFunc r.log (fun y => { y with flogBad := true })
      | (true, s1) =>
        let s2 := (reportRelease s1).modFunc r.log (fun y => { y with flog := { y.flog with tail := (y.flog.tail + 1) % 65536 } })
        { s2 with
          nextTag := (tag + 1) % 2 ^ 32
          faults := if r.info then s2.faults.filter (fun q => q.id != id)
            else s2.faults.map (fun q => if q.id = id then { q with written := true, tag := tag } else q) }

/-- A new fault (R233): its record goes to the function's log, or to the physical function's for stage 2.
[DESIGN CHOICE, log 3] -/
def addFault (s : State) (f : Nat) (x : XFault) (source site : Nat) (lanes : Word) (info : Bool) (src : FaultSrc) : Nat × State :=
  let id := s.nextSeq
  let r : FaultRec :=
    { id := id, log := if x.stage2 then 0 else f, va := x.va, gpa := x.gpa, func := f, kind := x.kind,
      where_ := x.level + (if x.stage2 then 8 else 0) + 16 * source, site := site, lanes := lanes, tag := 0,
      written := false, info := info, src := src, held := none }
  (id, writeFault { s with nextSeq := id + 1, faults := s.faults ++ [r] } id)

/-- The log counts as full no more: what waits is tried again (R372). [DEDUCED, log 63] -/
def retryFaults (s : State) (log : Nat) : State :=
  let ids := (s.faults.filter (fun r => decide (r.log = log) && !r.written)).map (·.id)
  ids.foldl writeFault (s.modFunc log (fun y => { y with flogBad := false }))

end Sys2Proof.Machine
end

