-- ==== Sys2Proof/Machine/Bins.lean ====
section
/-! DEFINITION. Bins, parked sets and groups of a unit (R77, R135, R144, R193 to R198). -/

namespace Sys2Proof.Machine

/-- Insert into an ascending list without repeats. -/
def insertAsc (n : Nat) : List Nat → List Nat
  | [] => [n]
  | x :: r => if n < x then n :: x :: r else if n = x then x :: r else x :: insertAsc n r

def mergeAsc (a b : List Nat) : List Nat := b.foldl (fun l n => insertAsc n l) a

/-- Units resident on a core. -/
def unitsOnCore (s : State) (core : Nat) : List (Nat × Unit_) :=
  s.units.filterMap (fun p => p.2.bind (fun u => if u.core = core then some (p.1, u) else none))

/-- Groups of a unit, as slots of its core. -/
def unitSlots (s : State) (uid : Nat) : List Nat :=
  match s.unit? uid with
  | none => []
  | some u => (List.range 32).filter (fun sl => match s.group? u.core sl with | some g => g.uid == uid | none => false)

/-- Bins of a core that stand in its bin store (R197). -/
def storedBins (s : State) (core : Nat) : List (Nat × Bin) :=
  (unitsOnCore s core).foldl (fun l p => l ++ (p.2.bins.filter (fun b => !b.spilled)).map (fun b => (p.1, b))) []

/-- The stored bin with the latest birth clock (R197). [DEDUCED, log 49] -/
def youngestBin (s : State) (core : Nat) : Option (Nat × BinKey) :=
  (storedBins s core).foldl (fun best p =>
    match best with
    | none => some (p.2.birth, p.1, p.2.key)
    | some b => if b.1 ≤ p.2.birth then some (p.2.birth, p.1, p.2.key) else some b)
    (none : Option (Nat × Nat × BinKey)) |>.map (fun b => b.2)

/-- Change one bin of a unit. -/
def modBin (s : State) (uid : Nat) (key : BinKey) (f : Bin → Bin) : State :=
  s.modUnit uid (fun u => { u with bins := u.bins.map (fun b => if b.key = key then f b else b) })

/-- Make room in the bin store of a core: the youngest bin is spilled when all 64 are in use (R197). -/
def spillOne (s : State) (core : Nat) : State :=
  if (storedBins s core).length < 64 then s
  else
    match youngestBin s core with
    | some (uid, key) => modBin s uid key (fun b => if b.spilled then b else { b with spilled := true, place := none })
    | none => s

/-- Does the bin hold a thread of each home lane (R190, R195)? -/
def binFull (ts : List Nat) : Bool := (List.range 32).all (fun l => ts.any (fun t => t % 32 == l))

/-- Note the clock at which a bin became full. -/
def noteFull (clock : Nat) (b : Bin) : Bin :=
  if b.waiting.isNone && binFull b.threads then { b with waiting := some clock } else b

/-- A bin of the key that this step has spilled and not yet written to the area. -/
def Bin.unwritten (key : BinKey) (b : Bin) : Bool := b.key == key && b.spilled && b.place.isNone

/-- File threads into the bin of a key (R194): the bin's intervals become the hull, or are the incoming ones. A bin of the key
that this step has spilled is taken back; one in the area joins the new one when the step ends. -/
def fileThreads (s : State) (uid : Nat) (key : BinKey) (ts : List Nat) (iv : NatMap Iv) : State :=
  if ts = [] then s
  else
    match s.unit? uid with
    | none => s
    | some u =>
      let join (b : Bin) : Bin := noteFull s.clock { b with threads := mergeAsc b.threads ts, iv := ivHull b.iv iv }
      if u.bins.any (fun b => b.key == key && !b.spilled) then
        modBin s uid key (fun b => if b.spilled then b else join b)
      else if u.bins.any (Bin.unwritten key) then
        modBin (spillOne s u.core) uid key (fun b => if b.unwritten key then join { b with spilled := false } else b)
      else
        (spillOne s u.core).modUnit uid (fun u => { u with
          bins := u.bins ++ [noteFull s.clock ⟨key, mergeAsc [] ts, iv, s.clock, false, false, none, none⟩] })

/-- File at a plain program counter. -/
def filePc (s : State) (uid : Nat) (pc : Pc) (ts : List Nat) (iv : NatMap Iv) : State :=
  fileThreads s uid ⟨pc, none⟩ ts iv

/-- Release a parked set: its threads are filed behind the blocking word (R144). -/
def releaseSet (s : State) (uid : Nat) (p : Parked) : State :=
  filePc (s.modUnit uid (fun u => { u with parked := u.parked.erase p })) uid (p.pc + 8) p.threads p.iv

/-- Put a released set back on its own word (R138). -/
def refileSet (s : State) (uid : Nat) (p : Parked) : State :=
  filePc (s.modUnit uid (fun u => { u with parked := u.parked.erase p })) uid p.pc p.threads p.iv

/-- Park a set (R144). -/
def parkSet (s : State) (uid : Nat) (p : Parked) : State := s.modUnit uid (fun u => { u with parked := u.parked ++ [p] })

/-- When every thread that has not exited has arrived, the unit barrier releases (R135). [DEDUCED, log 53] -/
def barCheck (s : State) (uid : Nat) : State :=
  match s.unit? uid with
  | none => s
  | some u =>
    if u.arrived ≠ [] ∧ u.live.all (fun t => u.arrived.contains t) then
      let sets := u.parked.filter (fun p => p.on == .bar)
      (sets.foldl (fun st p => releaseSet st uid p) s).modUnit uid (fun v => { v with arrived := [] })
    else s

/-- A byte barrier of a unit, in its core's X (R136): EXPECT, COUNT, PHASE. -/
def xWord (s : State) (core a : Nat) : Nat := leNat (NatMap.getRange 0 (s.core core).x a 4)

/-- Is a barrier of the unit partly arrived (R296): the unit barrier, or a byte barrier of its X? -/
def partlyArrived (s : State) (u : Unit_) : Bool :=
  let live := u.live
  let there := live.filter (fun t => u.arrived.contains t)
  (there != [] && there.length != live.length)
    || (s.core u.core).barriers.any (fun a =>
      decide (u.xoff ≤ a) && decide (a < u.xoff + u.xbytes) && xWord s u.core a != 0
        && (xWord s u.core (a + 4) != 0 || u.parked.any (fun q => match q.on with
          | .bwait off _ => decide (u.xoff + off = a)
          | _ => false)))

/-- The 4-byte words with an error in them that a write of [a, a + n) does not overwrite whole (R355). -/
def keepBad (bad : List Nat) (a n : Nat) : List Nat := bad.filter (fun w => !withinRange (4 * w) 4 a n)

/-- Does a word with an error in it lie in [a, a + n) (R355)? -/
def badIn (bad : List Nat) (a n : Nat) : Bool := bad.any (fun w => overlaps (4 * w) 4 a n)

def setXBytes (s : State) (core a : Nat) (data : List Byte) : State :=
  s.modCore core (fun c => { c with x := NatMap.setRange 0 c.x a data, badX := keepBad c.badX a data.length })
def setXWord (s : State) (core a v : Nat) : State := setXBytes s core a (leBytes 4 v)

/-- Release the threads that await `phase` on the barrier at X address `a` of the core (R136). -/
def releaseBarrier (s : State) (core a : Nat) (phase : Word) : State :=
  (unitsOnCore s core).foldl (fun st p =>
    (p.2.parked.filter (fun q =>
      match q.on with
      | .bwait off ph => decide (p.2.xoff + off = a) && ph == phase
      | _ => false)).foldl (fun st2 q => releaseSet st2 p.1 q) st) s

/-- The rule of R136 after an update of the object at `a`. -/
def barrierRule (s : State) (core a : Nat) : State :=
  let e := xWord s core a
  let c := xWord s core (a + 4)
  let ph := xWord s core (a + 8)
  if e ≠ 0 ∧ e ≤ c then
    let s1 := setXWord (setXWord (setXWord s core (a + 4) (c - e)) core a 0) core (a + 8) ((ph + 1) % 2 ^ 32)
    releaseBarrier s1 core a (BitVec.ofNat 32 ph)
  else s

/-- From here on the 16 bytes at `a` are a byte barrier: a barrier word or a credit names them (R136).
[DESIGN CHOICE, log 75] -/
def nameBarrier (s : State) (core a : Nat) : State :=
  s.modCore core (fun c => { c with barriers := insertAsc a c.barriers })

/-- Write X bytes, then apply the rule of R136 to every byte barrier that the write overlaps. -/
def writeX (s : State) (core a : Nat) (data : List Byte) : State :=
  let s1 := setXBytes s core a data
  (((s1.core core).barriers).filter (fun o => overlaps o 16 a data.length)).foldl (fun st o => barrierRule st core o) s1

/-- Credit `n` bytes to the barrier at `a`; true when COUNT saturated (R136). -/
def creditBarrier (s : State) (core a n : Nat) : Bool × State :=
  let c := xWord s core (a + 4) + n
  let sat := decide (2 ^ 32 ≤ c)
  (sat, barrierRule (setXWord (nameBarrier s core a) core (a + 4) (if sat then 2 ^ 32 - 1 else c)) core a)

end Sys2Proof.Machine
end

