-- ==== Sys2Proof/Machine/Seals.lean ====
section
/-! DEFINITION. Seal tables of X, W and Y (R132 to R134, R168, R225), and the life of X reservations (R206). -/

namespace Sys2Proof.Machine

/-- The tables: X of a core, W or Y of a cluster. -/
inductive SealTab where
  | x (core : Nat)
  | w (cluster : Nat)
  | y (cluster : Nat)
deriving DecidableEq, Repr

def sealsOf (s : State) : SealTab → List SealEntry
  | .x c => (s.core c).seals
  | .w c => (s.cluster c).wSeals
  | .y c => (s.cluster c).ySeals

def setSeals (s : State) (t : SealTab) (l : List SealEntry) : State :=
  match t with
  | .x c => s.modCore c (fun x => { x with seals := l })
  | .w c => s.modCluster c (fun x => { x with wSeals := l })
  | .y c => s.modCluster c (fun x => { x with ySeals := l })

/-- Entries that share a byte with a range. -/
def sealsIn (s : State) (t : SealTab) (a len : Nat) : List SealEntry :=
  (sealsOf s t).filter (fun e => overlaps e.start e.len a len)

/-- Does an entry in one of the states touch the range? -/
def sealHit (s : State) (t : SealTab) (a len : Nat) (p : SealState → Bool) : Bool :=
  (sealsIn s t a len).any (fun e => p e.state)

def isSealed : SealState → Bool
  | .sealed => true
  | _ => false
def isReclaiming : SealState → Bool
  | .reclaiming => true
  | _ => false
def isFilling : SealState → Bool
  | .filling => true
  | _ => false
def anySeal : SealState → Bool := fun _ => true

/-- Is every byte of [a, a + len) in sealed entries? The fuel is the table's length. -/
def coveredFrom (l : List SealEntry) : Nat → Nat → Nat → Bool
  | _, _, 0 => true
  | 0, _, _ => false
  | n + 1, a, len =>
    match l.find? (fun e => isSealed e.state && decide (e.start ≤ a) && decide (a < e.start + e.len)) with
    | none => false
    | some e => coveredFrom l n (e.start + e.len) (len - (e.start + e.len - a))

def sealedRange (s : State) (t : SealTab) (a len : Nat) : Bool := coveredFrom (sealsOf s t) 33 a len

/-- Add an entry. -/
def addSeal (s : State) (t : SealTab) (e : SealEntry) : State := setSeals s t (sealsOf s t ++ [e])

/-- Is the table full (R133)? -/
def sealFull (s : State) (t : SealTab) : Bool := decide (32 ≤ (sealsOf s t).length)

/-- Take or drop references on the entries of a range (R132). -/
def modRefs (s : State) (t : SealTab) (a len : Nat) (f : Nat → Nat) : State :=
  setSeals s t ((sealsOf s t).map (fun e => if overlaps e.start e.len a len then { e with refs := f e.refs } else e))

/-- Does a unit of the reservation's cohort stand on some core? -/
def cohortPresent (s : State) (r : XRes) : Bool :=
  s.units.any (fun p => match p.2 with
    | some u => u.func == r.func && u.launch == r.launch && u.cohort == r.cohort
    | none => false)

/-- The byte barriers that still lie in a reservation (R136). -/
def keptBarriers (xres : List XRes) (l : List Nat) : List Nat :=
  l.filter (fun b => xres.any (fun r => withinRange b 16 r.off r.len))

/-- The queues of a core whose X is given up are kept in the queue table from then on, header and entries: they are served until they
close (R138, R150), and no path reaches their X (R223). `room` gives the bytes of a queue that goes. [DEDUCED, log 29] -/
def keepQueues (s : State) (core : Nat) (room : QBind → Option Nat) : State :=
  let goes (b : QBind) : Option Nat := if b.core = core ∧ b.kept = none then room b else none
  if (s.cluster (core / 4)).queues.all (fun b => (goes b).isNone) then s
  else s.modCluster (core / 4) (fun c => { c with queues := c.queues.map (fun b => match goes b with
    | some n => { b with kept := some (NatMap.getRange 0 (s.core core).x b.off (min 2064 n)) }
    | none => b) })

/-- Does a reservation go: its cohort has gone, and its sealed entries (R193, R206)? -/
def XRes.goes (s : State) (core : Nat) (r : XRes) : Bool :=
  !cohortPresent s r && !(s.core core).seals.any (fun e => overlaps e.start e.len r.off r.len)

/-- Free the reservations of a core whose cohort has gone and whose sealed entries have gone (R193, R206). -/
def sweepX (s : State) (core : Nat) : State :=
  let s1 := keepQueues s core (fun b => ((s.core core).xres.find? (fun r => r.goes s core && r.func == b.func
    && r.launch == b.launch && decide (r.off ≤ b.off) && decide (b.off < r.off + r.len))).map (fun r => r.off + r.len - b.off))
  s1.modCore core (fun c =>
    let l := c.xres.filter (fun r => !r.goes s core)
    { c with xres := l, barriers := keptBarriers l c.barriers })

/-- Is the entry reclaiming, with no reference left: is it removed (R132, R134)? -/
def SealEntry.gone (e : SealEntry) : Bool := isReclaiming e.state && e.refs == 0

/-- The entries of a table that are to be removed go; what they kept of X is freed (R132, R206). -/
def sweepSeals (s : State) (t : SealTab) : State :=
  let s1 := setSeals s t ((sealsOf s t).filter (fun e => !e.gone))
  match t with
  | .x core => sweepX s1 core
  | _ => s1

/-- Drop one reference on the entries of a range (R132). -/
def dropRefs (s : State) (t : SealTab) (a len : Nat) : State := modRefs s t a len (fun n => n - 1)

/-- The sealed X entries of a unit are reclaimed when it exits, those that MQNT sealed among them (R134, R164, R193). -/
def reclaimUnit (s : State) (core xoff xbytes : Nat) : State :=
  sweepSeals (setSeals s (.x core) ((sealsOf s (.x core)).map (fun e =>
    if withinRange e.start e.len xoff xbytes ∧ isSealed e.state then { e with state := .reclaiming } else e))) (.x core)

end Sys2Proof.Machine
end

