-- ==== Sys2Proof/Machine/Work.lean ====
section
/-! DEFINITION. Work objects: handles, slots, completion, cancellation and DONE (R181, R183 to R185, R305, R307, R311,
R312, R315 to R317). -/

namespace Sys2Proof.Machine

def levelCode : Level → Nat
  | .launch => 1
  | .graph => 2
  | .phase => 3
  | .job => 4

def tableLen : Level → Nat
  | .launch => 4096
  | .graph => 1024
  | .phase => 256
  | .job => 64

/-- A work handle (R181). -/
def handleOf (lv : Level) (gen idx : Nat) : DWord := BitVec.ofNat 64 (levelCode lv * 2 ^ 60 + gen % 2 ^ 28 * 2 ^ 32 + idx)

def levelOf (h : DWord) : Option Level :=
  match (bits h 60 4).toNat with
  | 1 => some .launch
  | 2 => some .graph
  | 3 => some .phase
  | 4 => some .job
  | _ => none

def genOf (h : DWord) : Nat := (bits h 32 28).toNat
def indexOf (h : DWord) : Nat := (bits h 0 32).toNat

/-- The object in a slot. -/
def objOf (s : State) (f : Nat) (lv : Level) (i : Nat) : Option Obj :=
  let x := s.func f
  match lv with
  | .launch => (NatMap.get none x.launches i).map (·.obj)
  | .graph => (NatMap.get none x.graphs i).map (·.obj)
  | .phase => (NatMap.get none x.phases i).map (·.obj)
  | .job => NatMap.get none x.jobs i

def modObj (s : State) (f : Nat) (lv : Level) (i : Nat) (g : Obj → Obj) : State :=
  s.modFunc f (fun x =>
    match lv with
    | .launch => match NatMap.get none x.launches i with
      | some l => { x with launches := NatMap.set none x.launches i (some { l with obj := g l.obj }) }
      | none => x
    | .graph => match NatMap.get none x.graphs i with
      | some l => { x with graphs := NatMap.set none x.graphs i (some { l with obj := g l.obj }) }
      | none => x
    | .phase => match NatMap.get none x.phases i with
      | some l => { x with phases := NatMap.set none x.phases i (some { l with obj := g l.obj }) }
      | none => x
    | .job => match NatMap.get none x.jobs i with
      | some l => { x with jobs := NatMap.set none x.jobs i (some (g l)) }
      | none => x)

def modLaunch (s : State) (f i : Nat) (g : LaunchSlot → LaunchSlot) : State :=
  s.modFunc f (fun x => match NatMap.get none x.launches i with
    | some l => { x with launches := NatMap.set none x.launches i (some (g l)) }
    | none => x)

def Obj.ended (o : Obj) : Bool :=
  match o.st with
  | .complete | .cancelled => true
  | _ => false

/-- How a handle is found (R181). -/
inductive Found where
  | invalid
  | retired (cancelled : Bool)
  | live (lv : Level) (i : Nat) (o : Obj)
deriving DecidableEq, Repr

/-- [DEDUCED, log 43] -/
def lookupHandle (s : State) (f : Nat) (h : DWord) : Found :=
  match levelOf h with
  | none => .invalid
  | some lv =>
    if tableLen lv ≤ indexOf h then .invalid
    else
      match objOf s f lv (indexOf h) with
      | none => if genOf h = 0 then .retired false else .invalid
      | some o =>
        if o.gen < genOf h then .invalid
        else if genOf h = 0 then .retired false
        else if genOf h < o.gen then .retired (o.past.getD (genOf h - 1) false)
        else .live lv (indexOf h) o

/-- Write STATUS of a command entry; with `done` it is the report of R249, released before it and with it, and IRQ signals the interrupt (R305). -/
def writeStatus (s : State) (f entry : Nat) (irq done : Bool) (code detail : Nat) : State :=
  let v := code + 0x100 + (if done then 0x200 else 0) + detail * 65536
  let s1 := (deviceWriteOr (if done then reportRelease s else s) f (entry + 4) 1 (leBytes 4 v)).2
  let s2 := if done then reportRelease s1 else s1
  if done && irq then { s2 with irqs := s2.irqs ++ [f] } else s2

def Obj.isCancelled (o : Obj) : Bool := o.st == .cancelled

/-- Commands that wait for the end of an object get their DONE (R304, R305). -/
def finishCmds (s : State) (f : Nat) (lv : Level) (i : Nat) (cancelled : Bool) : State :=
  let isOn (c : PendCmd) : Bool :=
    levelOf c.handle == some lv && indexOf c.handle == i && (c.opc == 5 || c.opc == 6)
      && (match objOf s f lv i with | some o => genOf c.handle == o.gen | none => false)
  let cs := (s.func f).cmds.filter isOn
  let s1 := s.modFunc f (fun x => { x with cmds := x.cmds.filter (fun c => !isOn c) })
  cs.foldl (fun st c => writeStatus st f c.entry c.irq true (if cancelled then 6 else 0) 0) s1

/-- Does the wait of a CNTW hold (R183)? A retired object continues at once (R181). -/
def cntwHolds (s : State) (f : Nat) (h : DWord) (n : Nat) (done : Bool) : Bool :=
  match lookupHandle s f h with
  | .invalid => true
  | .retired _ => true
  | .live _ _ o => o.ended || (!done && decide (n ≤ o.count))

/-- Release every CNTW of the function whose wait holds (R183); its threads acquire at package scope (R243, R244). -/
def releaseCntw (s : State) (f : Nat) : State :=
  let isReady (p : Parked) : Bool :=
    match p.on with
    | .cntw h n d => cntwHolds s f h n d
    | _ => false
  let s1 := s.units.foldl (fun st p =>
    match p.2 with
    | some u =>
      if u.func = f then
        (u.parked.filter isReady).foldl (fun st2 q => releaseSet (acquirePackage st2 u.core) p.1 q) st
      else st
    | none => st) s
  s1.ctxs.foldl (fun st p =>
    match p.2 with
    | some c =>
      match c.park with
      | some q =>
        if c.func = f ∧ isReady q then
          st.modCtx (p.1 / 8) (p.1 % 8) (fun x => { x with park := none, front := { x.front with pc := q.pc + 8 } })
        else st
      | none => st
    | none => st) s1

/-- The level above. -/
def levelAbove : Level → Option Level
  | .launch => some .graph
  | .graph => some .phase
  | .phase => some .job
  | .job => none

/-- A child has ended as cancelled: its holder will not complete (R315). -/
def loseChild (s : State) (f : Nat) (lv : Level) (o : Obj) : State :=
  match levelAbove lv with
  | none => s
  | some up => modObj s f up o.parent (fun p => if p.gen = o.parentGen then { p with lost := true } else p)

/-- An object ends: its state, its DONE write, the commands on it, and the waits that it ends. [DEDUCED, log 43] -/
def endObj (s : State) (f : Nat) (lv : Level) (i : Nat) (cancelled : Bool) : State :=
  match objOf s f lv i with
  | none => s
  | some o =>
    let sl := if cancelled then loseChild s f lv o else s
    let s0 := modObj sl f lv i (fun o => { o with st := if cancelled then .cancelled else .complete, entry := none })
    let s1 := s0.modFunc f (fun x => { x with idleSince := s.clock })
    let s2 := match o.entry with
      | some e => writeStatus s1 f e o.irq true (if cancelled then 6 else 0) 0
      | none => s1
    releaseCntw (finishCmds s2 f lv i cancelled) f

/-- Count a completed child in the parent's counter (R183, R315). -/
def countChild (s : State) (f : Nat) (lv : Level) (i : Nat) : State :=
  releaseCntw (modObj s f lv i (fun o => { o with count := o.count + 1 })) f

-- Children.

def launchesOf (s : State) (f g : Nat) : List Nat :=
  match NatMap.get none (s.func f).graphs g with
  | some x => x.nodes
  | none => []

/-- Is the object a child of the present object of slot `p`? -/
def Obj.childOf (o : Obj) (p : Nat) (holder : Option Obj) : Bool :=
  o.parent == p && (match holder with
    | some q => q.gen == o.parentGen
    | none => false)

/-- Graphs of a phase, phases of a job, in their present generation. -/
def graphsOfPhase (s : State) (f p : Nat) : List Nat :=
  (s.func f).graphs.filterMap (fun x => x.2.bind (fun g => if g.obj.childOf p (objOf s f .phase p) then some x.1 else none))
def phasesOfJob (s : State) (f j : Nat) : List Nat :=
  (s.func f).phases.filterMap (fun x => x.2.bind (fun g => if g.obj.childOf j (objOf s f .job j) then some x.1 else none))

/-- The objects of one level down. -/
def childrenOf (s : State) (f : Nat) (lv : Level) (i : Nat) : List (Level × Nat) :=
  match lv with
  | .launch => []
  | .graph => (launchesOf s f i).map (fun n => (.launch, n))
  | .phase => (graphsOfPhase s f i).map (fun n => (.graph, n))
  | .job => (phasesOfJob s f i).map (fun n => (.phase, n))

/-- An object and everything below it; the depth of the work levels bounds the fuel (R24). -/
def subtree (s : State) (f : Nat) : Nat → Level → Nat → List (Level × Nat)
  | 0, lv, i => [(lv, i)]
  | n + 1, lv, i => (lv, i) :: (childrenOf s f lv i).foldl (fun l c => l ++ subtree s f n c.1 c.2) []

/-- Units of a launch that stand on cores. -/
def unitsOfLaunch (s : State) (f l : Nat) : List (Nat × Unit_) :=
  s.units.filterMap (fun p => p.2.bind (fun u => if u.func = f ∧ u.launch = l then some (p.1, u) else none))

def ctxsOfLaunch (s : State) (f l : Nat) : List (Nat × Ctx) :=
  s.ctxs.filterMap (fun p => p.2.bind (fun c => if c.func = f ∧ c.launch = l ∧ !c.ended then some (p.1, c) else none))

/-- Units of a launch (R190). -/
def LaunchRec.units (r : LaunchRec) : Nat := r.gridx * r.gridy * r.gridz

/-- Have every unit and context of a launch ended: is its completion all that is left (R210)? A cancellation that comes after that has
come after the completion (R316). -/
def launchFinished (s : State) (f idx : Nat) (l : LaunchSlot) : Bool :=
  l.unitsDone == l.rcd.units && ctxsOfLaunch s f idx == []
    && !(s.func f).savedCtxs.any (fun c => c.st.launch == idx && !c.st.ended)

/-- Cancellation reaches one object (R184, R316): no child starts, and running units stop at their next run boundary. -/
def markCancel (s : State) (f : Nat) (x : Level × Nat) : State :=
  match objOf s f x.1 x.2 with
  | none => s
  | some o =>
    if o.ended || o.cancelAt.isSome || (x.1 == .launch && (launchOf s f x.2).any (launchFinished s f x.2)) then s
    else
      let s1 := modObj s f x.1 x.2 (fun o => { o with cancelAt := some s.clock, closed := true })
      match x.1 with
      | .launch => (unitsOfLaunch s1 f x.2).foldl (fun st p => st.modUnit p.1 (fun u => { u with stopping := true })) s1
      | _ => s1

/-- Cancel an object with everything it contains. [DEDUCED, log 43] -/
def cancelObj (s : State) (f : Nat) (lv : Level) (i : Nat) : State :=
  (subtree s f 3 lv i).foldl (fun st x => markCancel st f x) s

/-- A CNCL or a CANCEL names an object: it is cancelled, and the time of R331 runs. -/
def requestCancel (s : State) (f : Nat) (lv : Level) (i : Nat) : State :=
  cancelObj (modObj s f lv i (fun o => { o with asked := some (o.asked.getD s.clock) })) f lv i

/-- How a node that an edge leaves from stands (R311, R316); a retired one ended as its slot remembers. -/
def nodeState (s : State) (f : Nat) (n : Nat × Nat) : ObjState :=
  match objOf s f .launch n.1 with
  | none => .complete
  | some o => if o.gen = n.2 then o.st else if o.past.getD (n.2 - 1) false then .cancelled else .complete

def edgesMet (s : State) (f : Nat) (l : LaunchSlot) : Bool := l.preds.all (fun p => nodeState s f p == .complete)
def edgeCancelled (s : State) (f : Nat) (l : LaunchSlot) : Bool := l.preds.any (fun p => nodeState s f p == .cancelled)

-- Slots (R307).

/-- May the slot take a new object? -/
def Obj.reusable (o : Obj) : Bool := o.ended && o.entry.isNone && decide (o.gen < 2 ^ 28 - 1)

def slotFree (s : State) (f : Nat) (lv : Level) (i : Nat) : Bool :=
  match lv with
  | .launch =>
    match NatMap.get none (s.func f).launches i with
    | none => true
    | some l => l.obj.reusable &&
      (match objOf s f .graph l.obj.parent with
       | some g => g.gen != l.obj.parentGen
       | none => true)
  | _ => match objOf s f lv i with
    | none => true
    | some o => o.reusable

def freeSlots (s : State) (f : Nat) (lv : Level) : List Nat := (List.range (tableLen lv)).filter (slotFree s f lv)

/-- The lowest free slot. -/
def firstFree (s : State) (f : Nat) (lv : Level) : Option Nat := (List.range (tableLen lv)).find? (slotFree s f lv)

/-- Generation of the object that holds a new object of a level. -/
def holderGen (s : State) (f : Nat) (lv : Level) (parent : Nat) : Nat :=
  match levelAbove lv with
  | none => 0
  | some up => match objOf s f up parent with
    | some o => o.gen
    | none => 0

/-- A new object for a slot: generation 1, or one above that of the slot's last object (R307). [DEDUCED, log 43] -/
def newObj (s : State) (f : Nat) (lv : Level) (i parent : Nat) (entry : Option Nat) (irq : Bool) : Obj :=
  let old := objOf s f lv i
  { gen := (old.map (·.gen)).getD 0 + 1, st := .pending, count := 0, closed := false, cancelAt := none, deadline := 0,
    dlStart := none, dlCancel := false, expired := false, events := 0, parent := parent,
    parentGen := holderGen s f lv parent, entry := entry, irq := irq,
    held := match levelAbove lv with
      | some up => (match objOf s f up parent with
        | some q => q.held
        | none => false)
      | none => false
    past := (old.map (fun o => o.past ++ [o.isCancelled])).getD [], lost := false, asked := none }

-- Deadlines (R185, R317).

/-- The clock at which the deadline counter expires. -/
def Obj.expiry (o : Obj) : Option Nat :=
  if o.deadline = 0 then none else o.dlStart.map (fun c => c + 1400 * o.deadline)

/-- DLREAD (R185). -/
def dlRem (clock : Nat) (o : Obj) : Nat :=
  if o.deadline = 0 ∨ o.expired then 0
  else
    match o.expiry with
    | none => min o.deadline (2 ^ 32 - 1)
    | some e => min (ceilDiv (e - clock) 1400) (2 ^ 32 - 1)

/-- [DEDUCED, log 43] -/
def stCode : ObjState → Nat
  | .pending => 0
  | .running => 1
  | .complete => 2
  | .cancelled => 3

-- Freeing units (R193, R206).

/-- Take a unit off its core: groups, bins and registers go, its seals are reclaimed, its X is freed when it may be. -/
def freeUnit (s : State) (uid : Nat) : State :=
  match s.unit? uid with
  | none => s
  | some u =>
    let slots := unitSlots s uid
    let s0 := { s with faults := s.faults.filter (fun r => match r.src with
      | .agent (.group k sl) _ => !(k == u.core && slots.contains sl)
      | .op id => !s.engineOps.any (fun o => o.id == id && o.uid == uid)
      | _ => true) }
    let s1 := slots.foldl (fun st sl => st.setGroup u.core sl none) s0
    let s2 := reclaimUnit (s1.setUnit uid none) u.core u.xoff u.xbytes
    (List.range 4).foldl (fun st i => sweepX st (u.core / 4 * 4 + i)) s2

/-- Have every unit of the launch on the cluster exited all its threads (R150)? A saved unit is asked too. -/
def clusterUnitsExited (s : State) (f l cl : Nat) : Bool :=
  (unitsOfLaunch s f l).all (fun p => decide (clusterOfCore p.2.core ≠ cl) || p.2.live == [])
    && (s.func f).saved.all (fun i => decide (i.launch ≠ l) || decide (clusterOfCore i.core ≠ cl) || i.rest.live == [])

/-- Address and fields of a queue (R138). -/
def queueOf (s : State) (f l cl q : Nat) : Option QBind :=
  (s.cluster cl).queues.find? (fun b => b.func == f && b.launch == l && b.q == q)

/-- Bytes of a queue object. -/
def QBind.bytes (s : State) (b : QBind) (at_ n : Nat) : List Byte :=
  match b.kept with
  | none => NatMap.getRange 0 (s.core b.core).x (b.off + at_) n
  | some l => (l.drop at_).take n

def qHead (s : State) (b : QBind) : Nat := leNat (b.bytes s 0 4)
def qTail (s : State) (b : QBind) : Nat := leNat (b.bytes s 4 4)
def qAllow (s : State) (b : QBind) : Nat := leNat (b.bytes s 8 4)
def qCap (s : State) (b : QBind) : Nat := leNat (b.bytes s 12 4)

/-- Close the launch's empty queues on a cluster once its units there have exited (R150). -/
def closeQueues (s : State) (f l cl : Nat) : State :=
  if clusterUnitsExited s f l cl then
    s.modCluster cl (fun c => { c with queues := c.queues.map (fun b =>
      if b.func = f ∧ b.launch = l ∧ qHead s b = qTail s b then { b with closed := true } else b) })
  else s

end Sys2Proof.Machine
end

