-- ==== Sys2Proof/Machine/Doorbell.lean ====
section
/-! DEFINITION. The command queue: its ring, the acceptance of an entry and the answer to one (R301 to R306). -/

namespace Sys2Proof.Machine

/-- A little-endian field of a record. -/
def fld (b : List Byte) (at_ n : Nat) : Nat := leNat ((b.drop at_).take n)

/-- Are the bytes of a range 0? -/
def zeros (b : List Byte) (at_ n : Nat) : Bool := ((b.drop at_).take n).all (fun x => x == 0)

-- The queue (R301, R302).

def queueLen (x : Func) : Nat := 2 ^ x.cqlog2n

/-- Entries written and not yet accepted (R302). -/
def pendingEntries (x : Func) : Nat :=
  if x.drained then 0 else (x.cqtail % queueLen x + queueLen x - x.cqhead % queueLen x) % queueLen x

/-- Address of the entry at HEAD (R301). -/
def headEntry (x : Func) : Nat := x.cqbase + 64 * (x.cqhead % queueLen x)

/-- A command that holds acceptance: WAIT until its object has ended, CTXSW until it is done (R304, R336). -/
def queueBlocked (x : Func) : Bool := x.cmds.any (fun c => c.opc == 6 || c.opc == 8)

/-- May the function's next entry be accepted? One that the device has begun to read is accepted whatever TAIL and EN become
(R301, R302). [DESIGN CHOICE, log 44] -/
def accepts (s : State) (f : Nat) : Bool :=
  let x := s.func f
  funcExists s f && !x.torn && !queueBlocked x && (x.begun.isSome || (x.cqen && pendingEntries x != 0)) && (match x.wake with
    | .awake => true
    | _ => false)

/-- The entry at HEAD, as it stood when the device began to read it or as it stands. -/
def readHead (s : State) (f : Nat) : Option (Nat × List Byte) × State :=
  match (s.func f).begun with
  | some p => (some p, s)
  | none =>
    let e := headEntry (s.func f)
    match deviceRead f 64 s e with
    | (some b, s1) => (some (e, b), s1)
    | (none, s1) => (none, s1)

def advanceHead (s : State) (f : Nat) : State :=
  s.modFunc f (fun x => { x with cqhead := (x.cqhead + 1) % 65536, begun := none, idleSince := s.clock })

/-- HANDLE of an entry is written (R305). -/
def writeHandle (s : State) (f entry : Nat) (h : DWord) : State := (deviceWriteOr s f (entry + 8) 1 (leBytes 8 h.toNat)).2

/-- Acceptance: HANDLE, then STATUS with ACC; HEAD advances (R305, R306). -/
def acceptCmd (s : State) (f entry : Nat) (h : DWord) : State :=
  advanceHead (writeStatus (writeHandle s f entry h) f entry false false 0 0) f

/-- ACC and DONE together (R305). -/
def answerCmd (s : State) (f entry : Nat) (irq : Bool) (code detail : Nat) : State :=
  advanceHead (writeStatus (writeHandle s f entry 0) f entry irq true code detail) f

def badCommand : Nat := 1
def badHandle : Nat := 2
def badLaunch : Nat := 3
def badGraph : Nat := 4
def noSpace : Nat := 5

/-- Bits of ARG0 to ARG2 that are MBZ, for each opcode (R304, R334). -/
def argMbz (opc : Nat) : List (BitVec 64) :=
  let all : BitVec 64 := BitVec.allOnes 64
  match opc with
  | 2 => [0, all <<< 35, all]
  | 3 => [0, 0, all]
  | 4 | 5 | 6 => [0, all, all]
  | 7 => [0, 0, ~~~0x0000FFFF00000001]
  | 8 => [0, ~~~1, all]
  | _ => [all, all, all]

def argOf (b : List Byte) (n : Nat) : DWord := BitVec.ofNat 64 (fld b (16 + 8 * n) 8)

/-- The form of an entry (R303, R304): an assigned opcode, and every MBZ field 0. -/
def entryOk (b : List Byte) : Bool :=
  let opc := fld b 0 1
  decide (1 ≤ opc) && decide (opc ≤ 8) && decide (fld b 1 1 < 2) && zeros b 2 2 && zeros b 40 24
    && ((argMbz opc).zipIdx).all (fun p => p.1 &&& argOf b p.2 == 0)

/-- Accept the unassigned opcodes that stand at HEAD: each is answered BAD_COMMAND. [DESIGN CHOICE, log 44] -/
def acceptUnassigned (f : Nat) : Nat → State → State
  | 0, s => s
  | n + 1, s =>
    if accepts s f then
      match readHead s f with
      | (some (e, b), s1) =>
        if 1 ≤ fld b 0 1 ∧ fld b 0 1 ≤ 8 then s
        else acceptUnassigned f n (answerCmd s1 f e (fld b 1 1 % 2 == 1) badCommand 0)
      | (none, _) => s
    else s

-- CTXSW in progress (R334, R336).

/-- The launches under the object of a handle. -/
def launchesUnder (s : State) (f : Nat) (h : DWord) : List Nat :=
  match lookupHandle s f h with
  | .live lv i _ => (subtree s f 3 lv i).filterMap (fun x => match x.1 with
    | .launch => some x.2
    | _ => none)
  | _ => []

/-- Is a CTXSW done (R334)? SAVE: no unit of the object stands on a core, and none that a slice end saved waits for its restore.
RESUME: none is held. The contexts of the object are saved and restored beside them. -/
def switchDone (s : State) (f : Nat) (c : PendCmd) : Bool :=
  let ls := launchesUnder s f c.handle
  let want : Bool := c.action == 0
  (!want || ls.all (fun l => unitsOfLaunch s f l == []))
    && (s.func f).saved.all (fun i => !ls.contains i.launch || i.bySwitch == want)

/-- A CTXSW that is done gets its DONE, and HEAD passes it (R336). -/
def settleSwitch (s : State) (f : Nat) : State :=
  match (s.func f).cmds.find? (fun c => c.opc == 8) with
  | none => s
  | some c =>
    if switchDone s f c then
      advanceHead (writeStatus (s.modFunc f (fun x => { x with cmds := x.cmds.filter (fun d => d.opc != 8) }))
        f c.entry c.irq true 0 0) f
    else s

/-- After an event, a CTXSW that it completes is answered, and unassigned opcodes at HEAD are. [DESIGN CHOICE, log 44] -/
def acceptRest (s : State) (f : Nat) : State :=
  let s1 := settleSwitch s f
  acceptUnassigned f (pendingEntries (s1.func f)) s1

end Sys2Proof.Machine
end

