-- ==== Sys2Proof/Machine/Access.lean ====
section
/-! DEFINITION. How agents reach memory: requests on their way to homes, orders and scopes (R241 to R247), reads by
threads and engines, error responses (R294, R346, R355), and the placement advisory counts (R220). -/

namespace Sys2Proof.Machine

-- Advisory counts (R219, R220).

/-- Add one to CNTd of a frame's entry, saturating. -/
def bumpAdvisory (s : State) (d frame : Nat) : State :=
  let pa := frame * 2097152
  s.modDie (pa / hbmBytes) (fun x =>
    let n := pa % hbmBytes / 2097152
    let e := (NatMap.get 0 x.advisory n).toNat
    let k := e / 2 ^ (32 * d) % 2 ^ 32
    if k = 2 ^ 32 - 1 then x
    else { x with advisory := NatMap.set 0 x.advisory n (BitVec.ofNat 128 (e + 2 ^ (32 * d))) })

/-- Count every HBM4E frame that holds one of the addresses, once. -/
def countFrames (s : State) (d : Nat) (pas : List Nat) : State :=
  (((pas.filter isHbm).map (· / 2097152)).eraseDups).foldl (fun st fr => bumpAdvisory st d fr) s

-- Requests toward homes.

/-- Do two requests of one sender go to one home slice (R235, R242)? -/
def sameSlice (s : State) (a b : Nat) : Bool := homeOf s a == homeOf s b && sliceOf a == sliceOf b

/-- The new value of a read-modify-write of R119 and R122: 0 add, 1 and, 2 or, 3 xor, 4 min, 5 max, 6 exch, 7 incw,
8 decw, 9 addb. `b` is the bound of addb. -/
def atomNew (op : Nat) (sz : BitVec 3) (old v b : DWord) : DWord :=
  let w : Nat := if sz = 1 ∨ sz = 3 then 64 else 32
  let un := sz == 2 || sz == 3
  let o := (old.setWidth w).toNat
  let x := (v.setWidth w).toNat
  let y := (b.setWidth w).toNat
  let cut (n : Nat) : DWord := ((BitVec.ofNat w n).setWidth 64)
  let less : Bool := if un then decide (x < o) else decide ((v.setWidth w).toInt < (old.setWidth w).toInt)
  match op with
  | 0 => cut (o + x)
  | 1 => ((old &&& v).setWidth w).setWidth 64
  | 2 => ((old ||| v).setWidth w).setWidth 64
  | 3 => ((old ^^^ v).setWidth w).setWidth 64
  | 4 => if less then cut x else cut o
  | 5 => if less then cut o else cut x
  | 6 => cut x
  | 7 => if x ≤ o then 0 else cut (o + 1)
  | 8 => if o = 0 ∨ x < o then cut x else cut (o - 1)
  | _ => if o ≤ y ∧ x ≤ y - o then cut (o + x) else cut o

/-- Site of a core. [DEDUCED, log 42] -/
def coreSite (core : Nat) : Nat := siteOf (core / 4) (core % 4) 0

/-- The error response of a request at its home: it meets the state that the merge leaves which it causes (R284, R294). -/
def reqErr (s : State) (q : Sent) : Option AccErr × State :=
  match q.kind with
  | .register tag _ =>
    let e := dirOf s (secOf q.pa)
    let s1 := if e.st = .u ∧ e.tag ≠ tag then merge s (secOf q.pa) else s
    (accErr s1 q.pa q.key, s1)
  | _ => homeErr s q.pa q.key

/-- A request of a consumer reaches its home and is performed (R239, R284, R292). An error response performs nothing. -/
def performAs (consumer : Nat) (s : State) (q : Sent) : State :=
  match q.kind with
  | .clean sys => cleanReq s q.pa sys
  | kind =>
    match reqErr s q with
    | (some e, s0) =>
      let s1 := reportErr s0 e q.func q.va q.pa q.key (coreSite q.core) consumer q.wordPc
      (match kind with
       | .register _ _ => setPartial s1 q.core (secOf q.pa) none
       | _ => s1)
    | (none, s1) =>
      let s0 := useHome s1 q.func q.pa
      match kind with
      | .write data => dropL1Line (performFor s0 q.by_ q.pa q.key data q.preds) q.core (lineOf q.pa)
      | .red op sz val =>
        let n := if sz = 1 ∨ sz = 3 then 8 else 4
        let r := homeRead s0 q.pa n q.key
        let new := atomNew op sz (BitVec.ofNat 64 (leNat r.1)) val 0
        dropL1Line (performFor r.2 q.by_ q.pa q.key (leBytes n new.toNat) (unionIds q.preds (predsOf r.2 q.pa n)))
          q.core (lineOf q.pa)
      | .upd tag val =>
        let n := tagSize tag
        let r := homeRead s0 q.pa n q.key
        let new := combine tag (BitVec.ofNat 64 (leNat r.1)) val
        dropL1Line (performFor r.2 q.by_ q.pa q.key (leBytes n new.toNat) (unionIds q.preds (predsOf r.2 q.pa n)))
          q.core (lineOf q.pa)
      | .register tag core => registerReq s0 q.pa tag core q.key
      | .clean sys => cleanReq s0 q.pa sys

/-- A request of a word is performed. -/
def performReq (s : State) (q : Sent) : State := performAs 6 s q

/-- Is a request with this number still on its way? -/
def underWay (s : State) (id : Nat) : Bool := s.sent.any (fun r => r.id == id)

/-- The write goes out toward its home: its predecessors are those of this moment (R240), and a release at system scope has
written host memory through (R244). -/
def sendNow (s : State) (q : Sent) : Sent × State :=
  let s1 := if q.through then writeThrough s else s
  ({ q with preds := sendPreds s1 q.die (ownOf s1 q.by_), after := [], through := false }, s1)

/-- A request has been performed: a write that waited for it, and for nothing else, goes out (R236). -/
def strikeSent (s : State) (id : Nat) : State :=
  (s.sent.filter (fun r => r.after.contains id)).foldl (fun st r =>
    let rest := (r.after.erase id).filter (underWay st)
    let n : Sent × State := if rest = [] then sendNow st r else ({ r with after := rest }, st)
    { n.2 with sent := n.2.sent.map (fun x => if x.id = r.id then n.1 else x) }) s

/-- Take a request and perform it. -/
def perform1 (s : State) (id : Nat) : State :=
  match s.sent.find? (fun r => r.id == id) with
  | none => s
  | some q =>
    let n : Sent × State := if q.after = [] then (q, s) else sendNow s q
    strikeSent (performReq { n.2 with sent := n.2.sent.filter (fun r => r.id != id) } n.1) id

/-- The requests that a pick names, with the earlier ones that each must follow: of its sender to its slice (R242), and those it
waits for (R236). -/
def withEarlier (s : State) (pick : Sent → Bool) : List Sent :=
  s.sent.foldr (fun q acc =>
    if pick q || acc.any (fun r => r.after.contains q.id || (q.by_ == r.by_ && sameSlice s q.pa r.pa)) then q :: acc else acc) []

/-- Perform requests, earlier ones first. -/
def performWith (s : State) (pick : Sent → Bool) : State := ((withEarlier s pick).map (·.id)).foldl perform1 s

/-- May the request be performed next (R236, R242)? -/
def sentReady (s : State) (q : Sent) : Bool :=
  !s.sent.any (fun r => decide (r.id < q.id) && r.by_ == q.by_ && sameSlice s q.pa r.pa) && !q.after.any (underWay s)

/-- Send a request behind those of `after` and, with `through`, behind the write-through of host memory (R236, R244).
[DEDUCED, log 27] -/
def send (s : State) (by_ : Sender) (f core quad pa va key : Nat) (word : Nat × Nat × (Nat × Nat)) (kind : SentKind) (after : List Nat)
    (through : Bool) : State :=
  let q : Sent := { id := s.nextSeq, by_ := by_, func := f, die := dieOfCore core, core := core, quad := quad, pa := pa, va := va,
                    key := key, wordPc := word.1, word := word.2.1, foot := word.2.2, kind := kind, preds := [], after := after.filter (underWay s),
                    through := through }
  let n : Sent × State := if q.after = [] then sendNow s q else (q, s)
  { n.2 with nextSeq := s.nextSeq + 1, sent := n.2.sent ++ [n.1] }

/-- Is the request an update contribution or registration? -/
def isWriteKind (q : Sent) : Bool :=
  match q.kind with
  | .write _ => true
  | _ => false

-- Orders and scopes (R243, R244, R246). A scope of 4 or more is package or system.

/-- The core drops its L1 copies when the scope says so. [DEDUCED, log 26] -/
def acquireAt (s : State) (core : Nat) (scope : Nat) : State := if 2 ≤ scope then dropL1 s core else s

/-- The registrations under way that cover contributions of a thread (R247). -/
def coversOf (s : State) (uid t : Nat) : List Nat :=
  match s.unit? uid with
  | some u => (u.thread t).covers
  | none => []

/-- A contribution of a thread is covered by a registration under way (R285). -/
def noteCover (s : State) (uid t id : Nat) : State :=
  s.modUnit uid (fun u => u.modThread t (fun x => { x with covers := unionIds (x.covers.filter (underWay s)) [id] }))

/-- Is the request an earlier write of the thread, or a registration that covers a contribution of it, that a release of the scope
waits for (R244, R247)? -/
def releasedBy (s : State) (uid core t scope : Nat) (q : Sent) : Bool :=
  ((q.by_ == .thread uid t && !(match q.kind with
    | .clean _ => true
    | _ => false)) || (coversOf s uid t).contains q.id) && (decide (4 ≤ scope) || homeOf s q.pa == dieOfCore core)

/-- The requests that a release of a thread waits for. -/
def releaseIds (s : State) (uid core t scope : Nat) : List Nat := (s.sent.filter (releasedBy s uid core t scope)).map (·.id)

/-- What the fences of a thread leave its later writes to wait for (R236). -/
def fenceOf (s : State) (uid t : Nat) : List Nat × Bool :=
  match s.unit? uid with
  | some u => (((u.thread t).fence).filter (underWay s), (u.thread t).fenceSys)
  | none => ([], false)

/-- FENCE.rel: the later writes of the threads wait for their earlier ones (R236, R243). -/
def noteFence (s : State) (uid core : Nat) (ts : List Nat) (scope : Nat) : State :=
  ts.foldl (fun st t =>
    let ids := unionIds (fenceOf st uid t).1 (releaseIds st uid core t scope)
    st.modUnit uid (fun u => u.modThread t (fun x => { x with fence := ids, fenceSys := x.fenceSys || scope == 5 }))) s

/-- A write of a thread has gone out behind its fences. -/
def clearFence (s : State) (uid t : Nat) : State :=
  s.modUnit uid (fun u => u.modThread t (fun x => { x with fence := [], fenceSys := false }))

/-- Before the threads write in place, what their fences wait for is performed (R236). -/
def settleFence (s : State) (uid : Nat) (ts : List Nat) : State :=
  ts.foldl (fun st t =>
    let x := fenceOf st uid t
    let s1 := performWith st (fun q => x.1.contains q.id)
    if x.1 = [] ∧ x.2 = false then st else clearFence (if x.2 then writeThrough s1 else s1) uid t) s

/-- Wait for the earlier writes of some threads of a unit that the scope names. [DEDUCED, log 26] -/
def releaseAt (s : State) (uid core : Nat) (ts : List Nat) (scope : Nat) : State :=
  let s0 := settleFence s uid ts
  let s1 := performWith s0 (fun q => ts.any (fun t => releasedBy s0 uid core t scope q))
  if scope = 5 then writeThrough s1 else s1

/-- The further wait of FENCE.sc (R246). [DEDUCED, log 26] -/
def scAt (s : State) (uid core : Nat) (ts : List Nat) (scope : Nat) : State :=
  let d := dieOfCore core
  let own := ts.foldl (fun l t => unionIds l (ownOf s (.thread uid t))) []
  let here := (s.performed.filter (fun w => appliedTo s d w)).map (·.id)
  let ids := unionIds own here
  if 4 ≤ scope then
    let s1 := (List.range 4).foldl (fun st h => catchUp st h ids) s
    if scope = 5 then catchUp s1 4 ids else s1
  else catchUp s d own

/-- FENCE.acq at package or system scope: the die applies what the values of the threads' earlier reads follow (R243, R245).
[DEDUCED, log 26] -/
def settleSeen (s : State) (uid core : Nat) (ts : List Nat) (scope : Nat) : State :=
  if 4 ≤ scope then
    ts.foldl (fun st t =>
      let ids := match st.unit? uid with
        | some u => (u.thread t).seen
        | none => []
      if ids = [] then st
      else (catchUp st (dieOfCore core) ids).modUnit uid (fun u => u.modThread t (fun x => { x with seen := [] }))) s
  else s

/-- FENCE.sc (R246): the earlier writes of the threads are performed, what their reads follow is applied to the die, and both, with
all that the die shows, to every die of the scope. -/
def fenceSc (s : State) (uid core : Nat) (ts : List Nat) (scope : Nat) : State :=
  acquireAt (scAt (settleSeen (releaseAt s uid core ts scope) uid core ts scope) uid core ts scope) core scope

/-- What an order does before its access, and what it does after it. -/
def orderBefore (s : State) (o : Order) (uid core : Nat) (ts : List Nat) (scope : Nat) : State :=
  match o with
  | .rel => releaseAt s uid core ts scope
  | .sc => fenceSc s uid core ts scope
  | _ => s

def orderAfter (s : State) (o : Order) (core : Nat) (scope : Nat) : State :=
  match o with
  | .acq | .sc => acquireAt s core scope
  | _ => s

/-- An access that writes in place: it waits for the fences of its threads, then for its own order. -/
def writeBefore (s : State) (o : Order) (uid core : Nat) (ts : List Nat) (scope : Nat) : State :=
  orderBefore (settleFence s uid ts) o uid core ts scope

/-- Before a word's requests are sent: an sc word waits, any other leaves its requests to wait (R243, R246). -/
def sendBefore (s : State) (o : Order) (uid core : Nat) (ts : List Nat) (scope : Nat) : State :=
  match o with
  | .sc => orderBefore s .sc uid core ts scope
  | _ => s

/-- Send a thread's write: behind some requests, behind its fences and, with order rel, behind its earlier writes (R236,
R243). -/
def sendOrdered (s : State) (uid t f core quad pa va key : Nat) (word : Nat × Nat × (Nat × Nat)) (kind : SentKind) (o : Order)
    (scope : Nat) (behind : List Nat) : State :=
  let x := fenceOf s uid t
  let rel : List Nat × Bool := if o = .rel then (releaseIds s uid core t scope, scope == 5) else ([], false)
  send (if x.1 = [] then clearFence s uid t else s) (.thread uid t) f core quad pa va key word kind
    (unionIds behind (unionIds x.1 rel.1)) (x.2 || rel.2)

-- Reads.

/-- Room for a line in a core's L1: when 1,024 lines stand there, the lowest that holds read copies alone goes, or the partials
of the lowest line move out (R5, R287). Where registrations are on their way for every line, those of the lowest are served first.
[DESIGN CHOICE, log 71] -/
def l1Room (s : State) (core line : Nat) : State :=
  let l := l1Lines s core
  if l.contains line || decide (l.length < 1024) then s
  else
    let busy (n : Nat) : Bool := (List.range 4).any (fun i => s.sent.any (isRegister core (4 * n + i)))
    let held (n : Nat) : Bool := (List.range 4).any (fun i => (partialOf s core (4 * n + i)).isSome)
    match (l.find? (fun n => !held n)).orElse (fun _ => l.find? (fun n => !busy n)) with
    | some n => dropL1Line ((List.range 4).foldl (fun st i => partialOut st core (4 * n + i)) s) core n
    | none =>
      match l.head? with
      | some n =>
        let s1 := performWith s (fun q => (List.range 4).any (fun i => isRegister core (4 * n + i) q))
        dropL1Line ((List.range 4).foldl (fun st i => partialOut st core (4 * n + i)) s1) core n
      | none => s

/-- A relaxed read of a core: its L1, else the die's view, which fills the L1 (R241). -/
def l1Read (s : State) (core pa n key : Nat) : List Byte × State :=
  let sec := secOf pa
  match l1Copy s core sec with
  | some c => ((c.data.drop (pa % 64)).take n, s)
  | none =>
    let held := holds s (dieOfCore core) sec
    let r := viewRead s (dieOfCore core) (64 * sec) 64 key
    let ps := if held then [] else predsOf r.2 (64 * sec) 64
    ((r.1.drop (pa % 64)).take n,
      (l1Room r.2 core (sec / 4)).modCore core (fun c => { c with l1 := NatMap.set none c.l1 sec (some ⟨s.clock, r.1, ps, false⟩) }))

/-- Overlay bytes of [a, a + |b|) on a read of [pa, pa + |l|). -/
def overlay (pa : Nat) (l : List Byte) (a : Nat) (b : List Byte) : List Byte :=
  l.mapIdx (fun i x => if a ≤ pa + i ∧ pa + i < a + b.length then b.getD (pa + i - a) x else x)

/-- The reading thread's writes that are not yet performed, over the bytes read (R241 row 1, R359). -/
def forward (s : State) (uid t : Nat) (pa : Nat) (l : List Byte) : List Byte :=
  let l1 := match s.unit? uid with
    | some u => u.buffer.foldl (fun x w => overlay pa x w.pa w.data) l
    | none => l
  s.sent.foldl (fun x q =>
    match q.kind with
    | .write data => if q.by_ = .thread uid t then overlay pa x q.pa data else x
    | _ => x) l1

/-- The error response of a core's read: of its L1 copy, which an acquiring read passes, else of what lies behind it (R241,
R355). -/
def coreErr (s : State) (core pa key : Nat) (unc : Bool) (o : Order) : Option AccErr × State :=
  if unc then homeErr s pa key
  else
    match (if o = .rlx then l1Copy s core (secOf pa) else none) with
    | some c => (copyErr s pa key c.bad, s)
    | none => viewErr s (dieOfCore core) pa key

/-- Before a thread reads a sector, its own update requests there, and its core's registrations, are performed. -/
def settleFor (s : State) (uid t core pa : Nat) : State :=
  performWith s (fun q => secOf q.pa == secOf pa &&
    (isRegister core (secOf pa) q || (q.by_ == .thread uid t && !isWriteKind q)))

/-- Performed writes of the core's threads to a sector that the die has still to apply: a read of the core does not go behind
them (R241). -/
def coreOwnPending (s : State) (core d sec : Nat) : List Nat :=
  let mine (id : Nat) : Bool := s.units.any (fun p => match p.2 with
    | some u => u.core == core && u.threads.any (fun q => q.2.own.contains id)
    | none => false)
  (s.performed.filter (fun w => secOf w.pa == sec && w.pending.contains d && mine w.id)).map (·.id)

/-- A read with acquire or sc order, past the L1: the die has applied what its value follows (R241). -/
def readPast (s : State) (d core pa n key : Nat) (unc : Bool) : List Byte × State :=
  let s1 := dropL1Sec s core (secOf pa)
  if unc then
    let r := homeRead s1 pa n key
    (r.1, catchUp r.2 d (predsOf r.2 pa n))
  else
    let r := viewRead (catchUp s1 d (coreOwnPending s1 core d (secOf pa))) d pa n key
    (r.1, catchUp r.2 d (viewPreds r.2 d pa n))

/-- A relaxed read, at the home for an uncached page and else through the L1, with the writes that its value follows.
[DEDUCED, log 26] -/
def coreRead (s : State) (d core pa n key : Nat) (unc : Bool) : List Byte × List Nat × State :=
  if unc then
    let r := homeRead (dropL1Sec s core (secOf pa)) pa n key
    (r.1, predsOf r.2 pa n, r.2)
  else
    let s1 := match l1Copy s core (secOf pa) with
      | some _ => s
      | none => catchUp s d (coreOwnPending s core d (secOf pa))
    let r := l1Read s1 core pa n key
    (r.1, (match NatMap.get none (r.2.core core).l1 (secOf pa) with
      | some c => c.preds
      | none => []), r.2)

/-- A thread has read a value that follows some writes (R243). -/
def noteSeen (s : State) (uid t : Nat) (ids : List Nat) : State :=
  let l := prune s ids
  if l = [] then s
  else s.modUnit uid (fun u => u.modThread t (fun x => { x with seen := unionIds (prune s x.seen) l }))

/-- A read of some threads of a unit at one element: one value for all (R212, R241). -/
def elementRead (s : State) (uid core f : Nat) (ts : List Nat) (pa n key : Nat) (unc : Bool) (o : Order) : List Byte × State :=
  let d := dieOfCore core
  let s1 := if unc then useHome s f pa
    else if o = .rlx ∧ (l1Copy s core (secOf pa)).isSome = true then s
    else useView s d f pa
  if o = .rlx then
    let r := coreRead s1 d core pa n key unc
    (r.1, ts.foldl (fun st t => noteSeen st uid t r.2.1) r.2.2)
  else readPast s1 d core pa n key unc

/-- A relaxed read of an engine on a die: the die's view (R248). -/
def engineRead (s : State) (d f pa n key : Nat) (unc : Bool) : List Byte × State :=
  if unc then homeRead (useHome s f pa) pa n key else viewRead (useView s d f pa) d pa n key

end Sys2Proof.Machine
end

