-- ==== Sys2Proof/WellFormed.lean ====
section
/-! DEFINITION. Which words check 3 of R44 accepts on each class of core: MBZ fields, X, COND, SZ, ORD and SCOPE values,
mode and field pairs, D classes, pair rules, retention rules and guards. The one part of check 3 that reads the launch
(format slots, R101, R159) stands in Machine/Issue.lean. -/

namespace Sys2Proof

/-- The class of core that executes a word (R43). -/
inductive CoreKind where
  | vector | quartz
deriving DecidableEq, Repr

/-- The class of an opcode (R43). -/
inductive OpClass where
  | b | v | q
deriving DecidableEq, Repr

/-- How D is read (R30, and the chapters that restrict it). -/
inductive DKind where
  | t        -- thread register, Quartz s-register
  | ts       -- as t, with the s-register variant of X class S
  | e        -- pair vn, vn+1
  | p        -- predicate only, D[8:3] MBZ
  | icond    -- integer condition and predicate (R71)
  | fcond    -- floating condition and predicate (R94)
  | a        -- array register, or metadata register
  | n        -- MBZ
  | k        -- k-register only
  | grab     -- flat even pair (R180)
  | scope    -- FENCE scope (R124)
  | energy   -- D[8:7] energy class, D[6:0] MBZ (R158)
  | energyM  -- D[8:7] energy class, D[6:4] MBZ, D[3:0] metadata register
deriving DecidableEq, Repr

/-- How a source is read. -/
inductive SKind where
  | none            -- MBZ
  | w               -- integer operand of width w (R57)
  | r32             -- 32-bit operand
  | r64             -- 64-bit operand of R88
  | wide            -- mode 11 gives 64 bits, any other mode 32
  | pred            -- predicate register (R31)
  | tok             -- mode 11 only (R126)
  | handle          -- mode 11, or a Quartz s-register (R181)
  | lit (l : List (BitVec 9))  -- a literal among those listed
  | litAny          -- any literal
  | kreg            -- a k-register in mode 00 (R70)
  | link            -- link register (R81)
  | jump            -- JMPX target (R80)
deriving DecidableEq, Repr

/-- The X class (R43). -/
inductive XKind where
  | vals (l : List (BitVec 3))
  | s (mods : List (BitVec 2))
  | slot
deriving DecidableEq, Repr

/-- What R43 and the chapters say of a format A opcode. -/
structure ADesc where
  cls : OpClass
  d : DKind
  s1 : SKind := .none
  s2 : SKind := .none
  s3 : SKind := .none
  x : XKind := .vals [0]
  guard : Bool := true
  hold : Bool := true
  ends : Bool := false
deriving DecidableEq, Repr

/-- The data register of a format M opcode. -/
inductive MData where
  | load | store | upd64 | upd32 | one | two | none | level
deriving DecidableEq, Repr

structure MDesc where
  data : MData
  szs : List (BitVec 3)
  ords : List Order
  scope : Bool := true
deriving DecidableEq, Repr

inductive IKind where
  | wide | movi | moviHi | spec | imm
deriving DecidableEq, Repr

inductive BKind where
  | bra | brc | brp | call
deriving DecidableEq, Repr

/-- The descriptor of a word. -/
inductive Desc where
  | a (d : ADesc) (o : AOps)
  | i (k : IKind) (cls : OpClass) (ends : Bool) (o : IOps)
  | m (d : MDesc) (o : MOps)
  | b (k : BKind) (cls : OpClass) (o : BOps)
  | pair (o : POps)
  | event
deriving DecidableEq, Repr

namespace Desc

/-- Integer forms of X class S (R60 to R65, R67). -/
def int1 (mods : List (BitVec 2)) : ADesc := ⟨.b, .ts, .w, .none, .none, .s mods, true, true, false⟩
def int2 (mods : List (BitVec 2)) : ADesc := ⟨.b, .ts, .w, .w, .none, .s mods, true, true, false⟩
def int3 (mods : List (BitVec 2)) : ADesc := ⟨.b, .ts, .w, .w, .w, .s mods, true, true, false⟩
/-- FP32 forms. -/
def fp1 (xs : List (BitVec 3)) : ADesc := ⟨.v, .t, .r32, .none, .none, .vals xs, true, true, false⟩
def fp2 (xs : List (BitVec 3)) : ADesc := ⟨.v, .t, .r32, .r32, .none, .vals xs, true, true, false⟩
def fp3 (xs : List (BitVec 3)) : ADesc := ⟨.v, .t, .r32, .r32, .r32, .vals xs, true, true, false⟩
def dp2 (xs : List (BitVec 3)) : ADesc := ⟨.v, .e, .r64, .r64, .none, .vals xs, true, true, false⟩
def allX : List (BitVec 3) := [0, 1, 2, 3, 4, 5, 6, 7]
def lits16 : List (BitVec 9) := [0, 1, 2, 3, 4, 5, 6, 7, 8, 9, 10, 11, 12, 13, 14, 15]
/-- Timeline ids (R125). -/
def litTl : List (BitVec 9) := [0, 1, 2, 8, 9, 10, 11, 12, 13, 14, 15]
/-- Copy words (R127, R128). -/
def copy (s3 : SKind) (xs : List (BitVec 3)) : ADesc := ⟨.v, .n, .tok, .r32, s3, .vals xs, false, true, false⟩
/-- Quartz words without a vector form. -/
def qz (d : DKind) (s1 s2 s3 : SKind) (x : XKind) : ADesc := ⟨.q, d, s1, s2, s3, x, false, true, false⟩
def loads : MDesc := ⟨.load, [0, 1, 2, 3, 4, 5, 6], [.rlx, .acq, .sc], true⟩
def stores : MDesc := ⟨.store, [0, 1, 2, 3, 4, 5, 6], [.rlx, .rel, .sc], true⟩
def atoms (dat : MData) (szs : List (BitVec 3)) : MDesc := ⟨dat, szs, [.rlx, .acq, .rel, .sc], true⟩
def reds : MDesc := ⟨.one, [0, 1, 2, 3], [.rlx, .rel, .sc], true⟩
def upds (dat : MData) : MDesc := ⟨dat, [0], [.rlx, .rel], true⟩

end Desc

open Desc in
/-- The descriptor of each word row, from R43 and the chapter of its rule. -/
def Instr.desc : Instr → Desc
  | .nop o => .a ⟨.b, .n, .none, .none, .none, .vals [0], true, false, false⟩ o
  | .pairWord o => .pair o
  | .iadd o => .a (int2 [0, 1, 2]) o
  | .isub o => .a (int2 [0, 1, 2]) o
  | .imul o => .a (int2 [0]) o
  | .imulhi o => .a (int2 [0, 1]) o
  | .imad o => .a (int3 [0]) o
  | .ineg o => .a (int1 [0, 1]) o
  | .iabs o => .a (int1 [0, 1]) o
  | .imin o => .a (int2 [0]) o
  | .imax o => .a (int2 [0]) o
  | .iminu o => .a (int2 [0]) o
  | .imaxu o => .a (int2 [0]) o
  | .iaddWide o => .i .wide .b false o
  | .imulWide o => .i .wide .b false o
  | .andWide o => .i .wide .b false o
  | .orWide o => .i .wide .b false o
  | .xorWide o => .i .wide .b false o
  | .iminWide o => .i .wide .b false o
  | .imaxWide o => .i .wide .b false o
  | .movi o => .i .movi .b false o
  | .moviHi o => .i .moviHi .b false o
  | .shl o => .a (int2 [0]) o
  | .shra o => .a (int2 [0]) o
  | .shrl o => .a (int2 [0]) o
  | .rotl o => .a (int2 [0]) o
  | .and o => .a (int2 [0]) o
  | .or o => .a (int2 [0]) o
  | .xor o => .a (int2 [0]) o
  | .andn o => .a (int2 [0]) o
  | .not o => .a (int1 [0]) o
  | .popc o => .a (int1 [0]) o
  | .clz o => .a (int1 [0]) o
  | .brev o => .a (int1 [0]) o
  | .bfx o => .a (int2 [0, 1]) o
  | .bfi o => .a (int3 [0]) o
  | .prmt o => .a (int3 [0]) o
  | .mov o => .a (int1 [0]) o
  | .kmov o => .a ⟨.v, .k, .r32, .none, .none, .vals [0, 2, 4, 6], true, true, false⟩ o
  | .rdspec o => .i .spec .v false o
  | .iwiden o => .a ⟨.v, .k, .r32, .r32, .none, .vals [0, 1, 2], false, true, false⟩ o
  | .klo o => .a ⟨.v, .t, .kreg, .none, .none, .vals [0], true, true, false⟩ o
  | .khi o => .a ⟨.v, .t, .kreg, .none, .none, .vals [0], true, true, false⟩ o
  | .icmp o => .a ⟨.v, .icond, .r32, .r32, .none, .vals [0], true, true, false⟩ o
  | .pand o => .a ⟨.v, .p, .pred, .pred, .none, .vals [0], true, true, false⟩ o
  | .por o => .a ⟨.v, .p, .pred, .pred, .none, .vals [0], true, true, false⟩ o
  | .pxor o => .a ⟨.v, .p, .pred, .pred, .none, .vals [0], true, true, false⟩ o
  | .pnot o => .a ⟨.v, .p, .pred, .none, .none, .vals [0], true, true, false⟩ o
  | .sel o => .a ⟨.v, .t, .r32, .r32, .none, .vals allX, true, true, false⟩ o
  | .lread o => .a (fp2 [0]) o
  | .lshfx o => .a (fp2 [0]) o
  | .lbcast o => .a (fp2 [0]) o
  | .lsum o => .a (fp1 [0, 1]) o
  | .lmax o => .a (fp1 [0, 1, 2]) o
  | .vote o => .a (fp1 [0, 1, 2]) o
  | .lprefix o => .a (fp1 [0, 1]) o
  | .bra o => .b .bra .b o
  | .brc o => .b .brc .b o
  | .brp o => .b .brp .v o
  | .jmpx o => .a ⟨.b, .n, .jump, .none, .none, .vals [0], true, true, true⟩ o
  | .call o => .b .call .b o
  | .ret o => .a ⟨.b, .n, .link, .none, .none, .vals [0], true, true, true⟩ o
  | .reform o => .a ⟨.v, .n, .none, .none, .none, .vals [0, 1], false, false, true⟩ o
  | .exit o => .a ⟨.b, .n, .none, .none, .none, .vals [0], true, false, true⟩ o
  | .fadd o => .a (fp2 allX) o
  | .fsub o => .a (fp2 allX) o
  | .fmul o => .a (fp2 allX) o
  | .ffma o => .a (fp3 allX) o
  | .fsqrt o => .a (fp1 allX) o
  | .dadd o => .a (dp2 allX) o
  | .dmul o => .a (dp2 allX) o
  | .dfma o => .a ⟨.v, .e, .r64, .r64, .r64, .vals allX, true, true, false⟩ o
  | .fmin o => .a (fp2 [0]) o
  | .fmax o => .a (fp2 [0]) o
  | .dmin o => .a (dp2 [0]) o
  | .dmax o => .a (dp2 [0]) o
  | .fcmp o => .a ⟨.v, .fcond, .r32, .r32, .none, .vals [0], true, true, false⟩ o
  | .dcmp o => .a ⟨.v, .fcond, .r64, .r64, .none, .vals [0], true, true, false⟩ o
  | .fclass o => .a (fp1 [0]) o
  | .frcp o => .a (fp1 [0]) o
  | .frsq o => .a (fp1 [0]) o
  | .fexp2 o => .a (fp1 [0]) o
  | .flog2 o => .a (fp1 [0]) o
  | .fsin o => .a (fp1 [0]) o
  | .fcos o => .a (fp1 [0]) o
  | .hadd2 o => .a (fp2 allX) o
  | .hmul2 o => .a (fp2 allX) o
  | .hfma2 o => .a (fp3 allX) o
  | .hmax2 o => .a (fp2 [0, 4]) o
  | .f2i o => .a (fp1 allX) o
  | .i2f o => .a (fp1 allX) o
  | .f2f o => .a (fp1 [0, 1, 2, 3, 4, 6]) o
  | .f2d o => .a ⟨.v, .e, .r32, .none, .none, .vals [0], true, true, false⟩ o
  | .d2f o => .a ⟨.v, .t, .r64, .none, .none, .vals [0, 2, 4, 6], true, true, false⟩ o
  | .cvts o => .a ⟨.v, .t, .r32, .litAny, .none, .slot, true, true, false⟩ o
  | .cvtl o => .a ⟨.v, .t, .r32, .litAny, .none, .slot, true, true, false⟩ o
  | .aset o => if o.x = 1 then .a ⟨.v, .a, .r32, .none, .none, .vals [1], false, true, false⟩ o
      else .a ⟨.v, .a, .wide, .r32, .r32, .vals [0], false, true, false⟩ o
  | .aget o => .a ⟨.v, .t, .lit lits16, .none, .none, .vals [0, 1, 2, 3], true, true, false⟩ o
  | .ld o => .m loads o
  | .st o => .m stores o
  | .ldu o => .m loads o
  | .ldx o => .m loads o
  | .stx o => .m stores o
  | .ldy o => .m loads o
  | .pref o => .m ⟨.level, [0], [.rlx], false⟩ o
  | .cinv o => .m ⟨.none, [0], [.rlx], false⟩ o
  | .cwb o => .m ⟨.none, [0], [.rlx], true⟩ o
  | .atomAdd o => .m (atoms .one [0, 1, 2, 3]) o
  | .atomAnd o => .m (atoms .one [0, 1, 2, 3]) o
  | .atomOr o => .m (atoms .one [0, 1, 2, 3]) o
  | .atomXor o => .m (atoms .one [0, 1, 2, 3]) o
  | .atomMin o => .m (atoms .one [0, 1, 2, 3]) o
  | .atomMax o => .m (atoms .one [0, 1, 2, 3]) o
  | .atomExch o => .m (atoms .one [0, 1, 2, 3, 4]) o
  | .atomIncw o => .m (atoms .one [2, 3]) o
  | .atomDecw o => .m (atoms .one [2, 3]) o
  | .atomAddb o => .m (atoms .two [2, 3]) o
  | .atomfAdd o => .m (atoms .one [4]) o
  | .atomfMin o => .m (atoms .one [4]) o
  | .atomfMax o => .m (atoms .one [4]) o
  | .cas o => .m (atoms .two [0, 1, 2, 3, 4]) o
  | .redAdd o => .m reds o
  | .redAnd o => .m reds o
  | .redOr o => .m reds o
  | .redXor o => .m reds o
  | .redMin o => .m reds o
  | .redMax o => .m reds o
  | .updAddI32 o => .m (upds .upd32) o
  | .updAddI64 o => .m (upds .upd64) o
  | .updAddF32 o => .m (upds .upd32) o
  | .updMinI32 o => .m (upds .upd32) o
  | .updMaxI32 o => .m (upds .upd32) o
  | .updMinN32 o => .m (upds .upd32) o
  | .updMaxN32 o => .m (upds .upd32) o
  | .updMinF32 o => .m (upds .upd32) o
  | .updMaxF32 o => .m (upds .upd32) o
  | .updOrB32 o => .m (upds .upd32) o
  | .updXorB32 o => .m (upds .upd32) o
  | .updAndB32 o => .m (upds .upd32) o
  | .fence o => .a ⟨.b, .scope, .none, .none, .none, .vals [1, 2, 3, 4], true, false, false⟩ o
  | .cpy o => .a (copy .none [0]) o
  | .cpym o => .a (copy (.lit [1, 2, 3, 4, 5, 6, 7, 8, 9, 10, 11, 12, 13, 14, 15]) [0]) o
  | .cpyw o => .a (copy .none [0]) o
  | .cpyf o => .a (copy .none [0, 1, 2]) o
  | .bgath o => .a (copy .none [0]) o
  | .bscat o => .a (copy .none [0]) o
  | .seal o => .a ⟨.v, .n, .r32, .r32, .none, .vals [0], true, true, false⟩ o
  | .reclaim o => .a ⟨.v, .n, .r32, .none, .none, .vals [0, 1, 2], true, true, false⟩ o
  | .sealEntryRemove .. => .event
  | .bar o => .a ⟨.v, .n, .none, .none, .none, .vals [0], false, false, true⟩ o
  | .binit o => .a ⟨.v, .n, .r32, .r32, .none, .vals [0], false, true, false⟩ o
  | .bexp o => .a ⟨.v, .n, .r32, .r32, .none, .vals [0], false, true, false⟩ o
  | .bwait o => .a ⟨.v, .n, .r32, .r32, .none, .vals [0], false, true, true⟩ o
  | .qinit o => .a ⟨.v, .n, .r32, .r32, .r32, .vals allX, false, true, false⟩ o
  | .qpush o => .a ⟨.v, .n, .r32, .wide, .none, .vals [0], false, true, true⟩ o
  | .qpop o => .a ⟨.b, if o.x = 1 then .e else .t, .r32, .none, .none, .vals [0, 1], false, true, true⟩ o
  | .twait o => .a ⟨.v, .n, .lit litTl, .wide, .none, .vals [0], false, true, true⟩ o
  | .tread o => .a ⟨.v, if o.x.getLsbD 1 then .e else .t, .lit litTl, .none, .none, .vals [0, 1, 2, 3], true, true, false⟩ o
  | .topk o => .a ⟨.v, .t, .r32, .none, .none, .vals [0, 1, 2, 4, 5, 6], true, true, false⟩ o
  | .bvmask o => .a ⟨.v, .t, .none, .none, .none, .vals [0, 1], true, false, false⟩ o
  | .mma o => .a (qz .energy .w .w .w .slot) o
  | .mmas o => .a (qz .energyM .w .w .w .slot) o
  | .mzero o => .a (qz .n .w .none .none (.vals [0])) o
  | .mldm o => .a (qz .a .w .none .none (.vals [0])) o
  | .mdrain o => .a (qz .n .w .none .none (.vals [0])) o
  | .mqnt o => .a (qz .n .w .w .w .slot) o
  | .mchk o => .a (qz .t .none .none .none (.vals [0, 1, 2, 3, 4, 5, 6])) o
  | .mscl o => .a (qz .n .w .w .none (.vals [0])) o
  | .trap o => .i .imm .b true o
  | .sysc o => .i .imm .b true o
  | .tret o => .a ⟨.b, .n, .none, .none, .none, .vals [0], false, false, true⟩ o
  | .rplx o => .a ⟨.b, .t, .r32, .lit lits16, .none, .vals [0], true, true, false⟩ o
  | .rplw o => .a ⟨.b, .t, .r32, .lit [4, 6, 7, 8, 9, 10, 11, 12, 13, 14, 15], .r32, .vals [0], true, true, false⟩ o
  | .rpld o => .a ⟨.b, .n, .r32, .none, .none, .vals [0], false, true, false⟩ o
  | .xrd o => .a ⟨.b, .t, .lit (if o.x = 1 then [0, 2, 3] else [0, 1, 2, 3, 4, 5]), .none, .none, .vals [0, 1], true, true, false⟩ o
  | .xwr o => .a ⟨.b, .t, .lit [0], .r32, .none, .vals [0, 1], true, true, false⟩ o
  | .rinit o => .a ⟨.v, .n, .lit lits16, .r32, .r32, .vals [0, 1], false, true, false⟩ o
  | .rinitPerform .. => .event
  | .rgrab o => .a ⟨.v, .grab, .lit lits16, .none, .none, .vals [0], false, true, false⟩ o
  | .lnch o => .a ⟨.v, .n, .handle, .wide, .none, .vals [0], false, true, false⟩ o
  | .cntw o => .a ⟨.b, .n, .handle, if o.x = 1 then .none else .wide, .none, .vals [0, 1], false, true, true⟩ o
  | .cncl o => .a ⟨.v, .n, .handle, .none, .none, .vals [0], false, true, false⟩ o
  | .dlread o => .a ⟨.v, .t, .handle, .none, .none, .vals [0, 1, 2, 3], false, true, false⟩ o
  | .idem o => .a ⟨.v, .n, .none, .none, .none, .vals [0, 1], false, false, false⟩ o
  | .codeObjectLoad .. => .event
  | .binAged .. => .event
  | .binDraw .. => .event
  | .binBringBack .. => .event
  | .dissolutionMark .. => .event
  | .groupDissolve .. => .event
  | .cohortStart _ => .event
  | .unitComplete .. => .event
  | .quartzContextEnd .. => .event
  | .launchComplete .. => .event
  | .copyBytesLand .. => .event
  | .copyComplete .. => .event
  | .gatherComplete .. => .event
  | .engineTranslationFault .. => .event
  | .faultRecordWrite .. => .event
  | .topkComplete .. => .event
  | .prefetchHintFill .. => .event
  | .matrixGrant .. => .event
  | .matrixOperationComplete .. => .event
  | .ebudRefill => .event
  | .rgrabReply .. => .event
  | .cqtailWrite .. => .event
  | .job .. => .event
  | .phase .. => .event
  | .graph .. => .event
  | .close .. => .event
  | .cancel .. => .event
  | .wait .. => .event
  | .inval .. => .event
  | .invalComplete .. => .event
  | .ctxswSave .. => .event
  | .ctxswResume .. => .event
  | .nodeStart .. => .event
  | .workObjectEnd .. => .event
  | .nodeDeadlineExpire .. => .event
  | .phaseDeadlineExpire .. => .event
  | .cancelHang .. => .event
  | .fanswerRetry .. => .event
  | .fanswerDeliver .. => .event
  | .fanswerAbort .. => .event
  | .tenantSliceEnd .. => .event
  | .drainTimeout .. => .event
  | .unitSave .. => .event
  | .forcedSave .. => .event
  | .quartzContextSave .. => .event
  | .unitRestore .. => .event
  | .ctxswSliceTimeout .. => .event
  | .unitRelaunch .. => .event
  | .homeReadRequest .. => .event
  | .homeWriteRequest .. => .event
  | .homeAtomic .. => .event
  | .updRegistration .. => .event
  | .homeCwb .. => .event
  | .dropNotice .. => .event
  | .writeApply .. => .event
  | .lineFill .. => .event
  | .l1CopyExpire .. => .event
  | .partialEvict .. => .event
  | .collectorEvict .. => .event
  | .directoryError .. => .event
  | .hostRead .. => .event
  | .hostWrite .. => .event
  | .hostHomeUpdate .. => .event
  | .h1CoherentLoss => .event
  | .fabricMessageReceive .. => .event
  | .fabricWakeReceive .. => .event
  | .eccCorrected .. => .event
  | .eccUncorrectable .. => .event
  | .collapseBegin .. => .event
  | .wakeWrite .. => .event
  | .wakeEnd .. => .event
  | .fabricWakeSend .. => .event
  | .partitionEnable .. => .event
  | .partitionDisable .. => .event
  | .functionCreate .. => .event
  | .functionDisable .. => .event
  | .keyInstall .. => .event
  | .keyZeroise .. => .event
  | .psplitWrite .. => .event
  | .repairSoftRow .. => .event
  | .softRepairComplete => .event
  | .repairHardRow .. => .event
  | .repairArrayColumn .. => .event
  | .repairArrayRow .. => .event
  | .repairCluster .. => .event
  | .repairSramRow .. => .event
  | .repairD2dLane .. => .event
  | .repairFabricLane .. => .event
  | .pclr .. => .event
  | .attest .. => .event
  | .powerThrottle .. => .event
  | .packageReset .. => .event
  | .recoveryImage .. => .event
  | .certChainRead => .event
  | .registerWrite .. => .event
  | .collapseComplete .. => .event
  | .attestComplete => .event
  | .linkLaneError .. => .event

/-- Class of the opcode (R43); a pair word takes the classes of its halves (R42). -/
def pairClass (op : BitVec 7) : OpClass :=
  if op = 0x02 then .v else if op.toNat < 0x20 then .b else .v

def Desc.classes : Desc → List OpClass
  | .a d _ => [d.cls]
  | .i _ c _ _ => [c]
  | .m _ _ => [.v]
  | .b _ c _ => [c]
  | .pair o => [pairClass o.h0.op, pairClass o.h1.op]
  | .event => []

/-- Does a core of this kind have the class (R43)? -/
def CoreKind.accepts : CoreKind → OpClass → Bool
  | _, .b => true
  | .vector, .v => true
  | .vector, .q => false
  | .quartz, .q => true
  | .quartz, .v => false

/-- The classes of check 1. RPLX to SYSC, FENCE, QPOP and CNTW are class B (R43, R148). -/
def Instr.classOk (k : CoreKind) (i : Instr) : Bool := i.desc.classes.all k.accepts

/-- Is the word run-ending (R27)? -/
def Instr.ends (i : Instr) : Bool :=
  match i.desc with
  | .a d _ => d.ends
  | .i _ _ e _ => e
  | .b .. => true
  | _ => false

/-- The E bit of the word. -/
def Instr.eBit (i : Instr) : Bool :=
  match i.desc with
  | .a _ o => o.e
  | .i _ _ _ o => o.e
  | .m _ o => o.e
  | .b _ _ o => o.e
  | .pair o => o.e
  | .event => false

/-- The 11 bits of the source field are all zero. -/
def Src.isMbz (s : Src) : Bool := s == .reg 0

/-- Mode and field pair in range (R31). -/
def Src.inRange (k : CoreKind) : Src → Bool
  | .reg f => match k with | .vector => true | .quartz => decide (f.toNat < 64)
  | .lit _ => true
  | .latch f => decide (f.toNat < 3)
  | .sreg f => decide (f.toNat < 64)

/-- A source respects its kind. -/
def SKind.ok (k : CoreKind) (q : SKind) (s : Src) : Bool :=
  match q with
  | .none => s.isMbz
  | .w | .r32 | .wide | .jump => s.inRange k
  | .r64 => match s with
    | .reg f => decide (f.toNat < 480) && decide (f.toNat % 2 = 0)
    | .lit _ => true
    | .latch _ => false
    | .sreg f => decide (f.toNat < 64)
  | .pred => match s with
    | .reg f => decide (f.toNat < 8)
    | _ => false
  | .tok => match s with
    | .sreg f => decide (f.toNat < 64)
    | _ => false
  | .handle => match k, s with
    | _, .sreg f => decide (f.toNat < 64)
    | .quartz, .reg f => decide (f.toNat < 64)
    | _, _ => false
  | .lit l => match s with
    | .lit f => l.contains f
    | _ => false
  | .litAny => match s with
    | .lit _ => true
    | _ => false
  | .kreg => match s with
    | .reg f => decide (480 ≤ f.toNat)
    | _ => false
  | .link => match k, s with
    | .vector, .reg f => decide (f.toNat < 480) && decide (f.toNat % 2 = 0)
    | .quartz, .reg f => decide (f.toNat < 64)
    | .quartz, .sreg f => decide (f.toNat < 64)
    | _, _ => false

/-- D respects its class (R30); `x0` is the scalar-destination bit of X class S. -/
def DKind.ok (k : CoreKind) (x0 : Bool) (q : DKind) (d : BitVec 9) : Bool :=
  match q with
  | .t => match k with | .vector => true | .quartz => decide (d.toNat < 64)
  | .ts => match k with | .vector => !x0 || decide (d.toNat < 64) | .quartz => decide (d.toNat < 64)
  | .e => decide (d.toNat < 480) && decide (d.toNat % 2 = 0)
  | .p => decide (d.toNat < 8)
  | .icond => decide (d.toNat / 32 < 10) && decide (d.toNat / 8 % 4 = 0)
  | .fcond => decide (d.toNat / 32 < 8) && decide (d.toNat / 8 % 4 = 0)
  | .a => decide (d.toNat < 16)
  | .n => d == 0
  | .k => decide (480 ≤ d.toNat)
  | .grab => decide (d.toNat % 2 = 0)
  | .scope => decide (d.toNat < 6)
  | .energy => decide (d.toNat % 128 = 0)
  | .energyM => decide (d.toNat % 128 < 16)

/-- X is defined (R43). -/
def XKind.ok (k : CoreKind) (q : XKind) (x : BitVec 3) : Bool :=
  match q with
  | .vals l => l.contains x
  | .s mods => mods.contains (bits x 1 2) && (k == .vector || !x.getLsbD 0)
  | .slot => true

/-- x0 selects an s-register destination (X class S on the vector core). -/
def ADesc.sDest (k : CoreKind) (d : ADesc) (o : AOps) : Bool :=
  match k, d.x with
  | .vector, .s _ => o.x.getLsbD 0
  | _, _ => false

/-- Is the operand read as 64 bits on the vector core (R38, R57)? [DEDUCED, log 33] -/
def SKind.is64 (sDest : Bool) (q : SKind) (s : Src) : Bool :=
  match q with
  | .r64 | .handle | .tok | .link => true
  | .w => sDest
  | .wide | .jump => match s with | .sreg _ => true | _ => false
  | _ => false

/-- The retention rules (R38). -/
def holdOk (k : CoreKind) (d : ADesc) (o : AOps) : Bool :=
  let one (q : SKind) (s : Src) : Bool :=
    q != .none && d.hold && (k == .quartz || !q.is64 (d.sDest k o) s)
  match o.h with
  | .none => true
  | .s1 => one d.s1 o.s1
  | .s2 => one d.s2 o.s2
  | .s3 => one d.s3 o.s3

/-- A guard with enable 1 is legal only on the vector core, where the word allows it (R32). -/
def guardOk (k : CoreKind) (allowed : Bool) (g : Guard) : Bool := !g.en || (allowed && k == .vector)

def wfA (k : CoreKind) (d : ADesc) (o : AOps) : Bool :=
  d.d.ok k (d.sDest k o) o.d && d.s1.ok k o.s1 && d.s2.ok k o.s2 && d.s3.ok k o.s3 && d.x.ok k o.x
    && holdOk k d o && guardOk k d.guard o.g

def wfI (k : CoreKind) (q : IKind) (o : IOps) : Bool :=
  match q with
  | .wide => DKind.t.ok k false o.d && o.s1.inRange k
  | .movi => DKind.t.ok k false o.d && o.s1 == .lit 0
  | .moviHi => k == .quartz && DKind.t.ok k false o.d && SKind.handle.ok .quartz o.s1
  | .spec => o.s1.isMbz && decide (o.imm.toNat < 15)
  | .imm => o.d == 0 && o.s1.isMbz

/-- The data register respects the access type (R30, R35, R117). -/
def MData.ok (q : MData) (sz : BitVec 3) (d : BitVec 9) : Bool :=
  let n := d.toNat
  match q with
  | .load | .store => if sz = 5 then decide (n < 480) && decide (n % 2 = 0)
      else if sz = 6 then decide (n < 480) && decide (n % 4 = 0) else true
  | .upd64 => decide (n < 480) && decide (n % 2 = 0)
  | .upd32 => true
  | .one => decide (n < 480) && (if sz = 1 || sz = 3 then decide (n % 2 = 0) else true)
  | .two => decide (n < 480) && (if sz = 1 || sz = 3 then decide (n % 4 = 0) else decide (n % 2 = 0))
  | .none => n == 0
  | .level => decide (n < 2)

def wfM (d : MDesc) (o : MOps) : Bool :=
  d.data.ok o.sz o.d && o.ix.inRange .vector && d.szs.contains o.sz && d.ords.contains o.ord
    && (if d.scope then decide (o.scope.toNat < 6) else o.scope == 0)

def wfB (k : CoreKind) (q : BKind) (o : BOps) : Bool :=
  match q with
  | .bra => o.s1.isMbz && o.s2.isMbz && o.cond == 0
  | .brc => o.s1.inRange k && o.s2.inRange k && decide (o.cond.toNat < 10)
  | .brp => SKind.pred.ok k o.s1 && o.s2.isMbz && decide (o.cond.toNat < 2)
  | .call => SKind.link.ok k o.s1 && o.s2.isMbz && o.cond == 0

/-- Pair opcodes assigned (R42). -/
def pairAssigned (op : BitVec 7) : Bool :=
  decide (op.toNat ≤ 0x17) || (decide (0x20 ≤ op.toNat) && decide (op.toNat ≤ 0x2E))

/-- Does the half read D (R42)? -/
def pairReadsD (op : BitVec 7) : Bool :=
  (decide (0x03 ≤ op.toNat) && decide (op.toNat ≤ 0x11)) || (decide (0x20 ≤ op.toNat) && decide (op.toNat ≤ 0x24))
    || (decide (0x2A ≤ op.toNat) && decide (op.toNat ≤ 0x2C))

/-- The X values a half admits: those of its single form, bit 0 MBZ (R39, R104). -/
def pairX (op : BitVec 7) : List (BitVec 3) :=
  match op.toNat with
  | 0x02 => [0, 2, 4, 6]
  | 0x03 | 0x04 => [0, 2, 4]
  | 0x12 | 0x13 => [0, 2]
  | 0x20 | 0x21 | 0x22 | 0x27 | 0x2A | 0x2B | 0x2D | 0x2E => [0, 2, 4, 6]
  | 0x2C => [0, 4]
  | _ => [0]

/-- One half is legal by itself (R39, R42). -/
def wfHalf (k : CoreKind) (h : Half) : Bool :=
  if h.op = 0 then h.d == 0 && h.s.isMbz && !h.h && h.x == 0
  else pairAssigned h.op && (if h.op = 0x02 then decide (480 ≤ h.d.toNat) else DKind.t.ok k false h.d)
    && h.s.inRange k && (pairX h.op).contains h.x

/-- The registers that a half reads, for the bank rule (R41). -/
def halfReads (k : CoreKind) (h : Half) : List Nat :=
  (if pairReadsD h.op then [h.d.toNat] else []) ++
  (if h.op = 0 then [] else match k, h.s with
    | _, .reg f => [f.toNat]
    | .quartz, .sreg f => [f.toNat]
    | _, _ => [])

/-- The reads fall in distinct banks; two reads of one register count as one (R41). -/
def banksOk (reads : List Nat) : Bool :=
  let l := reads.eraseDups
  (l.map (· % 4)).eraseDups.length == l.length

def wfPair (k : CoreKind) (o : POps) : Bool :=
  wfHalf k o.h0 && wfHalf k o.h1 && banksOk (halfReads k o.h0 ++ halfReads k o.h1)
    && !(o.h0.h && o.h1.h) && (o.h0.op == 0 || o.h1.op == 0 || o.h0.d != o.h1.d)

/-- Check 3 of R44, less the format slots: is the word a legal encoding on this core? -/
def Instr.wf (k : CoreKind) (i : Instr) : Bool :=
  match i.desc with
  | .a d o => wfA k d o && (match i, k with
      | .qpop o, .quartz => o.x == 0
      | .xrd o, .quartz => o.x == 0
      | .xwr o, .quartz => o.x == 0
      | _, _ => true)
  | .i q _ _ o => wfI k q o
  | .m d o => wfM d o && guardOk k true o.g
  | .b q _ o => wfB k q o
  | .pair o => wfPair k o
  | .event => true

end Sys2Proof
end

