-- ==== Sys2Proof/Machine/Trap.lean ====
section
/-! DEFINITION. Fatal teardown (R331, R332), taking a trap (R171, R319, R320) and the return to the interrupted run
(R174). -/

namespace Sys2Proof.Machine

/-- The sectors of which a chosen core partial or a chosen collector stands (R295). -/
def partialSectors (s : State) (ofCore : Nat → Partial → Bool) (ofDie : Nat → Collector → Bool) : List Nat :=
  let cores := s.cores.flatMap (fun c => c.2.partials.filterMap (fun p => p.2.bind (fun x =>
    if ofCore c.1 x then some p.1 else none)))
  let dies := s.dies.flatMap (fun d => d.2.collectors.filterMap (fun p => p.2.bind (fun x =>
    if ofDie d.1 x then some p.1 else none)))
  (cores ++ dies).eraseDups

/-- Merge the sectors (R295). A partial whose registration still waits is registered first. -/
def mergeSectors (s : State) (secs : List Nat) : State :=
  secs.foldl (fun st sec =>
    let regs := st.sent.filter (fun q => match q.kind with
      | .register _ _ => decide (secOf q.pa = sec)
      | _ => false)
    let st1 := regs.foldl (fun x q => match q.kind with
      | .register t c => registerReq { x with sent := x.sent.filter (fun r => r.id != q.id) } q.pa t c q.key
      | _ => x) st
    merge st1 sec) s

/-- Merge every partial that the function made, and every one in its clusters (R295, R332). -/
def mergeFunction (s : State) (f : Nat) (cls : Nat → Bool) : State :=
  mergeSectors s (partialSectors s (fun k p => cls (k / 4) || p.funcs.contains f)
    (fun d c => (c.part.any (fun p => p.funcs.contains f))
      || (List.range 16).any (fun i => cls (16 * d + i) && c.clus.getLsbD i)))

/-- Merge every core partial and collector of clusters, and every collector of dies, that lose power (R295). -/
def mergePlaces (s : State) (cls dies : Nat → Bool) : State :=
  mergeSectors s (partialSectors s (fun k _ => cls (k / 4))
    (fun d c => dies d || (List.range 16).any (fun i => cls (16 * d + i) && c.clus.getLsbD i)))

/-- Remove a context from service. -/
def freeCtx (s : State) (cl c : Nat) : State := s.setCtx cl c none

/-- End every object of a function as cancelled (R332). -/
def endAllObjects (s : State) (f : Nat) : State :=
  let x := s.func f
  let all : List (Level × Nat) :=
    x.launches.map (fun p => (.launch, p.1)) ++ x.graphs.map (fun p => (.graph, p.1))
      ++ x.phases.map (fun p => (.phase, p.1)) ++ x.jobs.map (fun p => (.job, p.1))
  all.foldl (fun st p =>
    match objOf st f p.1 p.2 with
    | some o => if o.ended then st else endObj st f p.1 p.2 true
    | none => st) s

/-- Drop what a function has under way in its engines (R332). -/
def dropEngines (s : State) (f : Nat) : State :=
  let s1 := { s with
    engineOps := s.engineOps.filter (fun o => o.func != f)
    topks := s.topks.filter (fun t => match s.unit? t.uid with | some u => u.func != f | none => false)
    sent := s.sent.filter (fun q => q.func != f || (match q.by_ with | .thread _ _ | .engine _ => false | _ => true))
    faults := s.faults.filter (fun r => r.func != f) }
  let s2 := s1.clusters.foldl (fun st p =>
    if p.2.serving = some f ∨ p.2.lastServed = some f then
      st.modCluster p.1 (fun c => { c with
        table := c.table.filter (fun m => m.func != f)
        queues := c.queues.filter (fun b => b.func != f)
        hints := c.hints.filter (fun h => h.func != f)
        wSeals := (c.wSeals.filter (fun e => !isFilling e.state)).map (fun e => { e with refs := 0 })
        ySeals := c.ySeals.map (fun e => { e with refs := 0 }) })
    else st) s1
  s2.cores.foldl (fun st p =>
    let mine (e : SealEntry) : Bool := p.2.xres.any (fun r => r.func == f && overlaps e.start e.len r.off r.len)
    if p.2.xres.any (fun r => r.func == f) then
      st.modCore p.1 (fun c =>
        let l := c.xres.filter (fun r => r.func != f)
        { c with seals := c.seals.filter (fun e => !mine e), xres := l, barriers := keptBarriers l c.barriers })
    else st) s2

/-- Fatal teardown of a function (R332). What its clusters hold of it is cleared, what a collapsed function keeps there among it
(R209, R350). -/
def teardown (s : State) (f : Nat) : State :=
  let inFunc (cl : Nat) : Bool := (s.cluster cl).serving == some f || (s.cluster cl).lastServed == some f
  let s1 := s.modFunc f (fun x => { x with torn := true })
  let s2 := mergeFunction s1 f inFunc
  let s3 := s2.units.foldl (fun st p => match p.2 with
    | some u => if u.func = f then freeUnit st p.1 else st
    | none => st) s2
  let s4 := s3.ctxs.foldl (fun st p => match p.2 with
    | some c => if c.func = f then freeCtx st (p.1 / 8) (p.1 % 8) else st
    | none => st) s3
  let s5 := endAllObjects (dropEngines s4 f) f
  let s6 := s5.modFunc f (fun x => { x with cqen := false, begun := none, saved := [], savedCtxs := [], savedClusters := [], cmds := [] })
  let s7 := s6.dies.foldl (fun st p => st.modDie p.1 (fun d => { d with
    rangeUsed := d.rangeUsed.filter (fun r => r.1 != f)
    rangeReqs := d.rangeReqs.filter (fun r => match r with | .init g _ _ _ _ _ => g != f | .grab _ _ _ _ _ _ => true) })) s6
  s7.clusters.foldl (fun st p =>
    if inFunc p.1 then st.modCluster p.1 (fun c => { c with
      w := [], y := [], wSeals := [], ySeals := [], badW := [], badY := [], queues := [], hints := []
      serving := none, lastServed := none, turning := false })
    else st) s7

/-- A fatal fault of a context (R331): teardown, and a FATAL record with the cause's number in AUX0 (R362). -/
def fatal (s : State) (f cause site : Nat) : State :=
  (teardown s f).report ⟨5, 0, 0x0F, none, none, 0, f, site, cause, 0⟩

/-- LATV: which latch entries may still be read at position `j` (R37, R320). -/
def latv (latch : List LatchEntry) (j : Nat) : Nat :=
  (latch.filter (fun e => decide (e.pos < j) && decide (j ≤ e.pos + 2))).foldl (fun v e => v ||| 2 ^ (e.pos % 3)) 0

/-- XSTAT of an agent (R320). -/
def xstatOf (a : Agent) (latch : List LatchEntry) (rpos : Nat) (resume : Bool) : DWord :=
  let place := match a with
    | .group c sl => dieOfCore c * 2 ^ 22 + c / 4 * 2 ^ 16 + c % 4 * 2 ^ 14 + sl * 2 ^ 9
    | .quartz cl c => c * 2 ^ 25 + 2 ^ 24 + dieOfCluster cl * 2 ^ 22 + cl * 2 ^ 16
  BitVec.ofNat 64 (place + latv latch rpos * 2 ^ 6 + (if resume then 32 else 0) + rpos)

/-- What a trap reports (R319). `entry` is the trapping word's replay entry, when it is one (R171); `younger` holds the
unfinished words that issued after it. -/
structure TrapInfo where
  cause : Nat
  xaddr : Nat
  xmask : Word
  entry : Option ReplayEntry
  younger : List ReplayEntry
  xpc : Pc
  rpos : Nat
  resume : Bool
deriving DecidableEq, Repr

/-- A replay entry as its trap leaves it: a nonuniform trap notes what it reports, for an entry that raises it again (R189). -/
def ReplayEntry.trapped (e : ReplayEntry) (cause xaddr : Nat) (xmask : Word) : ReplayEntry :=
  if cause = 7 then { e with raised := some (BitVec.ofNat 64 xaddr, xmask) } else e

/-- Taking a trap (R171, R172, R319 to R321): the one operation for every cause. `queue` holds the older unfinished
entries. A trap in privileged mode, or without a handler, is fatal (R331).
[DEDUCED, log 14; DEDUCED, log 30; DEDUCED, log 35] -/
def takeTrap (s : State) (a : Agent) (queue : List ReplayEntry) (t : TrapInfo) : State :=
  match frontOf s a, agentLaunch s a with
  | some fr, some (f, l) =>
    let te := (recOf s f l).trapentry
    if fr.priv then fatal s f 1 a.site
    else if te = 0 then fatal s f 2 a.site
    else
      let q := queue ++ (t.entry.map (fun e => e.trapped t.cause t.xaddr t.xmask)).toList ++ t.younger
      let entryIdx := match t.entry with | some _ => queue.length | none => 0xFF
      setFront s a { fr with
        pc := te, j := 0, latch := [], priv := true
        xpc := t.xpc.setWidth 64
        xcause := BitVec.ofNat 32 (entryIdx * 256 + t.cause)
        xstat := xstatOf a fr.latch t.rpos t.resume
        xaddr := BitVec.ofNat 64 t.xaddr
        xmask := match a with | .group _ _ => t.xmask | .quartz _ _ => if t.xmask = 0 then 0 else 1
        replay := q
        frame := ⟨t.rpos, fr.latch, t.xpc.setWidth 64⟩
        hold := none, unfinished := [] }
  | _, _ => s

/-- A trap of an entry that TRET or RETRY re-issued: XPC, the frame, RPOS and RESUME stand, and the queue holds the
entries from the one that trapped (R174). [DEDUCED, log 38] -/
def retrap (s : State) (a : Agent) (queue : List ReplayEntry) (cause xaddr : Nat) (xmask : Word) : State :=
  match frontOf s a, agentLaunch s a with
  | some fr, some (f, l) =>
    let te := (recOf s f l).trapentry
    if te = 0 then fatal s f 2 a.site
    else
      setFront s a { fr with
        pc := te, j := 0, latch := [], priv := true
        xcause := BitVec.ofNat 32 cause
        xaddr := BitVec.ofNat 64 xaddr
        xmask := match a with | .group _ _ => xmask | .quartz _ _ => if xmask = 0 then 0 else 1
        replay := match queue with
          | [] => []
          | e :: r => e.trapped cause xaddr xmask :: r
        hold := none }
  | _, _ => s

/-- Resume the interrupted run, or begin a new run at XPC (R174). -/
def resumeRun (fr : Front) : Front :=
  if fr.xpc = fr.frame.xpc0 ∧ fr.xstat.getLsbD 5 then
    { fr with pc := fr.xpc.setWidth 57, j := fr.frame.pos, latch := fr.frame.latch, priv := false, replay := [], hold := none }
  else { fr with pc := fr.xpc.setWidth 57, j := 0, latch := [], priv := false, replay := [], hold := none }

end Sys2Proof.Machine
end

