-- ==== Sys2Proof/Machine/Operands.lean ====
section
/-! DEFINITION. Every operand form (R15, R30 to R32, R37, R57, R59, R88, R109, R176): which registers a word names, what
each source reads, its interval σ, and how a destination is written with its interval. -/

namespace Sys2Proof.Machine

/-- How a literal is read in the source positions of a word (R31, R57); `uint` is a zero-extending position. -/
inductive LitKind where
  | int | uint | f32 | f64 | h16 | hb16
deriving DecidableEq, Repr

/-- The literal kind of a pair half's S (R39, R57, R104): S is the second source of the words that read D, else the first. -/
def pairLit (h : Half) : LitKind :=
  let n := h.op.toNat
  if n = 8 ∨ n = 9 ∨ (21 ≤ n ∧ n ≤ 23) ∨ ((n = 3 ∨ n = 4) ∧ h.x.toNat / 2 = 2) then .uint else
  if 0x20 ≤ n ∧ n ≤ 0x29 then .f32
  else if 0x2A ≤ n ∧ n ≤ 0x2C then (if h.x.getLsbD 2 then .hb16 else .h16)
  else if n = 0x2D then .f32
  else .int

/-- The literal kind of source `n` of each word: floating-point positions convert the integer exactly.
[DESIGN CHOICE, log 67] -/
def litKind (i : Instr) (n : Nat) : LitKind :=
  match i with
  | .fadd _ | .fsub _ | .fmul _ | .ffma _ | .fsqrt _ | .fmin _ | .fmax _ | .fcmp _ | .fclass _ | .frcp _ | .frsq _
  | .fexp2 _ | .flog2 _ | .fsin _ | .fcos _ | .f2i _ | .f2d _ => .f32
  | .mqnt _ => if n = 2 then .f32 else .int
  | .cvts _ => if n = 0 then .f32 else .int
  | .dadd _ | .dmul _ | .dfma _ | .dcmp _ | .dmin _ | .dmax _ | .d2f _ => .f64
  | .hadd2 o | .hmul2 o | .hfma2 o | .hmax2 o => if o.x.getLsbD 2 then .hb16 else .h16
  | .f2f o => if o.x = 4 then .h16 else if o.x = 6 then .hb16 else .f32
  | .lsum o => if o.x = 1 then .f32 else .int
  | .lmax o => if o.x = 2 then .f32 else .int
  | .pairWord o => pairLit (if n = 0 then o.h0 else o.h1)
  | .iminu _ | .imaxu _ => .uint
  | .imulhi o => if o.x.toNat / 2 = 1 then .uint else .int
  | .iadd o | .isub o => if o.x.toNat / 2 = 2 then .uint else .int
  | .shrl _ | .rotl _ | .popc _ | .clz _ | .brev _ => if n = 0 then .uint else .int
  | _ => .int

/-- The value of a 9-bit literal in a position of 32 or 64 bits (R31, R57). Beside a 64-bit operation it is, as a thread
register is, a source narrower than the operation: of 32 bits, extended by its position, with zeros in a zero-extending one.
[DEDUCED, log 68] -/
def litVal (k : LitKind) (w64 : Bool) (f : BitVec 9) : DWord :=
  let i := f.toInt
  match k with
  | .int => if w64 then f.signExtend 64 else (f.signExtend 32).setWidth 64
  | .uint => (f.signExtend 32).setWidth 64
  | .f32 => BitVec.ofNat 64 (roundTo fp32 .rne (FVal.ofInt i))
  | .f64 => BitVec.ofNat 64 (roundTo fp64 .rne (FVal.ofInt i))
  | .h16 => BitVec.ofNat 64 (roundTo fp16 .rne (FVal.ofInt i) * 65537)
  | .hb16 => BitVec.ofNat 64 (roundTo bf16 .rne (FVal.ofInt i) * 65537)

/-- The value of a latch entry for a lane; 0 where the latch check has already failed. -/
def latchVal (latch : List LatchEntry) (f lane : Nat) : DWord :=
  match latch.find? (fun e => e.pos % 3 == f) with
  | some e => NatMap.get 0 e.vals lane
  | none => 0

/-- May the entry be read at position `j` (R37)? -/
def latchOk (latch : List LatchEntry) (f j : Nat) : Bool :=
  latch.any (fun e => e.pos % 3 == f && decide (e.pos < j) && decide (j ≤ e.pos + 2))

/-- A source of a lane on the vector core at clock `now`. `pair` marks a 64-bit register pair, `w64` a whole s-register
(R31, R58, R88). -/
def readV (lk : LitKind) (u : Unit_) (now : Nat) (th : Thread) (latch : List LatchEntry) (lane : Nat) (pair w64 : Bool) :
    Src → DWord
  | .reg f =>
    if pair then (th.reg (f.toNat + 1)).setWidth 64 <<< 32 ||| (th.reg f.toNat).setWidth 64
    else (th.reg f.toNat).setWidth 64
  | .lit f => litVal lk w64 f
  | .latch f => latchVal latch f.toNat lane
  | .sreg f => if w64 then u.sregAt now f.toNat else ((u.sregAt now f.toNat).setWidth 32).setWidth 64

/-- A source on the Quartz core, 64 bits (R57). -/
def readQ (lk : LitKind) (c : Ctx) : Src → DWord
  | .reg f => c.sreg f.toNat
  | .lit f => litVal lk true f
  | .latch f => latchVal c.front.latch f.toNat 0
  | .sreg f => c.sreg f.toNat

/-- A predicate source of a thread, as bit 0 (R31). [DEDUCED, log 37] -/
def predOf (th : Thread) : Src → DWord
  | .reg f => if th.pred f.toNat then 1 else 0
  | _ => 0

/-- The source fields of a word with their kinds. -/
def sources (i : Instr) : List (SKind × Src) :=
  match i.desc with
  | .a d o => [(d.s1, o.s1), (d.s2, o.s2), (d.s3, o.s3)]
  | .i q _ _ o => [(match q with
    | .wide | .moviHi => .w
    | .movi | .spec | .imm => .none, o.s1)]
  | .m _ o => [(.r32, o.ix)]
  | .b k _ o => match k with
    | .bra => []
    | .brc => [(.r32, o.s1), (.r32, o.s2)]
    | .brp => [(.pred, o.s1)]
    | .call => [(.none, o.s1)]
  | .pair o => [(.w, o.h0.s), (.w, o.h1.s)]
  | .event => []

/-- X class S with x0 = 1 on the vector core: an s-register destination (R30). -/
def sDestOf (k : CoreKind) (i : Instr) : Bool :=
  match i.desc with
  | .a d o => d.sDest k o
  | _ => false

/-- Is the source a 64-bit register pair (R81, R88)? -/
def isPairSrc : SKind → Bool
  | .r64 | .link => true
  | _ => false

/-- How many 32-bit data registers a format M word reads (R35, R113, R117, R123). -/
def dataRegs (d : MDesc) (sz : BitVec 3) : Nat :=
  match d.data with
  | .store => if sz = 6 then 4 else if sz = 5 then 2 else 1
  | .upd32 => 1
  | .upd64 => 2
  | .one => if sz = 1 ∨ sz = 3 then 2 else 1
  | .two => if sz = 1 ∨ sz = 3 then 4 else 2
  | _ => 0

/-- How many registers a load, or the destination of a returning atomic, names. -/
def loadRegs (d : MDesc) (sz : BitVec 3) : Nat :=
  match d.data with
  | .load => if sz = 6 then 4 else if sz = 5 then 2 else 1
  | _ => dataRegs d sz

/-- The flat indices that a word names on the vector core, for the register-range check (R15, R44 check 4). -/
def regsNamed (i : Instr) : List Nat :=
  let src (p : SKind × Src) : List Nat :=
    match p.1, p.2 with
    | .none, _ => []
    | .pred, _ => []
    | q, .reg f => if isPairSrc q then [f.toNat, f.toNat + 1] else [f.toNat]
    | _, _ => []
  let run (n k : Nat) : List Nat := (List.range k).map (fun j => n + j)
  let dst : List Nat := match i.desc with
    | .a d o => match d.d with
      | .t => [o.d.toNat]
      | .ts => if d.sDest .vector o then [] else [o.d.toNat]
      | .e | .grab => run o.d.toNat 2
      | .k => [o.d.toNat]
      | _ => []
    | .i q _ _ o => if q = .imm then [] else [o.d.toNat]
    | .m d o => match d.data with
      | .none | .level => []
      | _ => run o.d.toNat (loadRegs d o.sz)
    | .b k _ o => match k, o.s1 with
      | .call, .reg f => run f.toNat 2
      | _, _ => []
    | .pair o => (if o.h0.op = 0 then [] else [o.h0.d.toNat]) ++ (if o.h1.op = 0 then [] else [o.h1.d.toNat])
    | .event => []
  (sources i).foldl (fun l p => l ++ src p) [] ++ dst

/-- Register allocation (R15): every general register lies below the allocation. -/
def regsInRange (regs : Nat) (i : Instr) : Bool := (regsNamed i).all (fun n => decide (480 ≤ n) || decide (n < regs))

/-- Latch entries that a word reads (R37). -/
def latchReads (i : Instr) : List Nat :=
  (sources i).filterMap (fun p => match p.1, p.2 with
    | .none, _ => none
    | _, .latch f => some f.toNat
    | _, _ => none)

/-- Unit s-registers that a vector word reads or writes: those that stall it while they are pending tokens (R126). -/
def sregsNamed (i : Instr) : List Nat :=
  (sources i).filterMap (fun p => match p.1, p.2 with
    | .none, _ => none
    | _, .sreg f => some f.toNat
    | _, _ => none) ++
  (match i.desc with
   | .a d o => if d.sDest .vector o then [o.d.toNat] else []
   | _ => [])

/-- σ of a source (R59). -/
def sigma (iv : NatMap Iv) : Src → Iv
  | .reg f => if 480 ≤ f.toNat then ivGet iv (f.toNat - 480) else Iv.top
  | .lit f => Iv.exact f.toInt
  | _ => Iv.top

/-- What a word captured at issue (R176): operands by lane, data registers by 4 * lane + index, and each source's σ; of a word
that finishes after its issue also the array register that it read then (R110). `seq` tells its requests from those of other words. -/
structure Cap where
  agent : Agent
  kind : CoreKind
  instr : Instr
  word : BitVec 64
  pc : Pc
  present : List Nat
  active : List Nat
  v1 : NatMap DWord
  v2 : NatMap DWord
  v3 : NatMap DWord
  dat : NatMap DWord
  i1 : Iv
  i2 : Iv
  i3 : Iv
  replay : Bool
  reg : Option ArrayReg
  seq : Nat
deriving DecidableEq, Repr

def Cap.a1 (c : Cap) (lane : Nat) : DWord := NatMap.get 0 c.v1 lane
def Cap.a2 (c : Cap) (lane : Nat) : DWord := NatMap.get 0 c.v2 lane
def Cap.a3 (c : Cap) (lane : Nat) : DWord := NatMap.get 0 c.v3 lane
def Cap.datum (c : Cap) (lane i : Nat) : DWord := NatMap.get 0 c.dat (4 * lane + i)
/-- Lowest active lane. -/
def Cap.low (c : Cap) : Nat := c.active.headD 0
/-- Lowest present lane. -/
def Cap.lowP (c : Cap) : Nat := c.present.headD 0

/-- The w-bit value of an integer operand (R57): thread registers, latch entries and literals are narrow sources, which are
extended. -/
def wide (c : Cap) (w64 zeroExt : Bool) (src : Src) (v : DWord) : DWord :=
  if c.kind = .quartz then v
  else if !w64 then (v.setWidth 32).setWidth 64
  else
    match src with
    | .reg _ | .latch _ | .lit _ => if zeroExt then (v.setWidth 32).setWidth 64 else (v.setWidth 32).signExtend 64
    | _ => v

/-- Unit and thread of a lane of the issuing group. -/
def Cap.uid (c : Cap) (s : State) : Nat :=
  match c.agent with
  | .group k sl => match s.group? k sl with | some g => g.uid | none => 0
  | _ => 0

def groupOf (s : State) : Agent → Option Group
  | .group k sl => s.group? k sl
  | _ => none

def unitOf (s : State) (a : Agent) : Option Unit_ := (groupOf s a).bind (fun g => s.unit? g.uid)

/-- Thread index of a lane. -/
def laneThread (s : State) (a : Agent) (lane : Nat) : Nat :=
  match groupOf s a with
  | some g => (NatMap.get none g.lanes lane).getD 0
  | none => 0

def coreOf : Agent → Nat
  | .group c _ => c
  | .quartz cl _ => 4 * cl

def clusterOf : Agent → Nat
  | .group c _ => c / 4
  | .quartz cl _ => cl

def dieOf (a : Agent) : Nat := dieOfCluster (clusterOf a)

-- Destinations.

/-- Write one flat register in some lanes (R16). -/
def writeLanes (s : State) (c : Cap) (d : Nat) (vals : List (Nat × Word)) : State :=
  s.modUnit (c.uid s) (fun u =>
    vals.foldl (fun u p => u.modThread (laneThread s c.agent p.1) (fun t => t.setReg d p.2)) u)

/-- The interval of a k destination (R59, steps 2 and 3): out-of-range bounds become TOP; a word that leaves out a present
lane takes the hull (R177 for a re-issued word). [DEDUCED, log 37] -/
def writeIv (s : State) (c : Cap) (d : Nat) (n : Iv) : State :=
  if d < 480 then s
  else
    let n := if n.lo < -2147483648 ∨ 2147483647 < n.hi then Iv.top else n
    match c.agent with
    | .group k sl => s.modGroup k sl (fun g =>
        { g with iv := ivSet g.iv (d - 480) (if c.active = g.members.map Prod.fst then n else Iv.hull (ivGet g.iv (d - 480)) n) })
    | _ => s

/-- Write a thread register in the active lanes, with N for a k destination. -/
def writeT (s : State) (c : Cap) (d : Nat) (n : Iv) (f : Nat → Word) : State :=
  writeIv (writeLanes s c d (c.active.map (fun l => (l, f l)))) c d n

/-- Write a register pair (D class E) in the active lanes. -/
def writePair (s : State) (c : Cap) (d : Nat) (f : Nat → DWord) : State :=
  writeLanes (writeLanes s c d (c.active.map (fun l => (l, (f l).setWidth 32)))) c (d + 1)
    (c.active.map (fun l => (l, (f l >>> 32).setWidth 32)))

/-- Write a predicate in the active lanes. -/
def writeP (s : State) (c : Cap) (n : Nat) (f : Nat → Bool) : State :=
  s.modUnit (c.uid s) (fun u =>
    c.active.foldl (fun u l => u.modThread (laneThread s c.agent l) (fun t => t.setPred n (f l))) u)

/-- Write an s-register of the Quartz context. -/
def writeQ (s : State) (c : Cap) (n : Nat) (v : DWord) : State :=
  match c.agent with
  | .quartz cl x => s.modCtx cl x (fun q => q.setSreg n v)
  | _ => s

/-- The lanes whose value differs from the first lane's; empty when all agree. -/
def differing (lanes : List Nat) (f : Nat → DWord) : List Nat :=
  match lanes with
  | [] => []
  | l :: r => r.filter (fun x => f x != f l)

/-- Lowest and highest of the captured 32-bit values over some lanes: σ of a re-issued source (R177). [DEDUCED, log 37] -/
def capturedIv (lanes : List Nat) (f : Nat → DWord) : Iv :=
  match lanes with
  | [] => Iv.top
  | l :: r => r.foldl (fun v x => Iv.hull v (Iv.exact ((f x).setWidth 32).toInt)) (Iv.exact ((f l).setWidth 32).toInt)

/-- Set the bounds flag of some lanes (R111). -/
def setBounds (s : State) (c : Cap) (lanes : List Nat) : State :=
  s.modUnit (c.uid s) (fun u => lanes.foldl (fun u l => u.modThread (laneThread s c.agent l) (fun t => { t with bounds := true })) u)

/-- The word clears the region marks of every thread of its group, in a word that acts for some of its lanes too (R186).
[DEDUCED, log 37] -/
def clearMarks (s : State) (c : Cap) : State :=
  match groupOf s c.agent with
  | none => s
  | some g => s.modUnit g.uid (fun u =>
      g.members.foldl (fun v p => v.modThread (laneThread s c.agent p.1) (fun t => { t with mark := none })) u)

/-- Build the capture of a word at issue (R44, R176). [DEDUCED, log 37] -/
def capture (s : State) (a : Agent) (i : Instr) (word : BitVec 64) (fr : Front) : Option Cap :=
  let src := sources i
  let nth (n : Nat) : SKind × Src := src.getD n (.none, .reg 0)
  match a with
  | .quartz cl x => (s.ctx? cl x).map (fun c =>
      let rd (n : Nat) : NatMap DWord := if (nth n).1 = .none then [] else NatMap.set 0 [] 0 (readQ (litKind i n) c (nth n).2)
      { agent := a, kind := .quartz, instr := i, word := word, pc := fr.pc, present := [0], active := [0],
        v1 := rd 0, v2 := rd 1, v3 := rd 2, dat := [], i1 := .top, i2 := .top, i3 := .top, replay := false, reg := none, seq := s.nextSeq })
  | .group k sl =>
    (s.group? k sl).bind (fun g => (s.unit? g.uid).map (fun u =>
      let mem := g.members
      let sd := sDestOf .vector i
      let guard : Option Guard := match i.desc with
        | .a _ o => some o.g
        | .m _ o => some o.g
        | _ => none
      let passes (t : Nat) : Bool := match guard with
        | some gd => !gd.en || ((u.thread t).pred gd.p.toNat != gd.neg)
        | none => true
      let rd (n : Nat) : NatMap DWord :=
        let q := nth n
        if q.1 = .none then []
        else mem.foldl (fun m p => NatMap.set 0 m p.1
          (if q.1 = .pred then predOf (u.thread p.2) q.2
           else readV (litKind i n) u s.clock (u.thread p.2) fr.latch p.1 (isPairSrc q.1) (SKind.is64 sd q.1 q.2) q.2)) []
      let dat : NatMap DWord := match i.desc with
        | .m d o => mem.foldl (fun m p => (List.range (dataRegs d o.sz)).foldl (fun m j =>
            NatMap.set 0 m (4 * p.1 + j) (((u.thread p.2).reg (o.d.toNat + j)).setWidth 64)) m) []
        | _ => []
      { agent := a, kind := .vector, instr := i, word := word, pc := fr.pc, present := mem.map Prod.fst,
        active := (mem.filter (fun p => passes p.2)).map Prod.fst,
        v1 := rd 0, v2 := rd 1, v3 := rd 2, dat := dat,
        i1 := sigma g.iv (nth 0).2, i2 := sigma g.iv (nth 1).2, i3 := sigma g.iv (nth 2).2, replay := false, reg := none, seq := s.nextSeq }))

end Sys2Proof.Machine
end

