-- ==== Sys2Proof/Machine/Issue.lean ====
section
/-! DEFINITION. The issue of one word: the checks of R44 in their order, what a performed word leaves (run position,
latch, program counter), run boundaries, traps, translation holds, and the comparison of redundant units. -/

namespace Sys2Proof.Machine

/-- How a meaning ends. -/
inductive Res where
  | ok (s : State)                                              -- performed; the group goes on at PC + 8
  | moved (s : State)                                           -- performed, run ended; the meaning placed its threads
  | placed (s : State)                                          -- performed; the front stands as the meaning left it
  | trap (s : State) (cause xaddr : Nat) (xmask : Word)
  | late (s : State) (cause xaddr : Nat) (xmask : Word)         -- performed, then a late fault (R322)
  | wait                                                        -- stalls: nothing happens this clock
  | hold (s : State) (f : Nat) (x : XFault) (lanes : Word)      -- translation fault (R233)
  | dead (s : State) (cause : Nat)                              -- fatal to the context (R331)
  | relaunch (s : State)                                        -- R360
deriving Repr

/-- Words of check 6 (R172). -/
def isPrivileged : Instr → Bool
  | .tret _ | .rplx _ | .rplw _ | .rpld _ | .xrd _ | .xwr _ => true
  | _ => false

/-- REFORM and the blocking words, which a handler may not use (R172). -/
def isNested : Instr → Bool
  | .reform _ | .bar _ | .bwait _ | .qpush _ | .qpop _ | .twait _ | .cntw _ => true
  | _ => false

/-- Read-modify-writes and partial updates (R186, R359). -/
def isUpdate : Instr → Bool
  | .atomAdd _ | .atomAnd _ | .atomOr _ | .atomXor _ | .atomMin _ | .atomMax _ | .atomExch _ | .atomIncw _
  | .atomDecw _ | .atomAddb _ | .atomfAdd _ | .atomfMin _ | .atomfMax _ | .cas _ | .redAdd _ | .redAnd _ | .redOr _
  | .redXor _ | .redMin _ | .redMax _ | .updAddI32 _ | .updAddI64 _ | .updAddF32 _ | .updMinI32 _ | .updMaxI32 _
  | .updMinN32 _ | .updMaxN32 _ | .updMinF32 _ | .updMaxF32 _ | .updOrB32 _ | .updXorB32 _ | .updAndB32 _ => true
  | _ => false

/-- Words that clear the region mark (R186); IDEM.end does so in its meaning. -/
def clearsMark (i : Instr) : Bool :=
  isUpdate i || (match i with
    | .cpyf o => o.x != 0
    | .qpush _ | .qpop _ | .rgrab _ | .lnch _ | .cncl _ | .trap _ | .sysc _ => true
    | _ => false)

/-- Words that end a unit's relaunchability (R359). -/
def endsContainment (i : Instr) : Bool :=
  isUpdate i || (match i with
    | .cpyf _ | .bscat _ | .lnch _ | .cncl _ | .qpush _ => true
    | _ => false)

/-- Words compared under REDUNDANT (R357): writes of global memory or X, engine starts, queue pushes, barrier updates,
launches and control transfers. -/
def isCompared (i : Instr) : Bool :=
  isUpdate i || (match i with
    | .st _ | .stx _ | .cpy _ | .cpym _ | .cpyw _ | .cpyf _ | .bgath _ | .bscat _ | .topk _ | .binit _ | .bexp _
    | .qinit _ | .qpush _ | .qpop _ | .lnch _ | .bra _ | .brc _ | .brp _ | .jmpx _ | .call _ | .ret _ | .reform _ | .exit _ => true
    | _ => false)

/-- Element width of a format code, in bits (R101). -/
def slotWidth (fmt : Nat) : Nat := if fmt < 2 then 32 else if fmt < 4 then 16 else if fmt = 7 ∨ fmt = 9 ∨ fmt = 11 then 4 else 8

def slotSet (rc : LaunchRec) (n : Nat) : Bool := rc.slotset.getLsbD n
def slotOf (rc : LaunchRec) (n : Nat) : DWord := NatMap.get 0 rc.slots n
def slotFmt (rc : LaunchRec) (n : Nat) : Nat := (bits (slotOf rc n) 0 4).toNat

/-- The part of check 3 that reads the launch's format slots (R101, R159). -/
def slotsOk (rc : LaunchRec) (readB : Src → Option DWord) (i : Instr) : Bool :=
  let conv (o : AOps) : Bool :=
    slotSet rc o.x.toNat && (match o.s2 with
      | .lit f => !f.getLsbD 8 && decide (f.toNat < 32 / slotWidth (slotFmt rc o.x.toNat))
      | _ => false)
  let pass (o : AOps) : Bool :=
    slotSet rc o.x.toNat && (match readB o.s2 with
      | some b => slotSet rc (bits b 37 3).toNat
      | none => true)
  match i with
  | .cvts o => conv o
  | .cvtl o => conv o
  | .mma o => pass o
  | .mmas o => pass o
  | .mqnt o => slotSet rc o.x.toNat
  | _ => true

/-- Kind of core of an agent. -/
def Agent.kind : Agent → CoreKind
  | .group _ _ => .vector
  | .quartz _ _ => .quartz

/-- Reads S2 of a matrix pass where check 5 allows it (R159). -/
def readBWord (s : State) (a : Agent) (fr : Front) (src : Src) : Option DWord :=
  match a, src with
  | .quartz cl c, .latch f => if latchOk fr.latch f.toNat fr.j then (s.ctx? cl c).map (fun x => readQ .int x (.latch f)) else none
  | .quartz cl c, q => (s.ctx? cl c).map (fun x => readQ .int x q)
  | _, _ => none

/-- Is the run framing broken at this word (R26)? [DEDUCED, log 34] -/
def badRun (i : Instr) (j : Nat) : Bool := (i.ends && !i.eBit) || (decide (23 ≤ j) && !i.eBit)

/-- The first failed check among 1 to 6 of R44, as its cause code (R319). -/
def checkWord (s : State) (a : Agent) (fr : Front) (rc : LaunchRec) (i : Instr) : Option Nat :=
  if !i.classOk a.kind then some 1
  else if badRun i fr.j then some 2
  else if !i.wf a.kind || !slotsOk rc (readBWord s a fr) i then some 3
  else if a.kind == .vector && !regsInRange rc.regs i then some 4
  else if !(latchReads i).all (fun f => latchOk fr.latch f fr.j) then some 5
  else if isPrivileged i && !fr.priv then some 6
  else none

/-- Is the s-register a pending token of the unit (R126)? -/
def tokenPending (s : State) (uid n : Nat) : Bool :=
  s.engineOps.any (fun o => o.uid == uid && o.token == n)

/-- Does a TOPK in flight still owe the register to one of the threads (R143)? -/
def topkPending (s : State) (uid : Nat) (ts : List Nat) (n : Nat) : Bool :=
  s.topks.any (fun t => t.uid == uid && t.d.toNat == n && ts.any t.threads.contains)

/-- Words whose translation, or whose access at the home, can outlast their issue: they may stand unfinished (R322).
[DEDUCED, log 14] -/
def mayStand (i : Instr) : Bool :=
  isUpdate i || (match i with
    | .ld _ | .ldu _ | .st _ => true
    | _ => false)

/-- Words that act on registers alone, and may issue and finish while older words of the group stand unfinished.
[DEDUCED, log 14] -/
def registersOnly (i : Instr) : Bool :=
  match i.desc with
  | .pair _ => true
  | .i _ _ ends _ => !ends
  | .a d _ => (match d.cls with | .q => false | _ => true) && !d.ends && (match i with
    | .aset _ | .aget _ | .fence _ | .cpy _ | .cpym _ | .cpyw _ | .cpyf _ | .bgath _ | .bscat _ | .seal _ | .reclaim _
    | .binit _ | .bexp _ | .qinit _ | .tread _ | .topk _ | .bvmask _ | .rplx _ | .rplw _ | .rpld _ | .xrd _ | .xwr _
    | .rinit _ | .rgrab _ | .lnch _ | .cncl _ | .dlread _ | .idem _ => false
    | _ => true)
  | _ => false

/-- Does the word wait until every older word of its group has finished (R322)? A run ends, and another kind of word acts,
behind them all. [DEDUCED, log 14] -/
def drains (i : Instr) : Bool := i.ends || i.eBit || !(mayStand i || registersOnly i)

/-- Does the group hold as many unfinished words as it may (R322)? -/
def fullOfWords (fr : Front) : Bool := decide (16 ≤ fr.unfinished.length)

/-- The registers that an unfinished word will write. -/
def owedRegs (u : Unfinished) : List Nat :=
  match decode u.entry.word with
  | .word i => (match i.desc with
    | .m d o => (match d.data with
      | .store | .upd32 | .upd64 => []
      | _ => (List.range (loadRegs d o.sz)).map (fun j => o.d.toNat + j))
    | _ => [])
  | .unassigned _ => []

/-- Must the word wait for unfinished words (R322): one that drains, one that names a register they will write, or one more than
a group may hold? [DEDUCED, log 14] -/
def behind (fr : Front) (i : Instr) : Bool :=
  fr.unfinished != [] && (drains i || fullOfWords fr
    || (regsNamed i).any (fun n => fr.unfinished.any (fun u => (owedRegs u).contains n)))

/-- Must the word wait before it issues: a pending token, or a register a TOPK will write? [DEDUCED, log 14] -/
def scoreboard (s : State) (a : Agent) (i : Instr) : Bool :=
  match groupOf s a with
  | none => false
  | some g =>
    (sregsNamed i).any (tokenPending s g.uid)
      || (regsNamed i).any (topkPending s g.uid (g.members.map Prod.snd))

/-- Must a unit that is to be saved stand at its run boundaries: it is to be restarted, no barrier is partly arrived, or the deferral
has ended (R296, R326, R327)? -/
def saveStands (s : State) (u : Unit_) : Bool :=
  match u.saveBy with
  | some d => u.restarts || decide (d ≤ s.clock) || !partlyArrived s u
  | none => false

/-- Must the agent stand: its unit is to be relaunched (R360), or, at its run boundary, a save is under way, the unit or the
context's launch is stopping, or the group is marked for dissolution (R184, R198, R327)? -/
def standing (s : State) (a : Agent) (fr : Front) : Bool :=
  (match unitOf s a with
    | some u => u.relaunchDue
    | none => false) || fr.j == 0 && (match a with
    | .group k sl => (match unitOf s a with
      | some u => saveStands s u || u.stopping
      | none => false) || (match s.group? k sl with
      | some g => g.marked && !fr.priv
      | none => false)
    | .quartz cl c => (match s.ctx? cl c with
      | some x => (x.saveBy.isSome && x.tl.c == x.tl.i) || x.exiting || x.park.isSome
          || (match launchOf s x.func x.launch with
            | some l => l.obj.cancelAt.isSome
            | none => false)
      | none => false))

-- Boundaries.

/-- Take a group away and file its threads at its program counter (R198, R327). -/
def dissolve (s : State) (core slot : Nat) : State :=
  match s.group? core slot with
  | none => s
  | some g => filePc (s.setGroup core slot none) g.uid g.front.pc (g.members.map Prod.snd) g.iv

/-- End the threads of a group of a unit that stops (R184). [DEDUCED, log 50] -/
def stopGroup (s : State) (core slot : Nat) : State :=
  match s.group? core slot with
  | none => s
  | some g =>
    (s.setGroup core slot none).modUnit g.uid (fun u =>
      g.members.foldl (fun v p => v.modThread p.2 (fun t => { t with exited := true })) u)

/-- What happens when a run of a group has ended: the group of a cancelled unit ends (R184). -/
def boundary (s : State) (a : Agent) : State :=
  match a with
  | .quartz _ _ => s
  | .group k sl =>
    match s.group? k sl with
    | none => s
    | some g =>
      match s.unit? g.uid with
      | none => s
      | some u =>
        if u.stopping then stopGroup s k sl else s

/-- Count an ended run of a group's unit (R325). -/
def countRun (s : State) (a : Agent) (uid : Nat) : State :=
  match a with
  | .group _ _ => s.modUnit uid (fun u => { u with runs := u.runs + 1 })
  | .quartz _ _ => s

/-- A run has ended: position 0, an empty latch, one more run counted, and the boundary. -/
def endRun (s : State) (a : Agent) (uid : Nat) : State :=
  boundary (countRun (modFront s a (fun f => { f with j := 0, latch := [] })) a uid) a

/-- What the word retains (R37): the entry written at its position, if any. -/
def retained (c : Cap) : Option (NatMap DWord) :=
  match c.instr.desc with
  | .a _ o => match o.h with
    | .none => none
    | .s1 => some c.v1
    | .s2 => some c.v2
    | .s3 => some c.v3
  | .pair o => if o.h0.h then some c.v1 else if o.h1.h then some c.v2 else none
  | _ => none

/-- Latch after a word at position `j`. -/
def latchAfter (latch : List LatchEntry) (j : Nat) (r : Option (NatMap DWord)) : List LatchEntry :=
  match r with
  | none => latch
  | some v => ⟨j, v⟩ :: latch.filter (fun e => e.pos % 3 != j % 3)

/-- A performed word: the next word of the run, or the run's end (R25, R26). -/
def advance (s : State) (a : Agent) (c : Cap) (uid : Nat) : State :=
  let s1 := modFront s a (fun f => { f with
    pc := f.pc + 8, j := f.j + 1, latch := latchAfter f.latch f.j (retained c) })
  if c.instr.eBit then endRun s1 a uid else s1

/-- The replay entry of a word (R176). -/
def entryOf (c : Cap) (stat : Nat) : ReplayEntry :=
  { word := c.word, pc := c.pc, mask := laneMask c.active, stat := BitVec.ofNat 8 stat,
    op1 := c.v1, op2 := c.v2, op3 := c.v3, dat := c.dat, keeps := none, raised := none }

/-- What a trapping word leaves in XPC, RPOS, RESUME and the queue (R171, R174, R320). `ends` is R27, `e` the E bit. A mismatched
word is an entry in any case (R358). [DEDUCED, log 35; DEDUCED, log 36] -/
def trapInfo (fr : Front) (cause xaddr : Nat) (xmask : Word) (entry : ReplayEntry) (ends e soft : Bool) : TrapInfo :=
  if soft then ⟨cause, xaddr, xmask, none, [], fr.pc + 8, 0, false⟩
  else if cause = 0x1B ∧ ends then ⟨cause, xaddr, xmask, some entry, [], fr.pc + 8, 0, false⟩
  else if ends then ⟨cause, xaddr, xmask, none, [], fr.pc, fr.j, true⟩
  else if e then ⟨cause, xaddr, xmask, some entry, [], fr.pc + 8, 0, false⟩
  else ⟨cause, xaddr, xmask, some entry, [], fr.pc + 8, fr.j + 1, true⟩

/-- [DEDUCED, log 36] -/
def isSoft : Instr → Bool
  | .trap _ | .sysc _ => true
  | _ => false

/-- The replay entries of the unfinished words, oldest first (R171). -/
def standingEntries (fr : Front) : List ReplayEntry := fr.unfinished.map (·.entry)

/-- A run that a trapping word has ended is counted (R174, R325): TRAP, SYSC, or a word with E = 1 that is no control
transfer. -/
def countEnded (s : State) (a : Agent) (uid : Nat) (ends e soft : Bool) : State :=
  if soft || (e && !ends) then countRun s a uid else s

/-- A trap of the word in hand. The entry of a word that retains an operand still owes its latch entry (R37). -/
def trapWord (s : State) (a : Agent) (c : Cap) (uid cause xaddr : Nat) (xmask : Word) : State :=
  match frontOf s a with
  | none => s
  | some fr =>
    takeTrap (countEnded s a uid c.instr.ends c.instr.eBit (isSoft c.instr)) a (standingEntries fr)
      (trapInfo fr cause xaddr xmask { entryOf c cause with keeps := (retained c).map (fun _ => fr.j) }
        c.instr.ends c.instr.eBit (isSoft c.instr))

/-- A late fault (R322): the word has performed; the trap comes before the next word of the group. A run that the word
ended has ended. -/
def trapLate (s : State) (a : Agent) (c : Cap) (uid cause xaddr : Nat) (xmask : Word) : State :=
  let s1 := modFront s a (fun f => { f with
    pc := f.pc + 8, j := f.j + 1, latch := latchAfter f.latch f.j (retained c) })
  let s2 := if c.instr.eBit then countRun (modFront s1 a (fun f => { f with j := 0, latch := [] })) a uid else s1
  match frontOf s2 a with
  | none => s2
  | some fr => takeTrap s2 a (standingEntries fr) ⟨cause, xaddr, xmask, none, [], fr.pc, fr.j, !c.instr.eBit⟩

/-- A unit that is to be relaunched stands still until UNIT_RELAUNCH (R360). -/
def markRelaunch (s : State) (uid : Nat) : State := s.modUnit uid (fun u => { u with relaunchDue := true })

/-- May the unit be relaunched (R359, R360)? -/
def Unit_.canRelaunch (u : Unit_) : Bool := u.contain && u.relaunchable && !u.relaunched

/-- One buffered write reaches its home as a store (R359, R356). -/
def performBuffered (s : State) (uid f core : Nat) (w : BufWrite) : State :=
  let q : Sent :=
    { id := s.nextSeq, by_ := .thread uid w.thread, func := f, die := dieOfCore core, core := core, quad := 0
      pa := w.pa, va := w.va, key := w.key, wordPc := w.aux1, word := s.nextSeq, foot := (w.va, w.data.length), kind := .write w.data
      preds := sendPreds s (dieOfCore core) (ownOf s (.thread uid w.thread)), after := [], through := false }
  performAs w.consumer s q

/-- Perform the store buffer of a contained unit in program order (R359). [DEDUCED, log 62] -/
def performBuffer (s : State) (uid : Nat) : State :=
  match s.unit? uid with
  | none => s
  | some u => u.buffer.foldl (fun st w => performBuffered st uid u.func u.core w)
      (s.modUnit uid (fun v => { v with buffer := [] }))

/-- The unit becomes non-relaunchable (R359): the buffer is performed and NORELAUNCH counts. -/
def endContainment (s : State) (uid : Nat) : State :=
  match s.unit? uid with
  | none => s
  | some u =>
    if u.contain && u.relaunchable then
      (bumpCounter (performBuffer s uid) u.func 7).modUnit uid (fun v => { v with relaunchable := false })
    else s

/-- Finish a step for an agent from what its meaning answered. [DEDUCED, log 14] -/
def finish (s : State) (a : Agent) (c : Cap) (uid f : Nat) (r : Res) : Host.Outcome State Fault Refusal :=
  match r with
  | .ok s1 => .next (flushReports (advance s1 a c uid))
  | .moved s1 => .next (flushReports (endRun s1 a uid))
  | .placed s1 => .next (flushReports s1)
  | .trap s1 cause xaddr xmask => .next (flushReports (trapWord s1 a c uid cause xaddr xmask))
  | .late s1 cause xaddr xmask => .next (flushReports (trapLate s1 a c uid cause xaddr xmask))
  | .wait => .next s
  | .hold s1 g x lanes =>
    let r := addFault s1 g x 0 a.site lanes false (.agent a false)
    .next (flushReports (modFront r.2 a (fun fr => { fr with hold := some (.fault r.1 (some (entryOf c 0x18))) })))
  | .dead s1 n => .next (flushReports (fatal s1 f n a.site))
  | .relaunch s1 => .next (flushReports (markRelaunch s1 uid))

/-- The lanes that differ between leader and shadow at a compared word (R357), as the environment gives them. -/
def mismatch (s : State) (u : Unit_) (c : Cap) : Word :=
  let paired : Bool := match groupOf s c.agent with
    | some g => g.paired
    | none => false
  if u.redundant && paired && isCompared c.instr then s.upset &&& laneMask c.present else 0

/-- The group runs on without its shadow, or with a new one (R358). -/
def setPaired (s : State) (a : Agent) (v : Bool) : State :=
  match a with
  | .group k sl => s.modGroup k sl (fun g => { g with paired := v && g.shadow.isSome })
  | .quartz _ _ => s

/-- The record of a mismatch (R362): 1 trap, 2 relaunch. Its range is the word's own bytes. [DEDUCED, log 62] -/
def reportMismatch (s : State) (u : Unit_) (c : Cap) (what : Nat) : State :=
  s.report ⟨6, 6, 0x0A, none, some c.pc.toNat, 8, u.func, c.agent.site, what, c.pc.toNat⟩

/-- A mismatch of a redundant unit (R358). [DEDUCED, log 35] -/
def mismatchRes (s : State) (u : Unit_) (c : Cap) (diff : Word) : Res :=
  if u.canRelaunch then .relaunch (reportMismatch s u c 2)
  else .trap (reportMismatch (setPaired s c.agent false) u c 1) 0x1B c.pc.toNat diff

/-- A read of a written token acquires its operation's writes (R126, R248): the core drops its L1. -/
def tokenAcquire (s : State) (u : Unit_) (i : Instr) : State :=
  let read := (sources i).filterMap (fun p => match p.1, p.2 with
    | .none, _ => none
    | .tok, _ => none
    | _, .sreg f => some f.toNat
    | _, _ => none)
  if read.any (fun n => NatMap.get 0 u.tokens n != 0) then dropL1 s u.core else s

/-- Has the word done nothing: it trapped, it waits, or it met a translation fault? -/
def Res.stops : Res → Bool
  | .trap _ _ _ _ | .wait | .hold _ _ _ _ | .dead _ _ => true
  | _ => false

/-- What a mismatch of a redundant unit comes to: check 7 comes before it (R44, R358). -/
def mismatchOr (s : State) (u : Unit_) (c : Cap) (r : Res) : Res :=
  match r with
  | .trap s1 7 xaddr xmask => .trap s1 7 xaddr xmask
  | _ => mismatchRes s u c (mismatch s u c)

/-- What a word does to the marks and to the containment of its unit before it acts (R186, R359). RGRAB clears the marks when its
grab is made. -/
def unmark (s : State) (c : Cap) : State :=
  let s1 := if clearsMark c.instr && !(match c.instr with
    | .rgrab _ => true
    | _ => false) then clearMarks s c else s
  if endsContainment c.instr then endContainment s1 (c.uid s) else s1

/-- The meaning of the word under the checks that surround it: REDUNDANT, handler restrictions, containment, marks. A word
that stops has changed neither mark nor containment; TRAP and SYSC clear the marks. [DEDUCED, log 14] -/
def perform (body : Cap → State → Res) (c : Cap) (priv : Bool) (s : State) : Res :=
  match c.agent with
  | .quartz _ _ => if (priv && isNested c.instr) = true then .dead s 1 else body c s
  | .group _ _ =>
    match unitOf s c.agent with
    | none => body c s
    | some u =>
      if (priv && isNested c.instr) = true then .dead s 1
      else if mismatch s u c ≠ 0 then mismatchOr s u c (body c s)
      else
        let s0 := tokenAcquire s u c.instr
        let r := body c s0
        if (clearsMark c.instr || endsContainment c.instr) && (isSoft c.instr || !r.stops) then body c (unmark s0 c) else r

/-- Is the word one that goes on unfinished: no trap, and no fault that is found as it issues? -/
def Res.stands (later : Bool) : Res → Bool
  | .ok _ | .moved _ | .placed _ | .late _ _ _ _ => true
  | .hold _ _ _ _ => later
  | _ => false

/-- The array register of a format M word, as its group reads it at this clock (R105, R109). -/
def wordReg (s : State) (a : Agent) (i : Instr) : ArrayReg :=
  match i.desc, unitOf s a with
  | .m _ o, some u => u.aregAt s.clock o.ar.toNat
  | _, _ => .reset

/-- The word has issued and stands unfinished: the group goes on behind it (R171, R322). -/
def standBy (s : State) (a : Agent) (i : Instr) (e : ReplayEntry) (iv : Iv) : State :=
  modFront s a (fun q => { q with pc := q.pc + 8, j := q.j + 1, unfinished := q.unfinished ++ [⟨e, iv, wordReg s a i⟩] })

/-- One word of the current agent (R44): held and standing agents wait, and a word waits for the unfinished ones that it
follows; checks 1 to 6; then the meaning. -/
def issueAs (a : Agent) (i : Instr) (body : Cap → State → Res) (s : State) : Host.Outcome State Fault Refusal :=
  match frontOf s a, agentLaunch s a with
  | some fr, some (f, l) =>
    if fr.hold.isSome || standing s a fr then .next s
    else
      let word := (encode i).getD 0
      match capture s a i word fr with
      | none => .next s
      | some c =>
        if behind fr i then .next s
        else
          match checkWord s a fr (recOf s f l) i with
          | some cause => finish s a c (c.uid s) f (.trap s cause fr.pc.toNat (laneMask c.present))
          | none =>
            if scoreboard s a i then .next s
            else
              let r := perform body c fr.priv s
              if mayStand i && !i.eBit && !fr.priv && (s.later || fr.unfinished != []) && r.stands s.later then
                .next (standBy s a i (entryOf c 0) c.i1)
              else finish s a c (c.uid s) f r
  | _, _ => .refused (.notEnabled "no agent")

/-- One word for the agent whose turn it is. -/
def issue (i : Instr) (body : Cap → State → Res) (s : State) : Host.Outcome State Fault Refusal :=
  match s.cur with
  | some a => issueAs a i body s
  | none => .refused (.notEnabled "no agent")

/-- Must a word of an unassigned opcode wait: one that ends the run, or one more than a group may hold (R322)? -/
def unassignedWaits (fr : Front) (word : BitVec 64) : Bool := (fr.unfinished != [] && word.getLsbD 63) || fullOfWords fr

/-- A word whose opcode is unassigned (R43): check 1 fails. -/
def issueUnassigned (a : Agent) (word : BitVec 64) (s : State) : Host.Outcome State Fault Refusal :=
  match frontOf s a with
  | none => .refused (.notEnabled "no agent")
  | some fr =>
    if fr.hold.isSome || standing s a fr then .next s
    else
      let present := match groupOf s a with
        | some g => laneMask (g.members.map Prod.fst)
        | none => 1
      let e : ReplayEntry := ⟨word, fr.pc, present, 1, [], [], [], [], none, none⟩
      if unassignedWaits fr word then .next s
      else
        .next (flushReports (takeTrap (countEnded s a (match groupOf s a with
          | some g => g.uid
          | none => 0) false (word.getLsbD 63) false) a (standingEntries fr)
          (trapInfo fr 1 fr.pc.toNat present e false (word.getLsbD 63) false)))

end Sys2Proof.Machine
end

