-- ==== Sys2Proof/Machine/Flags.lean ====
section
/-! DEFINITION. Conditions (R33, R94), interval refinement (R79), and the integer result functions with their interval
rules (R57, R60 to R66). Values are 64-bit patterns; `w` is the operation width, 32 or 64. -/

namespace Sys2Proof.Machine

/-- The signed and unsigned w-bit values of a pattern (R13). -/
def sv (w : Nat) (v : DWord) : Int := (v.setWidth w).toInt
def uv (w : Nat) (v : DWord) : Nat := (v.setWidth w).toNat
/-- wrap(t, w) (R13). -/
def wrapI (w : Nat) (t : Int) : DWord := (BitVec.ofInt w t).setWidth 64

/-- An integer condition of R33. -/
def intCond (code : BitVec 4) (w : Nat) (a b : DWord) : Bool :=
  match code.toNat with
  | 0 => uv w a == uv w b
  | 1 => uv w a != uv w b
  | 2 => decide (sv w a < sv w b)
  | 3 => decide (sv w a ≤ sv w b)
  | 4 => decide (sv w b < sv w a)
  | 5 => decide (sv w b ≤ sv w a)
  | 6 => decide (uv w a < uv w b)
  | 7 => decide (uv w a ≤ uv w b)
  | 8 => decide (uv w b < uv w a)
  | _ => decide (uv w b ≤ uv w a)

/-- The negated condition (R79). -/
def negCond (code : BitVec 4) : BitVec 4 :=
  match code.toNat with
  | 0 => 1
  | 1 => 0
  | 2 => 5
  | 3 => 4
  | 4 => 3
  | 5 => 2
  | 6 => 9
  | 7 => 8
  | 8 => 7
  | _ => 6

/-- New intervals of S1 and S2 on the side where the condition holds (R79). -/
def refine (code : BitVec 4) (a b : Iv) : Iv × Iv :=
  let lt : Iv × Iv := (⟨a.lo, min a.hi (b.hi - 1)⟩, ⟨max b.lo (a.lo + 1), b.hi⟩)
  let le : Iv × Iv := (⟨a.lo, min a.hi b.hi⟩, ⟨max b.lo a.lo, b.hi⟩)
  let gt : Iv × Iv := (⟨max a.lo (b.lo + 1), a.hi⟩, ⟨b.lo, min b.hi (a.hi - 1)⟩)
  let ge : Iv × Iv := (⟨max a.lo b.lo, a.hi⟩, ⟨b.lo, min b.hi a.hi⟩)
  let pos := decide (0 ≤ a.lo) && decide (0 ≤ b.lo)
  match code.toNat with
  | 0 => (⟨max a.lo b.lo, min a.hi b.hi⟩, ⟨max a.lo b.lo, min a.hi b.hi⟩)
  | 1 => (a, b)
  | 2 => lt
  | 3 => le
  | 4 => gt
  | 5 => ge
  | 6 => if pos then lt else (a, b)
  | 7 => if pos then le else (a, b)
  | 8 => if pos then gt else (a, b)
  | _ => if pos then ge else (a, b)

/-- A floating-point condition of R94 on two patterns. -/
def fpCond (code : BitVec 4) (f : Fmt) (a b : Nat) : Bool :=
  let x := decodeF f a
  let y := decodeF f b
  let ord := !x.isNan && !y.isNan
  match code.toNat with
  | 0 => ord && FVal.eq x y
  | 1 => !ord || !FVal.eq x y
  | 2 => ord && FVal.lt false x y
  | 3 => ord && (FVal.lt false x y || FVal.eq x y)
  | 4 => ord && FVal.lt false y x
  | 5 => ord && (FVal.lt false y x || FVal.eq x y)
  | 6 => ord
  | _ => !ord

-- Results of R60. `m` is the modifier x2:x1: 0 wrap, 1 sat, 2 satu.

/-- How an exact result reaches the destination (R60). -/
def landI (w : Nat) (m : BitVec 2) (t : Int) : DWord :=
  match m.toNat with
  | 0 => wrapI w t
  | 1 => wrapI w (clampZ t (-(2 ^ (w - 1))) (2 ^ (w - 1) - 1))
  | _ => wrapI w (clampZ t 0 (2 ^ w - 1))

/-- Operands of a sum: unsigned under satu. -/
def addend (w : Nat) (m : BitVec 2) (v : DWord) : Int := if m = 2 then (uv w v : Int) else sv w v

def vAdd (w : Nat) (m : BitVec 2) (a b : DWord) : DWord := landI w m (addend w m a + addend w m b)
def vSub (w : Nat) (m : BitVec 2) (a b : DWord) : DWord := landI w m (addend w m a - addend w m b)
def vMul (w : Nat) (a b : DWord) : DWord := wrapI w (sv w a * sv w b)
def vMulhi (w : Nat) (unsigned : Bool) (a b : DWord) : DWord :=
  if unsigned then wrapI w ((uv w a * uv w b / 2 ^ w : Nat) : Int) else wrapI w (sv w a * sv w b / 2 ^ w)
def vMad (w : Nat) (a b c : DWord) : DWord := wrapI w (sv w a * sv w b + sv w c)
def vNeg (w : Nat) (m : BitVec 2) (a : DWord) : DWord := landI w m (-(sv w a))
def vAbs (w : Nat) (m : BitVec 2) (a : DWord) : DWord := landI w m ((sv w a).natAbs : Int)
def vMin (w : Nat) (a b : DWord) : DWord := wrapI w (min (sv w a) (sv w b))
def vMax (w : Nat) (a b : DWord) : DWord := wrapI w (max (sv w a) (sv w b))
def vMinu (w : Nat) (a b : DWord) : DWord := wrapI w ((min (uv w a) (uv w b) : Nat) : Int)
def vMaxu (w : Nat) (a b : DWord) : DWord := wrapI w ((max (uv w a) (uv w b) : Nat) : Int)

-- Results of R62 and R63. The shift amount is bits [31:0] of S2.

def shAmt (b : DWord) : Nat := uv 32 b
def vShl (w : Nat) (a b : DWord) : DWord := if w ≤ shAmt b then 0 else wrapI w (sv w a * 2 ^ shAmt b)
def vShra (w : Nat) (a b : DWord) : DWord :=
  if w ≤ shAmt b then (if sv w a < 0 then wrapI w (-1) else 0) else wrapI w (sv w a / 2 ^ shAmt b)
def vShrl (w : Nat) (a b : DWord) : DWord := if w ≤ shAmt b then 0 else BitVec.ofNat 64 (uv w a / 2 ^ shAmt b)
def vRotl (w : Nat) (a b : DWord) : DWord := ((a.setWidth w).rotateLeft (shAmt b % w)).setWidth 64
def vAnd (w : Nat) (a b : DWord) : DWord := ((a &&& b).setWidth w).setWidth 64
def vOr (w : Nat) (a b : DWord) : DWord := ((a ||| b).setWidth w).setWidth 64
def vXor (w : Nat) (a b : DWord) : DWord := ((a ^^^ b).setWidth w).setWidth 64
def vAndn (w : Nat) (a b : DWord) : DWord := ((a &&& ~~~b).setWidth w).setWidth 64
def vNot (w : Nat) (a : DWord) : DWord := ((~~~a).setWidth w).setWidth 64
def vPopc (w : Nat) (a : DWord) : DWord := BitVec.ofNat 64 (((List.range w).filter (fun i => a.getLsbD i)).length)
def vClz (w : Nat) (a : DWord) : DWord :=
  BitVec.ofNat 64 (if uv w a = 0 then w else w - 1 - Nat.log2 (uv w a))
def vBrev (w : Nat) (a : DWord) : DWord :=
  BitVec.ofNat 64 ((List.range w).foldl (fun r i => if a.getLsbD i then r + 2 ^ (w - 1 - i) else r) 0)

/-- BFX and BFI (R64): the control operand's position and length. -/
def vBfx (w : Nat) (signed : Bool) (a c : DWord) : DWord :=
  let pos := uv 8 c
  let len := (bits c 8 8).toNat
  if len = 0 ∨ w ≤ pos then 0
  else
    let n := min len (w - pos)
    let f := uv w a / 2 ^ pos % 2 ^ n
    if signed then wrapI w (if f < 2 ^ (n - 1) then (f : Int) else (f : Int) - 2 ^ n) else BitVec.ofNat 64 f

def vBfi (w : Nat) (a b c : DWord) : DWord :=
  let pos := uv 8 c
  let len := (bits c 8 8).toNat
  if len = 0 ∨ w ≤ pos then (b.setWidth w).setWidth 64
  else
    let n := min len (w - pos)
    let f := uv w a % 2 ^ n
    let old := uv w b / 2 ^ pos % 2 ^ n
    BitVec.ofNat 64 (uv w b - old * 2 ^ pos + f * 2 ^ pos)

/-- PRMT (R65). -/
def vPrmt (a b c : DWord) : DWord :=
  let y (i : Nat) : Nat := if i < 4 then uv 32 a / 2 ^ (8 * i) % 256 else uv 32 b / 2 ^ (8 * (i - 4)) % 256
  let byte (i : Nat) : Nat :=
    let q := uv 16 c / 2 ^ (4 * i) % 16
    let v := y (q % 8)
    if q < 8 then v else if 128 ≤ v then 255 else 0
  BitVec.ofNat 64 (byte 0 + byte 1 * 256 + byte 2 * 65536 + byte 3 * 16777216)

-- Interval rules (R66).

def ivAdd (m : BitVec 2) (a b : Iv) : Iv :=
  match m.toNat with
  | 0 => ⟨a.lo + b.lo, a.hi + b.hi⟩
  | 1 => ⟨clampZ (a.lo + b.lo) (-2147483648) 2147483647, clampZ (a.hi + b.hi) (-2147483648) 2147483647⟩
  | _ => .top
def ivSub (m : BitVec 2) (a b : Iv) : Iv :=
  match m.toNat with
  | 0 => ⟨a.lo - b.hi, a.hi - b.lo⟩
  | 1 => ⟨clampZ (a.lo - b.hi) (-2147483648) 2147483647, clampZ (a.hi - b.lo) (-2147483648) 2147483647⟩
  | _ => .top
def ivMul (a b : Iv) : Iv :=
  ⟨min (min (a.lo * b.lo) (a.lo * b.hi)) (min (a.hi * b.lo) (a.hi * b.hi)),
   max (max (a.lo * b.lo) (a.lo * b.hi)) (max (a.hi * b.lo) (a.hi * b.hi))⟩
def ivMad (a b c : Iv) : Iv := ⟨(ivMul a b).lo + c.lo, (ivMul a b).hi + c.hi⟩
def ivMin (a b : Iv) : Iv := ⟨min a.lo b.lo, min a.hi b.hi⟩
def ivMax (a b : Iv) : Iv := ⟨max a.lo b.lo, max a.hi b.hi⟩

/-- The amount of a shift by a literal in 0 to 31. -/
def litShift (n : Option Int) : Option Nat :=
  match n with
  | some v => if 0 ≤ v ∧ v ≤ 31 then some v.toNat else none
  | none => none
def ivShl (a : Iv) (n : Option Int) : Iv :=
  match litShift n with
  | some k => ⟨a.lo * 2 ^ k, a.hi * 2 ^ k⟩
  | none => .top
def ivShra (a : Iv) (n : Option Int) : Iv :=
  match litShift n with
  | some k => ⟨a.lo / 2 ^ k, a.hi / 2 ^ k⟩
  | none => .top
def ivShrl (a : Iv) (n : Option Int) : Iv :=
  match litShift n with
  | some k => if 0 ≤ a.lo ∨ k = 0 then ⟨a.lo / 2 ^ k, a.hi / 2 ^ k⟩ else ⟨0, 2 ^ (32 - k) - 1⟩
  | none => .top
/-- AND with a nonnegative literal on one side and an interval above 0 on the other. -/
def ivAnd (a b : Iv) (la lb : Option Int) : Iv :=
  match lb with
  | some m => if 0 ≤ m ∧ 0 ≤ a.lo then ⟨0, min a.hi m⟩
    else match la with
      | some k => if 0 ≤ k ∧ 0 ≤ b.lo then ⟨0, min b.hi k⟩ else .top
      | none => .top
  | none =>
    match la with
    | some k => if 0 ≤ k ∧ 0 ≤ b.lo then ⟨0, min b.hi k⟩ else .top
    | none => .top

/-- The literal that a source is, read from its exact interval. -/
def litOf (src : Src) (iv : Iv) : Option Int :=
  match src with
  | .lit _ => if iv.lo = iv.hi then some iv.lo else none
  | _ => none

end Sys2Proof.Machine
end

