-- ==== Sys2Proof/Machine/Int.lean ====
section
/-! DEFINITION. Integer arithmetic, wide forms and bit operations (R60 to R65), with the intervals of R66. -/

namespace Sys2Proof.Machine

/-- Operation width of X class S (R57). -/
def widthS (c : Cap) (o : AOps) : Nat := if c.kind == .quartz || o.x.getLsbD 0 then 64 else 32

/-- Modifier x2:x1. -/
def modS (o : AOps) : BitVec 2 := bits o.x 1 2

/-- opnd(S, w) of a source, sign-extended or zero-extended (R57). -/
def opS (c : Cap) (o : AOps) (zx : Bool) (src : Src) (v : DWord) : DWord := wide c (widthS c o == 64) zx src v

/-- Write the result of a word of X class S (R57, R59). -/
def writeS (c : Cap) (o : AOps) (n : Iv) (f : Nat → DWord) (s : State) : Res :=
  if c.kind = .quartz then .ok (writeQ s c o.d.toNat (f 0))
  else if o.x.getLsbD 0 then
    match c.active with
    | [] => .ok s
    | l :: _ =>
      let diff := differing c.active f
      if diff = [] then .ok (s.modUnit (c.uid s) (fun u => u.putSreg s.clock o.d.toNat (f l)))
      else .trap s 7 (f l).toNat (laneMask diff)
  else .ok (writeT s c o.d.toNat n (fun l => (f l).setWidth 32))

/-- Write the result of a word without an s-register variant. -/
def writeD (c : Cap) (d : Nat) (n : Iv) (f : Nat → DWord) (s : State) : State :=
  if c.kind = .quartz then writeQ s c d (f 0) else writeT s c d n (fun l => (f l).setWidth 32)

/-- The same of a cross-lane word, which writes nothing when no lane is active (R74). -/
def writeCross (c : Cap) (d : Nat) (n : Iv) (f : Nat → DWord) (s : State) : State :=
  if c.active = [] then s else writeD c d n f s

/-- IADD (R60). -/
def bodyIadd (o : AOps) (c : Cap) (s : State) : Res :=
  writeS c o (ivAdd (modS o) c.i1 c.i2) (fun l => vAdd (widthS c o) (modS o) (opS c o (modS o == 2) o.s1 (c.a1 l)) (opS c o (modS o == 2) o.s2 (c.a2 l))) s

def execIadd (o : AOps) (s : State) : Host.Outcome State Fault Refusal := issue (.iadd o) (bodyIadd o) s

/-- ISUB (R60). -/
def bodyIsub (o : AOps) (c : Cap) (s : State) : Res :=
  writeS c o (ivSub (modS o) c.i1 c.i2) (fun l => vSub (widthS c o) (modS o) (opS c o (modS o == 2) o.s1 (c.a1 l)) (opS c o (modS o == 2) o.s2 (c.a2 l))) s

def execIsub (o : AOps) (s : State) : Host.Outcome State Fault Refusal := issue (.isub o) (bodyIsub o) s

/-- IMUL (R60). -/
def bodyImul (o : AOps) (c : Cap) (s : State) : Res :=
  writeS c o (ivMul c.i1 c.i2) (fun l => vMul (widthS c o) (opS c o false o.s1 (c.a1 l)) (opS c o false o.s2 (c.a2 l))) s

def execImul (o : AOps) (s : State) : Host.Outcome State Fault Refusal := issue (.imul o) (bodyImul o) s

/-- IMULHI (R60). -/
def bodyImulhi (o : AOps) (c : Cap) (s : State) : Res :=
  writeS c o (.top) (fun l => vMulhi (widthS c o) (modS o == 1) (opS c o (modS o == 1) o.s1 (c.a1 l)) (opS c o (modS o == 1) o.s2 (c.a2 l))) s

def execImulhi (o : AOps) (s : State) : Host.Outcome State Fault Refusal := issue (.imulhi o) (bodyImulhi o) s

/-- IMAD (R60). -/
def bodyImad (o : AOps) (c : Cap) (s : State) : Res :=
  writeS c o (ivMad c.i1 c.i2 c.i3) (fun l => vMad (widthS c o) (opS c o false o.s1 (c.a1 l)) (opS c o false o.s2 (c.a2 l)) (opS c o false o.s3 (c.a3 l))) s

def execImad (o : AOps) (s : State) : Host.Outcome State Fault Refusal := issue (.imad o) (bodyImad o) s

/-- INEG (R60). -/
def bodyIneg (o : AOps) (c : Cap) (s : State) : Res :=
  writeS c o (.top) (fun l => vNeg (widthS c o) (modS o) (opS c o false o.s1 (c.a1 l))) s

def execIneg (o : AOps) (s : State) : Host.Outcome State Fault Refusal := issue (.ineg o) (bodyIneg o) s

/-- IABS (R60). -/
def bodyIabs (o : AOps) (c : Cap) (s : State) : Res :=
  writeS c o (.top) (fun l => vAbs (widthS c o) (modS o) (opS c o false o.s1 (c.a1 l))) s

def execIabs (o : AOps) (s : State) : Host.Outcome State Fault Refusal := issue (.iabs o) (bodyIabs o) s

/-- IMIN (R60). -/
def bodyImin (o : AOps) (c : Cap) (s : State) : Res :=
  writeS c o (ivMin c.i1 c.i2) (fun l => vMin (widthS c o) (opS c o false o.s1 (c.a1 l)) (opS c o false o.s2 (c.a2 l))) s

def execImin (o : AOps) (s : State) : Host.Outcome State Fault Refusal := issue (.imin o) (bodyImin o) s

/-- IMAX (R60). -/
def bodyImax (o : AOps) (c : Cap) (s : State) : Res :=
  writeS c o (ivMax c.i1 c.i2) (fun l => vMax (widthS c o) (opS c o false o.s1 (c.a1 l)) (opS c o false o.s2 (c.a2 l))) s

def execImax (o : AOps) (s : State) : Host.Outcome State Fault Refusal := issue (.imax o) (bodyImax o) s

/-- IMINU (R60). -/
def bodyIminu (o : AOps) (c : Cap) (s : State) : Res :=
  writeS c o (.top) (fun l => vMinu (widthS c o) (opS c o true o.s1 (c.a1 l)) (opS c o true o.s2 (c.a2 l))) s

def execIminu (o : AOps) (s : State) : Host.Outcome State Fault Refusal := issue (.iminu o) (bodyIminu o) s

/-- IMAXU (R60). -/
def bodyImaxu (o : AOps) (c : Cap) (s : State) : Res :=
  writeS c o (.top) (fun l => vMaxu (widthS c o) (opS c o true o.s1 (c.a1 l)) (opS c o true o.s2 (c.a2 l))) s

def execImaxu (o : AOps) (s : State) : Host.Outcome State Fault Refusal := issue (.imaxu o) (bodyImaxu o) s

/-- SHL (R62). -/
def bodyShl (o : AOps) (c : Cap) (s : State) : Res :=
  writeS c o (ivShl c.i1 (litOf o.s2 c.i2)) (fun l => vShl (widthS c o) (opS c o false o.s1 (c.a1 l)) (opS c o false o.s2 (c.a2 l))) s

def execShl (o : AOps) (s : State) : Host.Outcome State Fault Refusal := issue (.shl o) (bodyShl o) s

/-- SHRA (R62). -/
def bodyShra (o : AOps) (c : Cap) (s : State) : Res :=
  writeS c o (ivShra c.i1 (litOf o.s2 c.i2)) (fun l => vShra (widthS c o) (opS c o false o.s1 (c.a1 l)) (opS c o false o.s2 (c.a2 l))) s

def execShra (o : AOps) (s : State) : Host.Outcome State Fault Refusal := issue (.shra o) (bodyShra o) s

/-- SHRL (R62). -/
def bodyShrl (o : AOps) (c : Cap) (s : State) : Res :=
  writeS c o (ivShrl c.i1 (litOf o.s2 c.i2)) (fun l => vShrl (widthS c o) (opS c o true o.s1 (c.a1 l)) (opS c o false o.s2 (c.a2 l))) s

def execShrl (o : AOps) (s : State) : Host.Outcome State Fault Refusal := issue (.shrl o) (bodyShrl o) s

/-- ROTL (R62). -/
def bodyRotl (o : AOps) (c : Cap) (s : State) : Res :=
  writeS c o (.top) (fun l => vRotl (widthS c o) (opS c o true o.s1 (c.a1 l)) (opS c o false o.s2 (c.a2 l))) s

def execRotl (o : AOps) (s : State) : Host.Outcome State Fault Refusal := issue (.rotl o) (bodyRotl o) s

/-- AND (R63). -/
def bodyAnd (o : AOps) (c : Cap) (s : State) : Res :=
  writeS c o (ivAnd c.i1 c.i2 (litOf o.s1 c.i1) (litOf o.s2 c.i2)) (fun l => vAnd (widthS c o) (opS c o false o.s1 (c.a1 l)) (opS c o false o.s2 (c.a2 l))) s

def execAnd (o : AOps) (s : State) : Host.Outcome State Fault Refusal := issue (.and o) (bodyAnd o) s

/-- OR (R63). -/
def bodyOr (o : AOps) (c : Cap) (s : State) : Res :=
  writeS c o (.top) (fun l => vOr (widthS c o) (opS c o false o.s1 (c.a1 l)) (opS c o false o.s2 (c.a2 l))) s

def execOr (o : AOps) (s : State) : Host.Outcome State Fault Refusal := issue (.or o) (bodyOr o) s

/-- XOR (R63). -/
def bodyXor (o : AOps) (c : Cap) (s : State) : Res :=
  writeS c o (.top) (fun l => vXor (widthS c o) (opS c o false o.s1 (c.a1 l)) (opS c o false o.s2 (c.a2 l))) s

def execXor (o : AOps) (s : State) : Host.Outcome State Fault Refusal := issue (.xor o) (bodyXor o) s

/-- ANDN (R63). -/
def bodyAndn (o : AOps) (c : Cap) (s : State) : Res :=
  writeS c o (.top) (fun l => vAndn (widthS c o) (opS c o false o.s1 (c.a1 l)) (opS c o false o.s2 (c.a2 l))) s

def execAndn (o : AOps) (s : State) : Host.Outcome State Fault Refusal := issue (.andn o) (bodyAndn o) s

/-- NOT (R63). -/
def bodyNot (o : AOps) (c : Cap) (s : State) : Res :=
  writeS c o (.top) (fun l => vNot (widthS c o) (opS c o false o.s1 (c.a1 l))) s

def execNot (o : AOps) (s : State) : Host.Outcome State Fault Refusal := issue (.not o) (bodyNot o) s

/-- POPC (R63). -/
def bodyPopc (o : AOps) (c : Cap) (s : State) : Res :=
  writeS c o (.top) (fun l => vPopc (widthS c o) (opS c o true o.s1 (c.a1 l))) s

def execPopc (o : AOps) (s : State) : Host.Outcome State Fault Refusal := issue (.popc o) (bodyPopc o) s

/-- CLZ (R63). -/
def bodyClz (o : AOps) (c : Cap) (s : State) : Res :=
  writeS c o (.top) (fun l => vClz (widthS c o) (opS c o true o.s1 (c.a1 l))) s

def execClz (o : AOps) (s : State) : Host.Outcome State Fault Refusal := issue (.clz o) (bodyClz o) s

/-- BREV (R63). -/
def bodyBrev (o : AOps) (c : Cap) (s : State) : Res :=
  writeS c o (.top) (fun l => vBrev (widthS c o) (opS c o true o.s1 (c.a1 l))) s

def execBrev (o : AOps) (s : State) : Host.Outcome State Fault Refusal := issue (.brev o) (bodyBrev o) s

/-- BFX (R64). -/
def bodyBfx (o : AOps) (c : Cap) (s : State) : Res :=
  writeS c o (.top) (fun l => vBfx (widthS c o) (modS o == 1) (opS c o false o.s1 (c.a1 l)) (opS c o false o.s2 (c.a2 l))) s

def execBfx (o : AOps) (s : State) : Host.Outcome State Fault Refusal := issue (.bfx o) (bodyBfx o) s

/-- BFI (R64). -/
def bodyBfi (o : AOps) (c : Cap) (s : State) : Res :=
  writeS c o (.top) (fun l => vBfi (widthS c o) (opS c o false o.s1 (c.a1 l)) (opS c o false o.s2 (c.a2 l)) (opS c o false o.s3 (c.a3 l))) s

def execBfi (o : AOps) (s : State) : Host.Outcome State Fault Refusal := issue (.bfi o) (bodyBfi o) s

/-- PRMT (R65). -/
def bodyPrmt (o : AOps) (c : Cap) (s : State) : Res :=
  writeS c o (.top) (fun l => vPrmt (opS c o false o.s1 (c.a1 l)) (opS c o false o.s2 (c.a2 l)) (opS c o false o.s3 (c.a3 l))) s

def execPrmt (o : AOps) (s : State) : Host.Outcome State Fault Refusal := issue (.prmt o) (bodyPrmt o) s

/-- MOV (R67). -/
def bodyMov (o : AOps) (c : Cap) (s : State) : Res :=
  writeS c o (c.i1) (fun l => vOr (widthS c o) (opS c o false o.s1 (c.a1 l)) 0) s

def execMov (o : AOps) (s : State) : Host.Outcome State Fault Refusal := issue (.mov o) (bodyMov o) s

/-- Width, immediate and source of the wide forms (R61). -/
def widthI (c : Cap) : Nat := if c.kind == .quartz then 64 else 32
def immI (o : IOps) : DWord := o.imm.signExtend 64
def ivImm (o : IOps) : Iv := .exact o.imm.toInt

/-- iaddWide (R61): the immediate is sign-extended to the width. -/
def bodyIaddWide (o : IOps) (c : Cap) (s : State) : Res :=
  .ok (writeD c o.d.toNat (ivAdd 0 c.i1 (ivImm o)) (fun l => vAdd (widthI c) 0 (c.a1 l) (immI o)) s)

def execIaddWide (o : IOps) (s : State) : Host.Outcome State Fault Refusal := issue (.iaddWide o) (bodyIaddWide o) s

/-- imulWide (R61): the immediate is sign-extended to the width. -/
def bodyImulWide (o : IOps) (c : Cap) (s : State) : Res :=
  .ok (writeD c o.d.toNat (ivMul c.i1 (ivImm o)) (fun l => vMul (widthI c) (c.a1 l) (immI o)) s)

def execImulWide (o : IOps) (s : State) : Host.Outcome State Fault Refusal := issue (.imulWide o) (bodyImulWide o) s

/-- andWide (R61): the immediate is sign-extended to the width. -/
def bodyAndWide (o : IOps) (c : Cap) (s : State) : Res :=
  .ok (writeD c o.d.toNat (ivAnd c.i1 (ivImm o) (litOf o.s1 c.i1) (some o.imm.toInt)) (fun l => vAnd (widthI c) (c.a1 l) (immI o)) s)

def execAndWide (o : IOps) (s : State) : Host.Outcome State Fault Refusal := issue (.andWide o) (bodyAndWide o) s

/-- orWide (R61): the immediate is sign-extended to the width. -/
def bodyOrWide (o : IOps) (c : Cap) (s : State) : Res :=
  .ok (writeD c o.d.toNat (.top) (fun l => vOr (widthI c) (c.a1 l) (immI o)) s)

def execOrWide (o : IOps) (s : State) : Host.Outcome State Fault Refusal := issue (.orWide o) (bodyOrWide o) s

/-- xorWide (R61): the immediate is sign-extended to the width. -/
def bodyXorWide (o : IOps) (c : Cap) (s : State) : Res :=
  .ok (writeD c o.d.toNat (.top) (fun l => vXor (widthI c) (c.a1 l) (immI o)) s)

def execXorWide (o : IOps) (s : State) : Host.Outcome State Fault Refusal := issue (.xorWide o) (bodyXorWide o) s

/-- iminWide (R61): the immediate is sign-extended to the width. -/
def bodyIminWide (o : IOps) (c : Cap) (s : State) : Res :=
  .ok (writeD c o.d.toNat (ivMin c.i1 (ivImm o)) (fun l => vMin (widthI c) (c.a1 l) (immI o)) s)

def execIminWide (o : IOps) (s : State) : Host.Outcome State Fault Refusal := issue (.iminWide o) (bodyIminWide o) s

/-- imaxWide (R61): the immediate is sign-extended to the width. -/
def bodyImaxWide (o : IOps) (c : Cap) (s : State) : Res :=
  .ok (writeD c o.d.toNat (ivMax c.i1 (ivImm o)) (fun l => vMax (widthI c) (c.a1 l) (immI o)) s)

def execImaxWide (o : IOps) (s : State) : Host.Outcome State Fault Refusal := issue (.imaxWide o) (bodyImaxWide o) s

/-- movi (R61): the immediate is sign-extended to the width. -/
def bodyMovi (o : IOps) (c : Cap) (s : State) : Res :=
  .ok (writeD c o.d.toNat (ivImm o) (fun l => let _ := l; immI o) s)

def execMovi (o : IOps) (s : State) : Host.Outcome State Fault Refusal := issue (.movi o) (bodyMovi o) s

/-- moviHi (R61): the immediate is sign-extended to the width. -/
def bodyMoviHi (o : IOps) (c : Cap) (s : State) : Res :=
  .ok (writeD c o.d.toNat (.top) (fun l => (o.imm.setWidth 64 <<< 32) + ((c.a1 l).setWidth 32).setWidth 64) s)

def execMoviHi (o : IOps) (s : State) : Host.Outcome State Fault Refusal := issue (.moviHi o) (bodyMoviHi o) s

end Sys2Proof.Machine
end

