-- ==== Sys2Proof/Machine/Index.lean ====
section
/-! DEFINITION. Moves, special registers, index words, predicates and cross-lane words (R67 to R76, R85, R111). -/

namespace Sys2Proof.Machine

/-- A 64-bit register's view of an exact integer. [DEDUCED, log 30] -/
def addrOf (v : Int) : Nat := (BitVec.ofInt 64 v).toNat

/-- NOP (R85): only the program counter advances. -/
def bodyNop (_o : AOps) (_c : Cap) (s : State) : Res := .ok s

def execNop (o : AOps) (s : State) : Host.Outcome State Fault Refusal := issue (.nop o) (bodyNop o) s

/-- Value and interval of KMOV (R66, R67). -/
def kmovVal (x : BitVec 3) (a : DWord) : DWord :=
  match x.toNat with
  | 2 => BitVec.ofNat 64 (uv 8 a)
  | 4 => BitVec.ofNat 64 (uv 16 a)
  | 6 => wrapI 32 (sv 16 a)
  | _ => a
def kmovIv (x : BitVec 3) (a : Iv) : Iv :=
  let range : Iv := match x.toNat with
    | 2 => ⟨0, 255⟩
    | 4 => ⟨0, 65535⟩
    | 6 => ⟨-32768, 32767⟩
    | _ => .top
  if Iv.inside a range then a else range

/-- KMOV (R67). -/
def bodyKmov (o : AOps) (c : Cap) (s : State) : Res :=
  .ok (writeD c o.d.toNat (kmovIv o.x c.i1) (fun l => kmovVal o.x (c.a1 l)) s)

def execKmov (o : AOps) (s : State) : Host.Outcome State Fault Refusal := issue (.kmov o) (bodyKmov o) s

/-- The special registers of R18: value for a thread of a unit, and interval. -/
def specVal (s : State) (u : Unit_) (rc : LaunchRec) (t : Nat) (i : Nat) : Nat :=
  match i with
  | 0 => t % 32
  | 1 => t
  | 2 => u.index % rc.gridx
  | 3 => u.index / rc.gridx % rc.gridy
  | 4 => u.index / rc.gridx / rc.gridy
  | 5 => rc.gridx
  | 6 => rc.gridy
  | 7 => rc.gridz
  | 8 => u.nthreads
  | 9 => t / 32
  | 10 => u.core % 4
  | 11 => u.core / 4
  | 12 => dieOfCore u.core
  | 13 => u.func
  | _ => s.clock % 2 ^ 32

def specIv (u : Unit_) (rc : LaunchRec) (i : Nat) : Iv :=
  let exactN (n : Nat) : Iv := .exact n
  let upTo (n : Nat) : Iv := ⟨0, (n : Int) - 1⟩
  match i with
  | 0 => ⟨0, 31⟩
  | 1 => upTo u.nthreads
  | 2 => upTo rc.gridx
  | 3 => upTo rc.gridy
  | 4 => upTo rc.gridz
  | 5 => exactN rc.gridx
  | 6 => exactN rc.gridy
  | 7 => exactN rc.gridz
  | 8 => exactN u.nthreads
  | 9 => upTo (u.nthreads / 32)
  | 10 => ⟨0, 3⟩
  | 11 => ⟨0, 63⟩
  | 12 => ⟨0, 3⟩
  | _ => .top

/-- RDSPEC (R18, R68). -/
def bodyRdspec (o : IOps) (c : Cap) (s : State) : Res :=
  match unitOf s c.agent with
  | none => .ok s
  | some u =>
    let rc := recOf s u.func u.launch
    .ok (writeT s c o.d.toNat (specIv u rc o.imm.toNat)
      (fun l => BitVec.ofNat 32 (specVal s u rc (laneThread s c.agent l) o.imm.toNat)))

def execRdspec (o : IOps) (s : State) : Host.Outcome State Fault Refusal := issue (.rdspec o) (bodyRdspec o) s

/-- Check 7 on an operand over some lanes (R44, R319): the trap, when the values differ. -/
def uniformOr (lanes : List Nat) (f : Nat → DWord) (s : State) (r : Res) : Res :=
  let diff := differing lanes f
  if diff = [] then r else .trap s 7 (f (lanes.headD 0)).toNat (laneMask diff)


/-- IWIDEN (R69). The k-register is read when the word performs. -/
def bodyIwiden (o : AOps) (c : Cap) (s : State) : Res :=
  uniformOr c.present c.a1 s (uniformOr c.present c.a2 s
    (let lo := sv 32 (c.a1 c.lowP)
     let hi := sv 32 (c.a2 c.lowP)
     if hi < lo then .trap s 8 (addrOf lo) (laneMask c.present)
     else
       match groupOf s c.agent, unitOf s c.agent with
       | some g, some u =>
         if Iv.inside (ivGet g.iv (o.d.toNat - 480)) ⟨lo, hi⟩ then .ok (writeIv s c o.d.toNat ⟨lo, hi⟩)
         else
           let val (l : Nat) : Int := ((u.thread (laneThread s c.agent l)).reg o.d.toNat).toInt
           let bad := c.present.filter (fun l => decide (val l < lo) || decide (hi < val l))
           let trapAct := if o.x = 0 then (recOf s u.func u.launch).flags.getLsbD 2 else o.x == 2
           if bad ≠ [] ∧ trapAct then .trap s 8 (addrOf (val (bad.headD 0))) (laneMask bad)
           else
             .ok (writeIv (setBounds (writeLanes s c o.d.toNat
               (bad.map (fun l => (l, BitVec.ofInt 32 (clampZ (val l) lo hi))))) c bad) c o.d.toNat ⟨lo, hi⟩)
       | _, _ => .ok s))

def execIwiden (o : AOps) (s : State) : Host.Outcome State Fault Refusal := issue (.iwiden o) (bodyIwiden o) s

/-- The interval of the k-register that KLO and KHI name. -/
def boundOf (s : State) (c : Cap) (src : Src) : Iv :=
  match groupOf s c.agent, src with
  | some g, .reg f => ivGet g.iv (f.toNat - 480)
  | _, _ => .top

/-- KLO (R70). -/
def bodyKlo (o : AOps) (c : Cap) (s : State) : Res :=
  .ok (writeT s c o.d.toNat (.exact (boundOf s c o.s1).lo) (fun _ => BitVec.ofInt 32 (boundOf s c o.s1).lo))

def execKlo (o : AOps) (s : State) : Host.Outcome State Fault Refusal := issue (.klo o) (bodyKlo o) s

/-- KHI (R70). -/
def bodyKhi (o : AOps) (c : Cap) (s : State) : Res :=
  .ok (writeT s c o.d.toNat (.exact (boundOf s c o.s1).hi) (fun _ => BitVec.ofInt 32 (boundOf s c o.s1).hi))

def execKhi (o : AOps) (s : State) : Host.Outcome State Fault Refusal := issue (.khi o) (bodyKhi o) s

/-- Predicate number and condition code of D class P (R30). -/
def predD (d : BitVec 9) : Nat := (bits d 0 3).toNat
def condD (d : BitVec 9) : BitVec 4 := bits d 5 4

/-- ICMP (R71). -/
def bodyIcmp (o : AOps) (c : Cap) (s : State) : Res :=
  .ok (writeP s c (predD o.d) (fun l => intCond (condD o.d) 32 (c.a1 l) (c.a2 l)))

def execIcmp (o : AOps) (s : State) : Host.Outcome State Fault Refusal := issue (.icmp o) (bodyIcmp o) s

/-- The predicate that X names, in a lane. -/
def readP (s : State) (c : Cap) (src : Src) (l : Nat) : Bool :=
  match unitOf s c.agent, src with
  | some u, .reg f => (u.thread (laneThread s c.agent l)).pred f.toNat
  | _, _ => false

/-- PAND (R72): the predicates are captured as bit 0 of the operands (R176). -/
def bodyPand (o : AOps) (c : Cap) (s : State) : Res := .ok (writeP s c (predD o.d) (fun l => (c.a1 l).getLsbD 0 && (c.a2 l).getLsbD 0))

def execPand (o : AOps) (s : State) : Host.Outcome State Fault Refusal := issue (.pand o) (bodyPand o) s

/-- POR (R72). -/
def bodyPor (o : AOps) (c : Cap) (s : State) : Res := .ok (writeP s c (predD o.d) (fun l => (c.a1 l).getLsbD 0 || (c.a2 l).getLsbD 0))

def execPor (o : AOps) (s : State) : Host.Outcome State Fault Refusal := issue (.por o) (bodyPor o) s

/-- PXOR (R72). -/
def bodyPxor (o : AOps) (c : Cap) (s : State) : Res := .ok (writeP s c (predD o.d) (fun l => (c.a1 l).getLsbD 0 != (c.a2 l).getLsbD 0))

def execPxor (o : AOps) (s : State) : Host.Outcome State Fault Refusal := issue (.pxor o) (bodyPxor o) s

/-- PNOT (R72). -/
def bodyPnot (o : AOps) (c : Cap) (s : State) : Res := .ok (writeP s c (predD o.d) (fun l => !(c.a1 l).getLsbD 0))

def execPnot (o : AOps) (s : State) : Host.Outcome State Fault Refusal := issue (.pnot o) (bodyPnot o) s

/-- SEL (R73). -/
def bodySel (o : AOps) (c : Cap) (s : State) : Res :=
  .ok (writeD c o.d.toNat (Iv.hull c.i1 c.i2)
    (fun l => if readP s c (.reg (o.x.setWidth 9)) l then c.a1 l else c.a2 l) s)

def execSel (o : AOps) (s : State) : Host.Outcome State Fault Refusal := issue (.sel o) (bodySel o) s

/-- The value of the first source in lane i, or 0 (R74). -/
def laneVal (c : Cap) (i : Int) : DWord := if 0 ≤ i ∧ i < 32 ∧ c.active.contains i.toNat then c.a1 i.toNat else 0

/-- LREAD (R75). -/
def bodyLread (o : AOps) (c : Cap) (s : State) : Res :=
  .ok (writeCross c o.d.toNat (Iv.hull c.i1 (.exact 0)) (fun l => laneVal c (sv 32 (c.a2 l))) s)

def execLread (o : AOps) (s : State) : Host.Outcome State Fault Refusal := issue (.lread o) (bodyLread o) s

/-- LSHFX (R75). A mask outside 0 to 31 names no lane. -/
def bodyLshfx (o : AOps) (c : Cap) (s : State) : Res :=
  .ok (writeCross c o.d.toNat (Iv.hull c.i1 (.exact 0))
    (fun l => if uv 32 (c.a2 l) < 32 then laneVal c ((l ^^^ uv 32 (c.a2 l) : Nat) : Int) else 0) s)

def execLshfx (o : AOps) (s : State) : Host.Outcome State Fault Refusal := issue (.lshfx o) (bodyLshfx o) s

/-- LBCAST (R75): the lane index is equal in every active lane. -/
def bodyLbcast (o : AOps) (c : Cap) (s : State) : Res :=
  uniformOr c.active c.a2 s
    (.ok (writeCross c o.d.toNat (Iv.hull c.i1 (.exact 0)) (fun l => laneVal c (sv 32 (c.a2 l))) s))

def execLbcast (o : AOps) (s : State) : Host.Outcome State Fault Refusal := issue (.lbcast o) (bodyLbcast o) s

/-- Fold the active lanes in ascending order, from the lowest lane's value (R76). -/
def foldLanes (c : Cap) (f : DWord → DWord → DWord) : DWord :=
  match c.active with
  | [] => 0
  | l :: r => r.foldl (fun t x => f t (c.a1 x)) (c.a1 l)

/-- FADD.rne of two FP32 patterns. -/
def addF32 (a b : DWord) : DWord := BitVec.ofNat 64 (faddP fp32 .rne a.toNat b.toNat)
def maxF32 (a b : DWord) : DWord := BitVec.ofNat 64 (fminmax fp32 true a.toNat b.toNat)

/-- LSUM (R76). -/
def bodyLsum (o : AOps) (c : Cap) (s : State) : Res :=
  .ok (writeCross c o.d.toNat .top (fun _ => foldLanes c (if o.x = 0 then vAdd 32 0 else addF32)) s)

def execLsum (o : AOps) (s : State) : Host.Outcome State Fault Refusal := issue (.lsum o) (bodyLsum o) s

/-- LMAX (R76). -/
def bodyLmax (o : AOps) (c : Cap) (s : State) : Res :=
  .ok (writeCross c o.d.toNat .top
    (fun _ => foldLanes c (if o.x = 0 then vMax 32 else if o.x = 1 then vMaxu 32 else maxF32)) s)

def execLmax (o : AOps) (s : State) : Host.Outcome State Fault Refusal := issue (.lmax o) (bodyLmax o) s

/-- The vote of R76. -/
def voteVal (c : Cap) (x : BitVec 3) : DWord :=
  let yes := c.active.filter (fun l => uv 32 (c.a1 l) != 0)
  match x.toNat with
  | 0 => if yes = [] then 0 else 1
  | 1 => if yes = c.active then 1 else 0
  | _ => (laneMask yes).setWidth 64

/-- VOTE (R76). -/
def bodyVote (o : AOps) (c : Cap) (s : State) : Res := .ok (writeCross c o.d.toNat .top (fun _ => voteVal c o.x) s)

def execVote (o : AOps) (s : State) : Host.Outcome State Fault Refusal := issue (.vote o) (bodyVote o) s

/-- Sum over the active lanes below a lane, with the lane itself when `incl` (R76). -/
def prefixVal (c : Cap) (incl : Bool) (l : Nat) : DWord :=
  (c.active.filter (fun i => decide (i < l) || (incl && i == l))).foldl (fun t i => vAdd 32 0 t (c.a1 i)) 0

/-- LPREFIX (R76). -/
def bodyLprefix (o : AOps) (c : Cap) (s : State) : Res :=
  .ok (writeCross c o.d.toNat .top (fun l => prefixVal c (o.x == 0) l) s)

def execLprefix (o : AOps) (s : State) : Host.Outcome State Fault Refusal := issue (.lprefix o) (bodyLprefix o) s

/-- The bounds flags of the present lanes (R111). -/
def boundsMask (s : State) (c : Cap) : Word :=
  match unitOf s c.agent with
  | some u => laneMask (c.present.filter (fun l => (u.thread (laneThread s c.agent l)).bounds))
  | none => 0

/-- BVMASK (R111). -/
def bodyBvmask (o : AOps) (c : Cap) (s : State) : Res :=
  let s1 := writeT s c o.d.toNat .top (fun _ => boundsMask s c)
  .ok (if o.x = 1 then s1
    else s1.modUnit (c.uid s) (fun u => c.active.foldl (fun u l =>
      u.modThread (laneThread s c.agent l) (fun t => { t with bounds := false })) u))

def execBvmask (o : AOps) (s : State) : Host.Outcome State Fault Refusal := issue (.bvmask o) (bodyBvmask o) s

end Sys2Proof.Machine
end

