-- ==== Sys2Proof/Machine/Queues.lean ====
section
/-! DEFINITION. Parking (R144), the queues to the Quartz core (R138, R140, R150), and writes of X with all they set off. -/

namespace Sys2Proof.Machine

/-- Park the threads of the issuing agent on its word (R144). -/
def parkAgent (s : State) (c : Cap) (on : ParkOn) : State :=
  let r := s.takeSeq
  match c.agent with
  | .group k sl =>
    match s.group? k sl with
    | some g => parkSet (r.2.setGroup k sl none) g.uid ⟨g.members.map Prod.snd, g.iv, c.pc, on, r.1⟩
    | none => s
  | .quartz cl x => r.2.modCtx cl x (fun q => { q with park := some ⟨[0], [], c.pc, on, r.1⟩ })

/-- A parked waiter: a set of a unit, or a Quartz context. -/
inductive Waiter where
  | set (uid : Nat) (p : Parked)
  | ctx (cl c : Nat) (p : Parked)
deriving DecidableEq, Repr

def Waiter.parked : Waiter → Parked
  | .set _ p => p
  | .ctx _ _ p => p

/-- Waiters of a launch on a cluster that satisfy a test. -/
def waitersOf (s : State) (f l cl : Nat) (p : ParkOn → Bool) : List Waiter :=
  (s.units.foldl (fun acc x => match x.2 with
    | some u => if u.func = f ∧ u.launch = l ∧ u.core / 4 = cl then
        acc ++ (u.parked.filter (fun q => p q.on)).map (fun q => .set x.1 q) else acc
    | none => acc) []) ++
  (s.ctxs.foldl (fun acc x => match x.2 with
    | some c => (match c.park with
      | some q => if c.func = f ∧ c.launch = l ∧ x.1 / 8 = cl ∧ p q.on then acc ++ [.ctx (x.1 / 8) (x.1 % 8) q] else acc
      | none => acc)
    | none => acc) [])

/-- The waiter that arrived first. -/
def firstWaiter (l : List Waiter) : Option Waiter :=
  l.foldl (fun best w => match best with
    | none => some w
    | some b => if w.parked.seq < b.parked.seq then some w else some b) none

def isPop (q : Nat) : ParkOn → Bool
  | .qpop n _ _ => n == q
  | _ => false
def isPush (q : Nat) : ParkOn → Bool
  | .qpush n _ => n == q
  | _ => false

def queueBad (s : State) (b : QBind) : Bool := qCap s b == 0 || decide (256 < qCap s b)

/-- Does an entry of the queue lie in a reservation of its launch, or among the bytes kept (R138, R223)? The stored CAP may name
more entries than the reservation holds. -/
def qReach (s : State) (b : QBind) (i : Nat) : Bool :=
  match b.kept with
  | some l => decide (24 + 8 * i ≤ l.length)
  | none => (s.core b.core).xres.any (fun r => r.func == b.func && r.launch == b.launch
      && withinRange (b.off + 16 + 8 * i) 8 r.off r.len)

/-- The entries that a push and a pop would use lie outside the queue's reservation. -/
def pushOut (s : State) (b : QBind) : Bool := !qReach s b (qTail s b % qCap s b)
def popOut (s : State) (b : QBind) : Bool := !qReach s b (qHead s b % qCap s b)

/-- Write bytes of a queue object. -/
def qPut (s : State) (b : QBind) (at_ : Nat) (data : List Byte) : State :=
  match b.kept with
  | none => writeX s b.core (b.off + at_) data
  | some _ => s.modCluster (b.core / 4) (fun c => { c with queues := c.queues.map (fun x =>
      if x.func = b.func ∧ x.launch = b.launch ∧ x.q = b.q then
        { x with kept := x.kept.map (fun l => l.take at_ ++ data ++ l.drop (at_ + data.length)) }
      else x) })

/-- Push a value (R140). -/
def pushQ (s : State) (b : QBind) (v : DWord) : State :=
  let t := qTail s b
  let a := qAllow s b
  let s1 := qPut s b (16 + 8 * (t % qCap s b)) (leBytes 8 v.toNat)
  qPut (qPut s1 b 4 (leBytes 4 ((t + 1) % 2 ^ 32))) b 8 (leBytes 4 (a - 1))

/-- Pop a value (R140). -/
def popQ (s : State) (b : QBind) : DWord × State :=
  let h := qHead s b
  let v := leNat (b.bytes s (16 + 8 * (h % qCap s b)) 8)
  let s1 := qPut s b 0 (leBytes 4 ((h + 1) % 2 ^ 32))
  (BitVec.ofNat 64 v, qPut s1 b 8 (leBytes 4 ((qAllow s b + 1) % 2 ^ 32)))

/-- Write a popped value for some threads of a unit. -/
def writePop (s : State) (uid : Nat) (ts : List Nat) (d : BitVec 9) (wide_ : Bool) (v : DWord) : State :=
  s.modUnit uid (fun u => ts.foldl (fun u t => u.modThread t (fun x =>
    let y := x.setReg d.toNat (v.setWidth 32)
    if wide_ then y.setReg (d.toNat + 1) ((v >>> 32).setWidth 32) else y)) u)

/-- Release a waiter behind its word. -/
def releaseWaiter (s : State) : Waiter → State
  | .set uid p => releaseSet s uid p
  | .ctx cl c p => s.modCtx cl c (fun x => { x with park := none, front := { x.front with pc := p.pc + 8 } })

/-- A waiter executes its word again (R138). -/
def refileWaiter (s : State) : Waiter → State
  | .set uid p => refileSet s uid p
  | .ctx cl c _ => s.modCtx cl c (fun x => { x with park := none })

/-- A popper receives its value; its threads acquire at cluster scope. -/
def givePop (s : State) (w : Waiter) (v : DWord) : State :=
  match w with
  | .set uid p =>
    (match p.on, s.unit? uid with
     | .qpop _ d wide_, some u =>
       let s1 := dropL1 (writePop s uid p.threads d wide_ v) u.core
       let iv := if 480 ≤ d.toNat then ivSet p.iv (d.toNat - 480) .top else p.iv
       filePc (s1.modUnit uid (fun x => { x with parked := x.parked.erase p })) uid (p.pc + 8) p.threads iv
     | _, _ => s)
  | .ctx cl c p =>
    (match p.on with
     | .qpop _ d _ => (releaseWaiter s w).modCtx cl c (fun x => x.setSreg d.toNat v)
     | _ => s)

def allOnes64 : DWord := BitVec.allOnes 64

/-- Serve the waiters of a queue in arrival order while any can be served (R138, R140, R150). One whose entry the queue does not hold
executes its word again. [DEDUCED, log 29] -/
def serveQueue (f l cl q : Nat) : Nat → State → State
  | 0, s => s
  | n + 1, s =>
    match queueOf s f l cl q with
    | none => s
    | some b =>
      match firstWaiter (waitersOf s f l cl (isPop q)), firstWaiter (waitersOf s f l cl (isPush q)) with
      | some w, pw =>
        if qHead s b ≠ qTail s b then
          (if queueBad s b || popOut s b then serveQueue f l cl q n (refileWaiter s w)
           else serveQueue f l cl q n (givePop (popQ s b).2 w (popQ s b).1))
        else if b.closed then serveQueue f l cl q n (givePop s w allOnes64)
        else (match pw with
          | some p => if 0 < qAllow s b then
              (if queueBad s b || pushOut s b then serveQueue f l cl q n (refileWaiter s p)
               else (match p.parked.on with
                 | .qpush _ v => serveQueue f l cl q n (releaseWaiter (pushQ s b v) p)
                 | _ => s))
            else s
          | none => s)
      | none, some p =>
        if 0 < qAllow s b then
          (if queueBad s b || pushOut s b then serveQueue f l cl q n (refileWaiter s p)
           else (match p.parked.on with
             | .qpush _ v => serveQueue f l cl q n (releaseWaiter (pushQ s b v) p)
             | _ => s))
        else s
      | none, none => s

/-- Waiters of a launch on a cluster, as a bound for the service. -/
def waitCount (s : State) (f l cl q : Nat) : Nat :=
  (waitersOf s f l cl (isPop q)).length + (waitersOf s f l cl (isPush q)).length + 1

/-- Serve one queue until nobody can be served, then close it when it is due (R150). -/
def runQueue (s : State) (f l cl q : Nat) : State :=
  let s1 := serveQueue f l cl q (waitCount s f l cl q) s
  let s2 := closeQueues s1 f l cl
  serveQueue f l cl q (waitCount s2 f l cl q) s2

/-- Close the launch's empty queues on a cluster whose units have all exited, and serve their poppers (R150). -/
def closeAndServe (s : State) (f l cl : Nat) : State :=
  let s1 := closeQueues s f l cl
  (((s1.cluster cl).queues.filter (fun b => b.func == f && b.launch == l)).map (·.q)).foldl
    (fun st q => runQueue st f l cl q) s1

/-- A write of X by a word or an engine: the bytes, the byte barriers it overlaps (R136), and the queues whose header it
overlaps (R138). -/
def storeX (s : State) (core a : Nat) (data : List Byte) : State :=
  let s1 := writeX s core a data
  ((s1.cluster (core / 4)).queues.filter (fun b => b.core == core && b.kept.isNone && overlaps b.off 16 a data.length)).foldl
    (fun st b => runQueue st b.func b.launch (core / 4) b.q) s1

end Sys2Proof.Machine
end

