-- ==== Sys2Proof/Machine/Memory.lean ====
section
/-! DEFINITION. Array registers, element addressing, the bounds decision, loads and stores, cache words, UPD and FENCE
(R105 to R116, R123, R124, R215 to R220). -/

namespace Sys2Proof.Machine

-- Array registers (R105 to R107).

def ArrayReg.valid (r : ArrayReg) : Bool := r.attr.getLsbD 6
def ArrayReg.act (r : ArrayReg) : Bool := r.attr.getLsbD 5
/-- 0 global, 1 X, 2 Y. -/
def ArrayReg.space (r : ArrayReg) : Nat := (bits r.attr 3 2).toNat
def ArrayReg.size (r : ArrayReg) : Nat := 2 ^ (bits r.attr 0 3).toNat

/-- Does the array end inside its space (R106)? -/
def ArrayReg.fits (r : ArrayReg) (xbytes : Nat) : Bool :=
  let stop := r.base.toNat + r.ext.toNat * r.size
  if r.space = 0 then decide (stop ≤ 2 ^ 57) else if r.space = 1 then decide (stop ≤ xbytes) else decide (stop ≤ 2097152)

/-- The checks of R106 on a new value. -/
def ArrayReg.ok (r : ArrayReg) (xbytes : Nat) : Bool :=
  bits r.attr 7 25 == 0 && decide ((bits r.attr 0 3).toNat ≤ 4) && decide (r.space ≠ 3)
    && decide (r.base.toNat % r.size = 0) && r.fits xbytes

/-- ASET (R106). -/
def bodyAset (o : AOps) (c : Cap) (s : State) : Res :=
  match unitOf s c.agent with
  | none => .ok s
  | some u =>
    let n := o.d.toNat % 16
    let put (r : ArrayReg) (good : Bool) : Res :=
      if good then .ok (s.modUnit (c.uid s) (fun v => v.putAreg s.clock n r))
      else .trap s 0x0A n (laneMask c.active)
    let l := c.lowP
    if o.x = 1 then
      uniformOr c.present c.a1 s
        (let r : ArrayReg := { u.aregAt s.clock n with ext := (c.a1 l).setWidth 32 }
         put r (r.valid && r.fits u.xbytes))
    else
      uniformOr c.present (fun i => wide c true true o.s1 (c.a1 i)) s (uniformOr c.present c.a2 s (uniformOr c.present c.a3 s
        (let r : ArrayReg := ⟨wide c true true o.s1 (c.a1 l), (c.a2 l).setWidth 32, (c.a3 l).setWidth 32 ||| 64⟩
         put r (r.ok u.xbytes))))

def execAset (o : AOps) (s : State) : Host.Outcome State Fault Refusal := issue (.aset o) (bodyAset o) s

/-- The field that AGET returns (R107). -/
def agetVal (r : ArrayReg) (x : BitVec 3) : Word :=
  match x.toNat with
  | 0 => r.base.setWidth 32
  | 1 => (r.base >>> 32).setWidth 32
  | 2 => r.ext
  | _ => r.attr

/-- The value of a mode-01 literal field. -/
def litField : Src → Nat
  | .lit f => f.toNat
  | _ => 0

/-- AGET (R107). -/
def bodyAget (o : AOps) (c : Cap) (s : State) : Res :=
  match unitOf s c.agent with
  | none => .ok s
  | some u => .ok (writeT s c o.d.toNat .top (fun _ => agetVal (u.aregAt s.clock (litField o.s1)) o.x))

def execAget (o : AOps) (s : State) : Host.Outcome State Fault Refusal := issue (.aget o) (bodyAget o) s

-- Element addressing (R109, R110).

/-- A format M word after its bounds decision: the array, the index interval, the lanes that access, with their element
addresses in ascending lane order, and the masked lanes. -/
structure Access where
  reg : ArrayReg
  iv : Iv
  lanes : List (Nat × Nat)
  masked : List Nat
deriving DecidableEq, Repr

/-- Element index of a lane: exact (R109). -/
def elemIdx (o : MOps) (c : Cap) (l : Nat) : Int := ((c.a1 l).setWidth 32).toInt + o.off.toInt

/-- Index interval of the word (R109). -/
def indexIv (o : MOps) (c : Cap) : Iv := ⟨c.i1.lo + o.off.toInt, c.i1.hi + o.off.toInt⟩

/-- Does a lane's index lie in the extent? -/
def inExtent (r : ArrayReg) (i : Int) : Bool := decide (0 ≤ i) && decide (i < r.ext.toNat)

/-- The access of a word over an array register. -/
def accessOf (r : ArrayReg) (o : MOps) (c : Cap) : Access :=
  let good := c.active.filter (fun l => inExtent r (elemIdx o c l))
  { reg := r, iv := indexIv o c, lanes := good.map (fun l => (l, r.base.toNat + (elemIdx o c l).toNat * r.size)),
    masked := c.active.filter (fun l => !inExtent r (elemIdx o c l)) }

/-- The register checks of R109. -/
def arrayBad (r : ArrayReg) (spaces : List Nat) (w : Option Nat) : Bool :=
  !r.valid || !spaces.contains r.space || (match w with
    | some n => r.size != n
    | none => false)

/-- The checks of R109 and the bounds decision of R110, then the word's access. With `ignore` (PREF, CINV, CWB) lanes
out of range are ignored. A word that finishes after its issue decides on the register that it read when it issued. -/
def withAccess (spaces : List Nat) (w : Option Nat) (ignore : Bool) (o : MOps) (c : Cap) (s : State) (k : Access → Res) : Res :=
  match unitOf s c.agent with
  | none => .ok s
  | some u =>
    let r := c.reg.getD (u.aregAt s.clock o.ar.toNat)
    if arrayBad r spaces w then .trap s 0x0A o.ar.toNat (laneMask c.active)
    else
      let a := accessOf r o c
      if !ignore && a.masked != [] && r.act then
        .trap s 8 (addrOf (elemIdx o c (a.masked.headD 0))) (laneMask a.masked)
      else k (if ignore then { a with masked := [] } else a)

/-- Access width of an SZ code, for loads and stores (R35). -/
def szBytes (sz : BitVec 3) : Nat :=
  match sz.toNat with
  | 0 | 1 => 1
  | 2 | 3 => 2
  | 4 => 4
  | 5 => 8
  | _ => 16

/-- Access width of an SZ code, for atomics. -/
def rmwBytes (sz : BitVec 3) : Nat := if sz = 1 ∨ sz = 3 then 8 else 4

/-- A lane whose element is translated. -/
structure LaneT where
  lane : Nat
  va : Nat
  t : Trans
deriving DecidableEq, Repr

/-- The translations of a word's lanes. -/
structure Xlated where
  ok : List LaneT
  bad : List (Nat × XFault)
deriving DecidableEq, Repr

/-- Translate the element of every lane of a word of a core (R228, R232). -/
def xlateLanes (u : Unit_) (want : Want) (s : State) (l : List (Nat × Nat)) : Xlated × State :=
  l.foldl (fun (x : Xlated × State) p =>
    match translate x.2 (coreTlbs u.core) u.func p.2 want with
    | (.ok t, s1) => ({ x.1 with ok := x.1.ok ++ [⟨p.1, p.2, t⟩] }, s1)
    | (.flt e, s1) => ({ x.1 with bad := x.1.bad ++ [(p.1, e)] }, s1)) (⟨[], []⟩, s)

/-- Go on when every lane translates; otherwise the group is held on the lowest faulting lane (R233). -/
def withXlate (u : Unit_) (want : Want) (lanes : List (Nat × Nat)) (s : State) (k : List LaneT → State → Res) : Res :=
  let r := xlateLanes u want s lanes
  match r.1.bad with
  | [] => k r.1.ok r.2
  | (l, e) :: rest => .hold r.2 u.func e (laneMask (l :: rest.map Prod.fst))

/-- Threads of the active lanes. -/
def activeThreads (s : State) (c : Cap) : List Nat := c.active.map (laneThread s c.agent)

-- Footprints (R215, R218).

/-- The footprint: its first byte and its length, 0 when it is empty. -/
def Access.foot (a : Access) : Nat × Nat :=
  let e : Int := a.reg.ext.toNat
  let lo := max a.iv.lo 0
  let hi := min a.iv.hi (e - 1)
  if e = 0 ∨ hi < lo then (0, 0)
  else (a.reg.base.toNat + lo.toNat * a.reg.size, (hi.toNat + 1 - lo.toNat) * a.reg.size)

/-- First line and number of lines of the footprint. -/
def footLines (a : Access) : Nat × Nat :=
  let p := a.foot
  if p.2 = 0 then (0, 0) else (p.1 / 256, (p.1 + p.2 - 1) / 256 - p.1 / 256 + 1)

/-- Hand a large load footprint to the cluster's copy engine (R218). -/
def hintFor (s : State) (cl f : Nat) (a : Access) : State :=
  let p := footLines a
  if 65 ≤ p.2 ∧ p.2 ≤ 8192 then
    s.modCluster cl (fun x => { x with
      hints := (if 16 ≤ x.hints.length then x.hints.drop 1 else x.hints) ++ [⟨f, p.1 * 256, p.2⟩] })
  else s

-- Loads (R112 to R115).

/-- Register `j` of a loaded element (R113). -/
def loadWord (sz : BitVec 3) (bytes : List Byte) (j : Nat) : Word :=
  match sz.toNat with
  | 1 => (BitVec.ofNat 8 (leNat bytes)).signExtend 32
  | 3 => (BitVec.ofNat 16 (leNat bytes)).signExtend 32
  | _ => BitVec.ofNat 32 (leNat ((bytes.drop (4 * j)).take 4))

/-- Registers of an SZ code's value. -/
def szRegs (sz : BitVec 3) : Nat := if sz = 6 then 4 else if sz = 5 then 2 else 1

/-- Write loaded elements to the destination registers; masked lanes receive 0 and set their bounds flag (R110). -/
def putLoads (s : State) (c : Cap) (d n : Nat) (vals : List (Nat × (Nat → Word))) (masked : List Nat) : State :=
  let s1 := (List.range n).foldl (fun st j =>
    writeLanes st c (d + j) (vals.map (fun p => (p.1, p.2 j)) ++ masked.map (fun l => (l, 0)))) s
  setBounds (writeIv s1 c d .top) c masked

/-- The accesses of a word that meet an error response, and the others (R322, R356). `err` finds the response of one, after the
merge that it causes: all merges come first. -/
structure Answers where
  errs : List (LaneT × AccErr)
  good : List LaneT

def answers (err : State → LaneT → Option AccErr × State) (l : List LaneT) (s : State) : Answers × State :=
  let s1 := l.foldl (fun st x => (err st x).2) s
  (⟨l.filterMap (fun x => ((err s1 x).1).map (fun e => (x, e))), l.filter (fun x => ((err s1 x).1).isNone)⟩, s1)

/-- How a returning access ends when some accesses received an error response, here with their lanes and addresses (R322, R360).
`spread` gives the lanes that an access answers to. -/
def endLate (u : Unit_) (spread : Nat → List Nat) (errs : List (Nat × Nat)) (s : State) : Res :=
  match errs with
  | [] => .ok s
  | (_, va) :: _ => if u.canRelaunch then .relaunch s else .late s 0x1A va (laneMask (errs.flatMap (fun p => spread p.1)))

/-- The same, with the records of a global access. -/
def endReturning (u : Unit_) (c : Cap) (spread : Nat → List Nat) (errs : List (LaneT × AccErr)) (s : State) : Res :=
  endLate u spread (errs.map (fun p => (p.1.lane, p.1.va)))
    (errs.foldl (fun st p => reportErr st p.2 u.func p.1.va p.1.t.pa p.1.t.key c.agent.site 1 c.pc.toNat) s)

/-- The record of a consumption of data with an uncorrectable error in X or Y: a range of bytes of that structure (R356).
[DESIGN CHOICE, log 58] -/
def localReport (f site consumer aux1 : Nat) : Report := ⟨4, 6, 0x04, none, none, 4, f, site, consumer, aux1⟩

/-- Records of the accesses of a word to such data. -/
def reportLocal (s : State) (u : Unit_) (c : Cap) (consumer : Nat) (errs : List (Nat × Nat)) : State :=
  errs.foldl (fun st _ => st.report (localReport u.func c.agent.site consumer c.pc.toNat)) s

/-- The lanes whose element lies on data with an error in it. -/
def badLanes (bad : List Nat) (base n : Nat) (l : List (Nat × Nat)) : List (Nat × Nat) := l.filter (fun p => badIn bad (base + p.2) n)

/-- The stores that the threads of a word have on their way to an element that several of its lanes read are performed first, so
that these read one value (R212, R241). -/
def settleShared (c : Cap) (uid : Nat) (l : List LaneT) (s : State) : State :=
  let shared (x : LaneT) : Bool := l.any (fun y => y.lane != x.lane && y.t.pa == x.t.pa)
  performWith s (fun q => l.any (fun x => shared x && q.by_ == .thread uid (laneThread s c.agent x.lane) && secOf q.pa == secOf x.t.pa
    && isWriteKind q))

/-- The global reads of a load word, in ascending lane order: one read for each element, with what each lane's thread has itself
on its way (R212, R241). -/
def readLanes (c : Cap) (u : Unit_) (n : Nat) (ord : Order) (l : List LaneT) (s : State) : List (Nat × List Byte) × State :=
  let uid := c.uid s
  let th (x : LaneT) : Nat := laneThread s c.agent x.lane
  let s1 := settleShared c uid l (l.foldl (fun st x => settleFor st uid (th x) u.core x.t.pa) s)
  let r : List (Nat × List Byte) × State := ((l.map (fun x => x.t.pa)).eraseDups).foldl (fun acc pa =>
    let mine := l.filter (fun x => x.t.pa == pa)
    match mine.head? with
    | none => acc
    | some x =>
      let e := elementRead acc.2 uid u.core u.func (mine.map th) pa n x.t.key x.t.unc ord
      (acc.1 ++ [(pa, e.1)], e.2)) ([], s1)
  (l.map (fun x => (x.lane, forward s1 uid (th x) x.t.pa (((r.1.find? (fun p => p.1 == x.t.pa)).map (fun p => p.2)).getD []))), r.2)

/-- A load from global memory. `spread` gives the lanes that receive each lane's value. -/
def loadGlobal (o : MOps) (c : Cap) (u : Unit_) (a : Access) (spread : Nat → List Nat) (s : State) : Res :=
  withXlate u .read a.lanes s (fun l s1 =>
    let scope := o.scope.toNat
    let s0 := orderBefore s1 o.ord (c.uid s) u.core (activeThreads s c) scope
    let w := answers (fun st x => coreErr st u.core x.t.pa x.t.key x.t.unc o.ord) l s0
    let s2 := w.2
    let r := readLanes c u (szBytes o.sz) o.ord w.1.good s2
    let s3 := orderAfter r.2 o.ord u.core scope
    let s4 := if l = [] then s3 else countFrames s3 (dieOfCore u.core) (l.map (fun x => x.t.pa))
    let s5 := hintFor s4 (u.core / 4) u.func a
    let vals : List (Nat × (Nat → Word)) := r.1.foldl (fun acc p => acc ++ (spread p.1).map (fun i => (i, loadWord o.sz p.2))) []
    endReturning u c spread w.1.errs (putLoads s5 c o.d.toNat (szRegs o.sz) vals a.masked))

/-- A load from X or Y: `rd` reads the space; `bad` are the lanes whose data has an error in it (R356). -/
def loadLocal (o : MOps) (c : Cap) (u : Unit_) (a : Access) (rd : Nat → List Byte) (bad : List (Nat × Nat)) (spread : Nat → List Nat)
    (s : State) : Res :=
  let scope := o.scope.toNat
  let s1 := orderBefore s o.ord (c.uid s) u.core (activeThreads s c) scope
  let vals : List (Nat × (Nat → Word)) :=
    (a.lanes.filter (fun p => !bad.contains p)).foldl (fun acc p => acc ++ (spread p.1).map (fun i => (i, loadWord o.sz (rd p.2)))) []
  endLate u spread bad (reportLocal (putLoads (orderAfter s1 o.ord u.core scope) c o.d.toNat (szRegs o.sz) vals a.masked) u c 1 bad)

/-- The unit's X bytes. -/
def readX (s : State) (u : Unit_) (n off : Nat) : List Byte := NatMap.getRange 0 (s.core u.core).x (u.xoff + off) n
def readY (s : State) (u : Unit_) (n off : Nat) : List Byte := NatMap.getRange 0 (s.cluster (u.core / 4)).y off n

/-- The lanes whose X element has an error in it. -/
def badXLanes (s : State) (u : Unit_) (n : Nat) (l : List (Nat × Nat)) : List (Nat × Nat) :=
  badLanes (s.core u.core).badX u.xoff n l

/-- The unit of the issuing group, for words of the vector core. -/
def withUnit (c : Cap) (s : State) (k : Unit_ → Res) : Res :=
  match unitOf s c.agent with
  | none => .ok s
  | some u => k u

/-- LD (R112, R113). -/
def bodyLd (o : MOps) (c : Cap) (s : State) : Res :=
  withUnit c s (fun u => withAccess [0] (some (szBytes o.sz)) false o c s (fun a =>
    loadGlobal o c u a (fun l => [l]) s))

def execLd (o : MOps) (s : State) : Host.Outcome State Fault Refusal := issue (.ld o) (bodyLd o) s

/-- LDU (R114): one access, for the index that every active lane has; its value goes to every active lane. -/
def bodyLdu (o : MOps) (c : Cap) (s : State) : Res :=
  uniformOr c.active c.a1 s
    (withUnit c s (fun u => withAccess [0, 1] (some (szBytes o.sz)) false o c s (fun a =>
      let one := { a with lanes := a.lanes.take 1 }
      let all (_ : Nat) : List Nat := c.active
      if a.reg.space = 1 then loadLocal o c u one (readX s u (szBytes o.sz)) (badXLanes s u (szBytes o.sz) one.lanes) all s
      else loadGlobal o c u one all s)))

def execLdu (o : MOps) (s : State) : Host.Outcome State Fault Refusal := issue (.ldu o) (bodyLdu o) s

/-- LDX (R112, R113). -/
def bodyLdx (o : MOps) (c : Cap) (s : State) : Res :=
  withUnit c s (fun u => withAccess [1] (some (szBytes o.sz)) false o c s (fun a =>
    loadLocal o c u a (readX s u (szBytes o.sz)) (badXLanes s u (szBytes o.sz) a.lanes) (fun l => [l]) s))

def execLdx (o : MOps) (s : State) : Host.Outcome State Fault Refusal := issue (.ldx o) (bodyLdx o) s

/-- May LDY read the element: it lies in an entry that is sealed, or still there while it is reclaimed (R113, R132)?
[DEDUCED, log 29] -/
def yReadable (s : State) (cl a n : Nat) : Bool :=
  (sealsOf s (.y cl)).any (fun e => !isFilling e.state && withinRange a n e.start e.len)

/-- LDY (R112, R113). -/
def bodyLdy (o : MOps) (c : Cap) (s : State) : Res :=
  withUnit c s (fun u => withAccess [2] (some (szBytes o.sz)) false o c s (fun a =>
    match a.lanes.find? (fun p => !yReadable s (u.core / 4) p.2 (szBytes o.sz)) with
    | some p => .trap s 0x0B p.2 (laneMask c.active)
    | none => loadLocal o c u a (readY s u (szBytes o.sz)) (badLanes (s.cluster (u.core / 4)).badY 0 (szBytes o.sz) a.lanes)
        (fun l => [l]) s))

def execLdy (o : MOps) (s : State) : Host.Outcome State Fault Refusal := issue (.ldy o) (bodyLdy o) s

-- Stores.

/-- The bytes that a lane stores (R113). -/
def storeBytes (sz : BitVec 3) (c : Cap) (l : Nat) : List Byte :=
  let regs : List Byte := (List.range (szRegs sz)).foldl (fun acc j => acc ++ leBytes 4 (c.datum l j).toNat) []
  regs.take (szBytes sz)

/-- The lanes of a store word enter the buffer of their contained unit (R359). [DEDUCED, log 62] -/
def bufferLanes (s : State) (c : Cap) (sz : BitVec 3) (l : List LaneT) : State :=
  s.modUnit (c.uid s) (fun u => { u with
    buffer := u.buffer ++ l.map (fun x => ⟨laneThread s c.agent x.lane, 6, c.pc.toNat, x.va, x.t.pa, x.t.key, storeBytes sz c x.lane⟩) })

/-- Bytes in a unit's buffer. -/
def bufferUsed (u : Unit_) : Nat := u.buffer.foldl (fun n w => n + w.data.length) 0

/-- Quadrant of an agent. -/
def quadOf : Agent → Nat
  | .group _ sl => sl / 8
  | .quartz _ _ => 0

/-- The requests of a word's lanes are sent toward their homes, in ascending lane order. A request waits for those of lower lanes
at its element, so that the highest lane's value remains (R115), and for its core's registrations in the sector.
[DEDUCED, log 27] -/
def sendLanes (s : State) (c : Cap) (u : Unit_) (o : MOps) (foot : Nat × Nat) (kind : LaneT → SentKind) (l : List LaneT) : State :=
  (l.foldl (fun (x : State × List (Nat × Nat)) p =>
    let st := x.1
    let lower := (x.2.filter (fun q => q.1 == p.t.pa)).map (fun q => q.2)
    let regs := (st.sent.filter (isRegister u.core (secOf p.t.pa))).map (fun q => q.id)
    (sendOrdered st (c.uid st) (laneThread st c.agent p.lane) u.func u.core (quadOf c.agent) p.t.pa p.va p.t.key (c.pc.toNat, c.seq, foot)
      (kind p) o.ord o.scope.toNat (lower ++ regs), x.2 ++ [(p.t.pa, st.nextSeq)])) (s, [])).1

/-- ST (R112, R113, R359). -/
def bodySt (o : MOps) (c : Cap) (s : State) : Res :=
  withUnit c s (fun u => withAccess [0] (some (szBytes o.sz)) false o c s (fun a =>
    withXlate u .write a.lanes s (fun l s1 =>
      let s2 := sendBefore s1 o.ord (c.uid s) u.core (activeThreads s c) o.scope.toNat
      let hold := u.contain && u.relaunchable
      let fits := decide (bufferUsed u + l.length * szBytes o.sz ≤ 65536)
      let s3 := if hold && fits then bufferLanes s2 c o.sz l
        else sendLanes (if hold then endContainment s2 (c.uid s) else s2) c u o a.foot (fun x => .write (storeBytes o.sz c x.lane)) l
      let s4 := if l = [] then s3 else countFrames s3 (dieOfCore u.core) (l.map (fun x => x.t.pa))
      .ok (setBounds s4 c a.masked))))

def execSt (o : MOps) (s : State) : Host.Outcome State Fault Refusal := issue (.st o) (bodySt o) s

/-- Seal checks of a write of X by lanes: sealed and filling entries trap, reclaiming ones stall (R113, R132, R168). -/
def sealGuard (s : State) (u : Unit_) (c : Cap) (n : Nat) (trapOn : SealState → Bool) (l : List (Nat × Nat)) (r : Res) : Res :=
  match l.find? (fun p => sealHit s (.x u.core) (u.xoff + p.2) n trapOn) with
  | some p => .trap s 0x0B p.2 (laneMask c.active)
  | none => if l.any (fun p => sealHit s (.x u.core) (u.xoff + p.2) n isReclaiming) then .wait else r

/-- STX (R112, R113, R250). -/
def bodyStx (o : MOps) (c : Cap) (s : State) : Res :=
  withUnit c s (fun u => withAccess [1] (some (szBytes o.sz)) false o c s (fun a =>
    sealGuard s u c (szBytes o.sz) (fun t => isSealed t || isFilling t) a.lanes
      (let s1 := writeBefore s o.ord (c.uid s) u.core (activeThreads s c) o.scope.toNat
       let s2 := a.lanes.foldl (fun st p => storeX st u.core (u.xoff + p.2) (storeBytes o.sz c p.1)) s1
       .ok (setBounds s2 c a.masked))))

def execStx (o : MOps) (s : State) : Host.Outcome State Fault Refusal := issue (.stx o) (bodyStx o) s

-- Cache words (R116).

/-- The sectors of the lanes' lines, each with its translation, a line once. -/
def lineSectors (l : List LaneT) : List Nat :=
  ((l.map (fun x => lineOf x.t.pa)).eraseDups).foldl (fun acc n => acc ++ (List.range 4).map (fun i => 4 * n + i)) []

/-- Fill a sector into the L1 or the die's L2, unless it is in U at its home or in the core (R116, R284, R285). -/
def prefetchSec (s : State) (core f key : Nat) (l1 : Bool) (sec : Nat) : State :=
  let pa := 64 * sec
  let d := dieOfCore core
  if (dirOf s sec).st = .u ∨ (viewErr s d pa key).1.isSome ∨ (partialOf s core sec).isSome then s
  else if l1 then (if (l1Copy s core sec).isSome then s else (coreRead (useView s d f pa) d core pa 1 key false).2.2)
  else (viewRead (useView s d f pa) d pa 1 key).2

/-- PREF (R116): translation faults are dropped, and a page of memory type 0b01 keeps no copy. [DEDUCED, log 29] -/
def bodyPref (o : MOps) (c : Cap) (s : State) : Res :=
  withUnit c s (fun u => withAccess [0] none true o c s (fun a =>
    let r := xlateLanes u .read s a.lanes
    let l := r.1.ok.filter (fun x => !x.t.unc)
    .ok (l.foldl (fun st x =>
      (lineSectors [x]).foldl (fun q sec => prefetchSec q u.core u.func x.t.key (o.d == 0) sec) st) r.2)))

def execPref (o : MOps) (s : State) : Host.Outcome State Fault Refusal := issue (.pref o) (bodyPref o) s

/-- CINV (R116). -/
def bodyCinv (o : MOps) (c : Cap) (s : State) : Res :=
  withUnit c s (fun u => withAccess [0] none true o c s (fun a =>
    withXlate u .read a.lanes s (fun l s1 =>
      .ok (l.foldl (fun st x => dropL1Line st u.core (lineOf x.t.pa)) s1))))

def execCinv (o : MOps) (s : State) : Host.Outcome State Fault Refusal := issue (.cinv o) (bodyCinv o) s

/-- CWB (R116, R284): one request for each sector of the lines. -/
def bodyCwb (o : MOps) (c : Cap) (s : State) : Res :=
  withUnit c s (fun u => withAccess [0] none true o c s (fun a =>
    withXlate u .read a.lanes s (fun l s1 =>
      .ok (l.foldl (fun st x => (lineSectors [x]).foldl (fun q sec =>
        send q (.thread (c.uid s) (laneThread s c.agent x.lane)) u.func u.core (quadOf c.agent) (64 * sec) x.va x.t.key
          (c.pc.toNat, c.seq, a.foot) (.clean (o.scope == 5)) [] false) st) s1))))

def execCwb (o : MOps) (s : State) : Host.Outcome State Fault Refusal := issue (.cwb o) (bodyCwb o) s

-- FENCE (R124, R243, R246).

/-- FENCE on the vector core; a Quartz context makes no access that it could order (R244). -/
def bodyFence (o : AOps) (c : Cap) (s : State) : Res :=
  match unitOf s c.agent with
  | none => .ok s
  | some u =>
    if c.active = [] then .ok s
    else
      let scope := o.d.toNat % 8
      let ts := activeThreads s c
      let uid := c.uid s
      match o.x.toNat with
      | 1 => .ok (acquireAt (settleSeen s uid u.core ts scope) u.core scope)
      | 2 => .ok (noteFence s uid u.core ts scope)
      | 3 => .ok (acquireAt (settleSeen (noteFence s uid u.core ts scope) uid u.core ts scope) u.core scope)
      | _ => .ok (fenceSc s uid u.core ts scope)

def execFence (o : AOps) (s : State) : Host.Outcome State Fault Refusal := issue (.fence o) (bodyFence o) s

end Sys2Proof.Machine
end

