-- ==== Sys2Proof/Machine/Engines.lean ====
section
/-! DEFINITION. Copies, gathers and scatters, and write-once regions (R125 to R134, R225, R248, R297). -/

namespace Sys2Proof.Machine

/-- The 64-byte descriptor (R127). -/
structure CopyDesc where
  src : Nat
  dst : Nat
  rows : Nat
  rowBytes : Nat
  spitch : Nat
  dpitch : Nat
  ctrl : Nat
  barrier : Nat
  node : Nat
  mbz44 : Nat
  index : Nat
  mbz56 : Nat
deriving DecidableEq, Repr

def descOf (b : List Byte) : CopyDesc :=
  let f (at_ n : Nat) : Nat := leNat ((b.drop at_).take n)
  { src := f 0 8, dst := f 8 8, rows := f 16 4, rowBytes := f 20 4, spitch := f 24 4, dpitch := f 28 4, ctrl := f 32 4,
    barrier := f 36 4, node := f 40 4, mbz44 := f 44 4, index := f 48 4, mbz56 := f 56 8 }

def noBarrier : Nat := 0xFFFFFFFF
/-- Spaces of a descriptor: 0 global, 1 X, 2 W, 3 Y. -/
def CopyDesc.sspace (d : CopyDesc) : Nat := d.ctrl % 4
def CopyDesc.dspace (d : CopyDesc) : Nat := d.ctrl / 4 % 4
def CopyDesc.total (d : CopyDesc) : Nat := d.rows * d.rowBytes
/-- Bytes from the first byte of the first row to the last byte of the last (R130). -/
def hullLen (d : CopyDesc) (pitch : Nat) : Nat := (d.rows - 1) * pitch + d.rowBytes

/-- Does a range lie in its space: the unit's X, the cluster's W or Y, or the virtual address space? -/
def spaceFits (u : Unit_) (sp a len : Nat) : Bool :=
  if sp = 0 then decide (a + len ≤ 2 ^ 57)
  else if sp = 1 then decide (a + len ≤ u.xbytes)
  else if sp = 2 then decide (a + len ≤ 4194304)
  else decide (a + len ≤ 2097152)

def isGather : OpKind → Bool
  | .bgath | .bscat => true
  | _ => false

/-- Source spaces and destination spaces of each instruction (R128). -/
def srcSpaces : OpKind → List Nat
  | .cpy | .cpym _ => [0, 1, 3]
  | .cpyw | .cpyf _ => [0, 1]
  | .bgath => [0]
  | .bscat => [1]
def dstSpaces : OpKind → List Nat
  | .cpy => [0, 1]
  | .cpym _ => [1]
  | .cpyw => [2]
  | .cpyf _ => [0]
  | .bgath => [1]
  | .bscat => [0]

/-- The limits of a copy's fields (R127, R128). -/
def copyOk (k : OpKind) (u : Unit_) (d : CopyDesc) : Bool :=
  let sizes := d.rowBytes % 4 == 0 && d.spitch % 4 == 0 && d.dpitch % 4 == 0
  let src4 := d.src % 4 == 0
  let dst4 := d.dst % 4 == 0
  let pitched := decide (d.rows ≤ 1) || (decide (d.rowBytes ≤ d.spitch) && decide (d.rowBytes ≤ d.dpitch))
  let comp := d.ctrl / 16 % 4
  let isAdd : Bool := match k with | .cpyf op => op != 0 | _ => false
  let local_ : Bool := d.sspace != 0 || d.dspace != 0
  decide (1 ≤ d.rows) && decide (d.rows ≤ 65535) && decide (1 ≤ d.rowBytes) && decide (d.rowBytes ≤ 16777216) && pitched
    && (if k = .cpyw then decide (comp ≤ 1) else comp == 0) && d.index == 0
    && (match k with | .cpyf _ => decide (d.node ≤ 255) | _ => d.node == 0)
    && (!local_ || (sizes && (d.sspace == 0 || src4) && (d.dspace == 0 || dst4)))
    && (!isAdd || (sizes && src4 && dst4))
    && decide (d.total ≤ 2 ^ 32 - 1)
    && spaceFits u d.sspace d.src (hullLen d d.spitch) && spaceFits u d.dspace d.dst (hullLen d d.dpitch)

/-- Addresses of the packed elements and of the table's hull of a gather or scatter. -/
def gatherOk (k : OpKind) (u : Unit_) (d : CopyDesc) : Bool :=
  let packed := if k = .bgath then d.dst else d.src
  let table := if k = .bgath then d.src else d.dst
  decide (table < 2 ^ 57) && decide (1 ≤ d.rows) && decide (d.rows ≤ 65535) && [1, 2, 4, 8, 16].contains d.rowBytes && d.dpitch == 0 && d.node == 0
    && d.ctrl / 16 % 4 == 0 && packed % 4 == 0 && d.index % 4 == 0
    && spaceFits u 1 packed d.total && spaceFits u 1 d.index (4 * d.rows)
    && spaceFits u 0 table (d.spitch * d.rowBytes)

/-- The copy-descriptor checks of R128, less the peers of R129. [DEDUCED, log 40] -/
def descOk (k : OpKind) (u : Unit_) (d : CopyDesc) : Bool :=
  (srcSpaces k).contains d.sspace && (dstSpaces k).contains d.dspace && d.mbz44 == 0 && d.mbz56 == 0 && d.ctrl / 64 == 0
    && (d.barrier == noBarrier || (d.dspace == 1 && d.barrier % 16 == 0 && spaceFits u 1 d.barrier 16))
    && (if isGather k then gatherOk k u d else copyOk k u d)

/-- A resident unit of the same launch whose reservation begins at the same core address (R129). -/
def peerOn (s : State) (u : Unit_) (core : Nat) : Bool :=
  (unitsOnCore s core).any (fun p => p.2.func == u.func && p.2.launch == u.launch && p.2.xoff == u.xoff)

/-- The cores that a copy writes: those of the mask, or the issuing unit's own. -/
def destCores (k : OpKind) (u : Unit_) : List Nat :=
  match k with
  | .cpym m => ((List.range 4).filter (fun i => m / 2 ^ i % 2 == 1)).map (fun i => u.core / 4 * 4 + i)
  | _ => [u.core]

/-- Bytes that an operation reads and writes, hull by hull. -/
def srcLen (k : OpKind) (d : CopyDesc) : Nat :=
  match k with
  | .bgath => d.spitch * d.rowBytes
  | .bscat => d.total
  | _ => hullLen d d.spitch
def dstLen (k : OpKind) (d : CopyDesc) : Nat :=
  match k with
  | .bgath => d.total
  | .bscat => d.spitch * d.rowBytes
  | _ => hullLen d d.dpitch

/-- A source that must be sealed and is not (R128, R132): its offset. [DESIGN CHOICE, log 75] -/
def sealSrc (k : OpKind) (s : State) (u : Unit_) (d : CopyDesc) : Option Nat :=
  if k = .bscat then none
  else if d.sspace = 1 then (if sealedRange s (.x u.core) (u.xoff + d.src) (srcLen k d) then none else some d.src)
  else if d.sspace = 3 then (if sealedRange s (.y (u.core / 4)) d.src (srcLen k d) then none else some d.src)
  else none

/-- A destination or a barrier that meets an entry of a seal table (R132, R225): its offset. -/
def sealDst (k : OpKind) (s : State) (u : Unit_) (d : CopyDesc) : Option Nat :=
  if d.dspace = 1 then
    (if (destCores k u).any (fun c => sealHit s (.x c) (u.xoff + d.dst) (dstLen k d) anySeal) then some d.dst
     else if d.barrier != noBarrier && (destCores k u).any (fun c => sealHit s (.x c) (u.xoff + d.barrier) 16 anySeal) then
       some d.barrier
     else none)
  else if d.dspace = 2 then
    (if sealHit s (.w (u.core / 4)) d.dst (dstLen k d) anySeal || sealFull s (.w (u.core / 4)) then some d.dst else none)
  else none

/-- Timeline id of an operation (R125). -/
def opTimeline : OpKind → Nat
  | .bgath | .bscat => 1
  | .cpyf _ => 2
  | _ => 0

/-- The token register of an engine word. -/
def tokenReg : Src → Nat
  | .sreg f => f.toNat
  | _ => 0

/-- Pages of rows in global space, by the address of their first byte touched. -/
def rowPages (a pitch rows rowBytes : Nat) : List Nat :=
  ((List.range rows).foldl (fun acc r =>
    acc ++ (List.range (rowBytes / 4096 + 2)).filterMap (fun i =>
      let va := a + r * pitch
      let p := if i = 0 then va else va / 4096 * 4096 + 4096 * i
      if p < va + rowBytes then some p else none)) []).eraseDups

/-- Frames of virtual addresses that translate now, for an operation of a core. -/
def pasOf (s : State) (core f : Nat) (vas : List Nat) : List Nat :=
  vas.filterMap (fun v => match (translate s (clusterTlbs (core / 4)) f v .read).1 with
    | .ok t => some t.pa
    | _ => none)

/-- The index list of an operation. -/
def indexList (s : State) (u : Unit_) (d : CopyDesc) : List Nat :=
  (List.range d.rows).map (fun j => leNat (readX s u 4 (d.index + 4 * j)))

/-- Table address of an index. -/
def tableAt (o : EngineOp) (d : CopyDesc) (i : Nat) : Nat := (if o.kind = .bgath then d.src else d.dst) + i * d.rowBytes

/-- Global addresses, one in each page, of the bytes that an operation reads and writes in this package (R220). A CPYF destination
lies in another package. [DEDUCED, log 39] -/
def touched (s : State) (o : EngineOp) (u : Unit_) : List Nat :=
  let d := descOf o.desc
  if isGather o.kind then
    ((indexList s u d).filter (fun i => decide (i < d.spitch))).flatMap (fun i => [tableAt o d i, tableAt o d i + d.rowBytes - 1])
  else
    (if d.sspace = 0 then rowPages d.src d.spitch d.rows d.rowBytes else [])
      ++ (match o.kind with
        | .cpyf _ => []
        | _ => if d.dspace = 0 then rowPages d.dst d.dpitch d.rows d.rowBytes else [])

def opOf (s : State) (id : Nat) : Option EngineOp := s.engineOps.find? (fun o => o.id == id)

def modOp (s : State) (id : Nat) (f : EngineOp → EngineOp) : State :=
  { s with engineOps := s.engineOps.map (fun o => if o.id = id then f o else o) }

/-- Site of an operation (R233). -/
def EngineOp.site (o : EngineOp) : Nat := siteOf (o.core / 4) (o.core % 4) o.tl

/-- A failure record's AUX1 for an engine (R362). -/
def EngineOp.aux1 (o : EngineOp) : Nat := o.tl * 2 ^ 56 + o.num

/-- Advisory counts of an operation, each frame once (R220): at its start those that translate then, at its end the others. -/
def countOp (s : State) (id : Nat) : State :=
  match (opOf s id).bind (fun o => (s.unit? o.uid).map (fun u => (o, u))) with
  | none => s
  | some (o, u) =>
    let frames := (((pasOf s o.core o.func (touched s o u)).filter isHbm).map (· / 2097152)).eraseDups
    let new := frames.filter (fun x => !o.counted.contains x)
    modOp (countFrames s (dieOfCore o.core) (new.map (· * 2097152))) id (fun p => { p with counted := p.counted ++ new })

/-- An engine word (R126 to R129): the checks, then the operation starts behind the thread's earlier accesses. One whose descriptor
has an error in it ends in error (R356). [DEDUCED, log 40; DESIGN CHOICE, log 58; DESIGN CHOICE, log 75] -/
def startOp (k : OpKind) (o : AOps) (c : Cap) (s : State) : Res :=
  uniformOr c.present c.a2 s (withUnit c s (fun u =>
    let off := uv 32 (c.a2 c.lowP)
    if off % 64 ≠ 0 ∨ u.xbytes < off + 64 then .trap s 0x0C off (laneMask c.present)
    else
      let bytes := readX s u 64 off
      let d := descOf bytes
      if !descOk k u d || !(destCores k u).all (peerOn s u) then .trap s 0x0C off (laneMask c.present)
      else
        match sealSrc k s u d, sealDst k s u d with
        | some a, _ => .trap s 0x0B a (laneMask c.active)
        | none, some a => .trap s 0x0B a (laneMask c.active)
        | none, none =>
          let uid := c.uid s
          let ts := c.present.map (laneThread s c.agent)
          let other := match k with
            | .cpym _ => (destCores k u).any (fun x => x != u.core)
            | _ => false
          let s1 := if other then endContainment s uid else s
          let s2 := releaseAt s1 uid u.core ts (if opTimeline k = 2 then 5 else 4)
          let s3 := catchUp s2 (dieOfCore u.core) (ts.foldl (fun l t => unionIds l (ownOf s2 (.thread uid t))) [])
          let n := (u.timeline (opTimeline k)).i + 1
          let bad := badIn (s.core u.core).badX (u.xoff + off) 64
          let op : EngineOp :=
            { id := s3.nextSeq, kind := k, uid := uid, func := u.func, core := u.core, xoff := off, desc := bytes,
              token := tokenReg o.s1, tl := opTimeline k, num := n, done := [], err := bad, sat := false, waiting := none,
              shadow := [], own := [], pins := [], counted := [] }
          let s3a := if bad then s3.report (localReport u.func op.site 2 op.aux1) else s3
          let s4 := countOp { s3a with nextSeq := s3.nextSeq + 1, engineOps := s3.engineOps ++ [op] } op.id
          let s5 := s4.modUnit uid (fun v => v.setTimeline (opTimeline k) (v.timeline (opTimeline k)).issue)
          let s6 := if k ≠ .bscat ∧ d.sspace = 1 then modRefs s5 (.x u.core) (u.xoff + d.src) (srcLen k d) (· + 1)
            else if d.sspace = 3 then modRefs s5 (.y (u.core / 4)) d.src (srcLen k d) (· + 1)
            else s5
          .ok (if d.dspace = 2 then addSeal s6 (.w (u.core / 4)) ⟨d.dst, dstLen k d, .filling, 0, none, false⟩ else s6)))

/-- CPY (R127, R128). -/
def bodyCpy (o : AOps) (c : Cap) (s : State) : Res := startOp .cpy o c s

def execCpy (o : AOps) (s : State) : Host.Outcome State Fault Refusal := issue (.cpy o) (bodyCpy o) s

/-- CPYM (R128, R129). -/
def bodyCpym (o : AOps) (c : Cap) (s : State) : Res := startOp (.cpym (litField o.s3)) o c s

def execCpym (o : AOps) (s : State) : Host.Outcome State Fault Refusal := issue (.cpym o) (bodyCpym o) s

/-- CPYW (R128, R130). -/
def bodyCpyw (o : AOps) (c : Cap) (s : State) : Res := startOp .cpyw o c s

def execCpyw (o : AOps) (s : State) : Host.Outcome State Fault Refusal := issue (.cpyw o) (bodyCpyw o) s

/-- CPYF (R128): plain, .add.f32 or .add.i32. -/
def bodyCpyf (o : AOps) (c : Cap) (s : State) : Res := startOp (.cpyf o.x.toNat) o c s

def execCpyf (o : AOps) (s : State) : Host.Outcome State Fault Refusal := issue (.cpyf o) (bodyCpyf o) s

/-- BGATH (R128, R131). -/
def bodyBgath (o : AOps) (c : Cap) (s : State) : Res := startOp .bgath o c s

def execBgath (o : AOps) (s : State) : Host.Outcome State Fault Refusal := issue (.bgath o) (bodyBgath o) s

/-- BSCAT (R128, R131). -/
def bodyBscat (o : AOps) (c : Cap) (s : State) : Res := startOp .bscat o c s

def execBscat (o : AOps) (s : State) : Host.Outcome State Fault Refusal := issue (.bscat o) (bodyBscat o) s

-- The engines at work.

/-- How the move of some bytes ends: moved, with a fault, or with an error, which `data` says is one in data (R356). -/
inductive Move where
  | ok (s : State)
  | flt (x : XFault) (s : State)
  | err (data : Bool) (s : State)

/-- An error ends an operation early, with its token's error bit (R130, R356); one in data relaunches a unit that may be relaunched
(R360). -/
def opError (s : State) (id : Nat) (data : Bool) : State :=
  match (opOf s id).bind (fun o => (s.unit? o.uid).map (fun u => (o.uid, u))) with
  | some (uid, u) => if data && u.canRelaunch then markRelaunch s uid else modOp s id (fun p => { p with err := true })
  | none => modOp s id (fun p => { p with err := true })

/-- A translation that an operation uses: one that it holds, else one that it looks up (R228 to R232, R297). -/
def opLookup (o : EngineOp) (va : Nat) (want : Want) (s : State) : Tr TlbEntry × State :=
  match o.pins.find? (fun e => e.covers o.func va && e.allows want) with
  | some e => (.ok e, s)
  | none => lookup o.func va want (clusterTlbs (o.core / 4)) s

def opTranslate (o : EngineOp) (va : Nat) (want : Want) (s : State) : Tr Trans × State :=
  match opLookup o va want s with
  | (.ok e, s1) => (.ok (e.trans va), s1)
  | (.flt x, s1) => (.flt x, s1)

/-- An error response ends an engine's move, with its record (R346, R356). -/
def moveErr (o : EngineOp) (e : AccErr) (va : Nat) (t : Trans) (s : State) : Move :=
  .err (e == .poison) (reportErr s e o.func va t.pa t.key o.site 2 o.aux1)

/-- Data with an error in it, in X or Y, ends an engine's move (R356). -/
def localErr (o : EngineOp) (s : State) : Move := .err true (s.report (localReport o.func o.site 2 o.aux1))

/-- Buffered writes of a contained unit over bytes read (R241, R359). [DEDUCED, log 40] -/
def bufOverlay (s : State) (uid pa : Nat) (l : List Byte) : List Byte :=
  match s.unit? uid with
  | some u => u.buffer.foldl (fun x w => overlay pa x w.pa w.data) l
  | none => l

/-- An engine's read of `n` bytes of one sector at a virtual address. -/
def engineGet (o : EngineOp) (va n : Nat) (s : State) (k : List Byte → State → Move) : Move :=
  match opTranslate o va .read s with
  | (.flt x, s1) => .flt x s1
  | (.ok t, s1) =>
    match (if t.unc then homeErr s1 t.pa t.key else viewErr s1 (dieOfCore o.core) t.pa t.key) with
    | (some e, s2) => moveErr o e va t s2
    | (none, s2) =>
      let r := engineRead s2 (dieOfCore o.core) o.func t.pa n t.key t.unc
      k (bufOverlay r.2 o.uid t.pa r.1) r.2

/-- An engine's read of at most 64 bytes, which may lie in two sectors. -/
def engineGetRun (o : EngineOp) (va n : Nat) (s : State) (k : List Byte → State → Move) : Move :=
  if 64 < va % 64 + n then
    engineGet o va (64 - va % 64) s (fun l s1 =>
      engineGet o (va + 64 - va % 64) (va % 64 + n - 64) s1 (fun l2 s2 => k (l ++ l2) s2))
  else engineGet o va n s k

/-- An engine's write within one sector at a virtual address: to the unit's buffer (R359), or performed at the home. -/
def enginePut (o : EngineOp) (va : Nat) (data : List Byte) (s : State) : Move :=
  match opTranslate o va .write s with
  | (.flt x, s1) => .flt x s1
  | (.ok t, s1) =>
    let held := match s1.unit? o.uid with
      | some u => u.contain && u.relaunchable && decide (bufferUsed u + data.length ≤ 65536)
      | none => false
    if held then
      .ok (s1.modUnit o.uid (fun u => { u with buffer := u.buffer ++ [⟨0, 2, o.aux1, va, t.pa, t.key, data⟩] }))
    else
      match homeErr (endContainment s1 o.uid) t.pa t.key with
      | (some e, s2) => moveErr o e va t s2
      | (none, s2) => .ok (performRun (.engine o.id) (dieOfCore o.core) t.key 2 (useHome s2 o.func t.pa) t.pa data)

/-- Lanes of a sub-link of a port under PSPLIT (R343). -/
def subLanes (s : State) (port sub : Nat) : List Nat :=
  let split := (bits s.psplit (2 * port) 2).toNat
  if 18 ≤ port then []
  else if split = 0 then (if sub = 0 then [0, 1, 2, 3] else [])
  else if split = 1 then (if sub < 2 then [2 * sub, 2 * sub + 1] else [])
  else if split = 2 then (if sub < 4 then [sub] else []) else []

/-- Does the partition own the whole sub-link? [DEDUCED, log 63] -/
def ownsLink (s : State) (p port sub : Nat) : Bool :=
  subLanes s port sub != [] && (subLanes s port sub).all (fun l => (s.part p).lanes.getLsbD (4 * port + l))

/-- The sub-link toward a node, for a function of a partition (R343). -/
def fabricLink (s : State) (f node : Nat) : Option (Nat × Nat) :=
  if f = 0 then none
  else
    let p := (s.fcfgOf f).part
    let r := (NatMap.get 0 s.route (256 * p + node)).toNat
    let port := r % 32
    let sub := r / 32 % 4
    if r / 128 = 1 ∧ ownsLink s p port sub then some (port, sub) else none

/-- One piece of a CPYF leaves the package (R130, R343). [DEDUCED, log 40] -/
def fabricPut (o : EngineOp) (op : Nat) (d : CopyDesc) (va : Nat) (data : List Byte) (s : State) : Move :=
  match fabricLink s o.func d.node with
  | some (port, sub) =>
    .ok { s with fabricOut := s.fabricOut ++ [⟨port, sub, (s.part (s.fcfgOf o.func).part).ppid, o.func, va, op, data⟩] }
  | none =>
    let r := (NatMap.get 0 s.route (256 * (s.fcfgOf o.func).part + d.node)).toNat
    .err false (s.report (event0 o.func 0x07 (r % 128) (s.part (s.fcfgOf o.func).part).ppid o.site))

/-- Source bytes that the copy has overwritten read as old or new, word by word (R130). [DESIGN CHOICE, log 24] -/
def mixOverlap (o : EngineOp) (va : Nat) (l : List Byte) : List Byte :=
  l.mapIdx (fun i x => match o.shadow.find? (fun p => p.1 == va + i) with
    | some p => if Config.overlapNew o.id ((va + i) / 4) then x else p.2
    | none => x)

/-- The source's view of bytes that the copy is about to overwrite. [DESIGN CHOICE, log 24] -/
def noteOverlap (o : EngineOp) (d : CopyDesc) (va n : Nat) (s : State) : State :=
  if d.sspace = 0 ∧ d.dspace = 0 ∧ overlaps d.src (hullLen d d.spitch) va n then
    match engineGet o va n s (fun l s1 => .ok (modOp s1 o.id (fun p => { p with
        shadow := (List.range n).foldl (fun m i =>
          if m.any (fun q => q.1 == va + i) then m
          else m ++ [(va + i, l.getD i 0)]) p.shadow }))) with
    | .ok s1 => s1
    | _ => s
  else s

/-- Bytes credited as they land (R130, R136). A count that saturates sets the error bit, and the copy goes on. -/
def creditFor (o : EngineOp) (core xoff n : Nat) (d : CopyDesc) (s : State) : State :=
  if d.barrier = noBarrier ∨ d.dspace ≠ 1 then s
  else
    let r := creditBarrier s core (xoff + d.barrier) n
    if r.1 then modOp r.2 o.id (fun p => { p with sat := true }) else r.2

-- What has landed.

/-- Add the span [a, b) to spans that rise and stand apart. -/
def addSpan : List (Nat × Nat) → Nat → Nat → List (Nat × Nat)
  | [], a, b => [(a, b)]
  | (x, y) :: r, a, b =>
    if b < x then (a, b) :: (x, y) :: r
    else if y < a then (x, y) :: addSpan r a b
    else addSpan r (min a x) (max b y)

/-- The spans of a destination core's bytes that have landed. -/
def EngineOp.spans (o : EngineOp) (core : Nat) : List (Nat × Nat) := NatMap.get [] o.done core

/-- Bytes landed for a destination core. -/
def EngineOp.landed (o : EngineOp) (core : Nat) : Nat := (o.spans core).foldl (fun n p => n + (p.2 - p.1)) 0

/-- First byte of a destination core that has not landed (R130). -/
def EngineOp.firstFree (o : EngineOp) (core : Nat) : Nat :=
  match o.spans core with
  | (0, y) :: _ => y
  | _ => 0

/-- Has no byte of [a, b) landed? -/
def EngineOp.free (o : EngineOp) (core a b : Nat) : Bool := (o.spans core).all (fun p => decide (p.2 ≤ a) || decide (b ≤ p.1))

/-- Source address and destination address of byte `b` of a copy (R130). -/
def CopyDesc.srcAt (d : CopyDesc) (b : Nat) : Nat := d.src + b / d.rowBytes * d.spitch + b % d.rowBytes
def CopyDesc.dstAt (d : CopyDesc) (b : Nat) : Nat := d.dst + b / d.rowBytes * d.dpitch + b % d.rowBytes

def isFabric : OpKind → Bool
  | .cpyf _ => true
  | _ => false

/-- The translations of byte `b` of a copy, of its source, then of its destination, or the fault that it meets. -/
def byteEntries (o : EngineOp) (d : CopyDesc) (b : Nat) (s : State) : Sum XFault (List TlbEntry) × State :=
  let src : Sum XFault (List TlbEntry) × State :=
    if d.sspace = 0 then (match opLookup o (d.srcAt b) .read s with
      | (.flt x, s1) => (.inl x, s1)
      | (.ok e, s1) => (.inr [e], s1))
    else (.inr [], s)
  match src with
  | (.inl x, s1) => (.inl x, s1)
  | (.inr l, s1) =>
    if d.dspace = 0 ∧ isFabric o.kind = false then
      (match opLookup o (d.dstAt b) .write s1 with
       | (.flt x, s2) => (.inl x, s2)
       | (.ok e, s2) => (.inr (l ++ [e]), s2))
    else (.inr l, s1)

/-- The fault that a copy meets at byte `b`, if any. -/
def byteFault (o : EngineOp) (d : CopyDesc) (b : Nat) (s : State) : Option (XFault × State) :=
  match byteEntries o d b s with
  | (.inl x, s1) => some (x, s1)
  | (.inr _, _) => none

/-- The next byte of a copy whose row or page, of source or destination, is another. -/
def CopyDesc.next (d : CopyDesc) (b : Nat) : Nat :=
  b + min (d.rowBytes - b % d.rowBytes) (min (4096 - d.srcAt b % 4096) (4096 - d.dstAt b % 4096))

/-- The operation holds the translations of bytes [b, stop) until they have landed, so that it meets a fault of a page before any byte
of that page or of a later one has landed (R231, R297); none where one of them faults. -/
def holdPages (id : Nat) (d : CopyDesc) (stop : Nat) : Nat → Nat → State → Option State
  | 0, _, s => some s
  | n + 1, b, s =>
    if stop ≤ b then some s
    else
      match opOf s id with
      | none => none
      | some o =>
        match byteEntries o d b s with
        | (.inl _, _) => none
        | (.inr l, s1) =>
          holdPages id d stop n (d.next b) (modOp s1 id (fun p => { p with pins := p.pins ++ l.filter (fun e => !p.pins.contains e) }))

/-- First byte that some destination core still lacks. -/
def copyFront (o : EngineOp) (u : Unit_) : Nat :=
  (destCores o.kind u).foldl (fun m c => min m (o.firstFree c)) (descOf o.desc).total

/-- Does a byte that has not landed yet lie in a page that the copy holds (R231)? -/
def pinNeeded (o : EngineOp) (u : Unit_) (e : TlbEntry) : Bool :=
  let d := descOf o.desc
  let front := copyFront o u
  (List.range d.rows).any (fun r =>
    let lo := max front (r * d.rowBytes)
    let n := (r + 1) * d.rowBytes - lo
    let hits (a : Nat) : Bool := overlaps a n (4096 * e.vpn) (4096 * e.pages)
    decide (lo < (r + 1) * d.rowBytes)
      && ((d.sspace == 0 && hits (d.srcAt lo)) || (d.dspace == 0 && !isFabric o.kind && hits (d.dstAt lo))))

/-- Bytes that land together: words of 4, and of 8 in global memory, where code may stand (R56, R130, R222). -/
def CopyDesc.grain (d : CopyDesc) : Nat := if d.dspace = 0 then 8 else 4

/-- Do two bytes of a copy lie in one word of its destination? -/
def CopyDesc.sameWord (d : CopyDesc) (a b : Nat) : Bool := d.dstAt a / d.grain == d.dstAt b / d.grain

/-- The first byte from `b` on that lies in another word of the destination than byte `a`. A word takes at most 8 bytes, of one row or
of several. -/
def CopyDesc.wordEnd (d : CopyDesc) (a : Nat) : Nat → Nat → Nat
  | 0, b => b
  | n + 1, b => if d.total ≤ b ∨ d.sameWord a b = false then b else d.wordEnd a n (b + 1)

/-- Length of the piece that lands at byte `b`, of at most `n`: whole words of one row and one sector, else the one word, of as many
rows as it takes bytes from (R56, R130). -/
def wholePiece (d : CopyDesc) (b n : Nat) : Nat :=
  let k := min (min n (d.rowBytes - b % d.rowBytes)) (64 - d.dstAt b % 64)
  let stop := b + k
  let run := if stop = d.total ∨ (0 < k ∧ d.sameWord (stop - 1) stop = false) then k else k - (d.dstAt b + k) % d.grain
  if 0 < run ∧ run ≤ k then run else d.wordEnd b 8 b - b

/-- The piece, cut before a page that faults (R297). -/
def pieceLen (o : EngineOp) (d : CopyDesc) (b n : Nat) (s : State) : Nat :=
  let k := wholePiece d b n
  let starts (i : Nat) : Bool := i == 0 || (b + i) % d.rowBytes == 0 || d.srcAt (b + i) % 4096 == 0
  ((List.range k).find? (fun i => starts i && (byteFault o d (b + i) s).isSome)).getD k

/-- Bytes and their places, gathered into runs. -/
def byteRuns : List (Nat × Byte) → List (Nat × List Byte)
  | [] => []
  | (a, x) :: r =>
    match byteRuns r with
    | (c, l) :: t => if c = a + 1 then (a, x :: l) :: t else (a, [x]) :: (c, l) :: t
    | [] => [(a, [x])]

/-- The runs of a destination that a piece of a copy writes. -/
def pieceRuns (d : CopyDesc) (b : Nat) (l : List Byte) : List (Nat × List Byte) :=
  byteRuns (l.mapIdx (fun i x => (d.dstAt (b + i), x)))

/-- The source bytes of a piece, then what is done with them: one read where they are of one row, else byte by byte. -/
def getPiece (o : EngineOp) (d : CopyDesc) (u : Unit_) (b : Nat) : Nat → State → (List Byte → State → Move) → Move
  | 0, s, k => k [] s
  | n + 1, s, k =>
    let m := if b % d.rowBytes + n + 1 ≤ d.rowBytes then n + 1 else 1
    let sa := d.srcAt b
    let more (l : List Byte) (st : State) : Move :=
      if m = n + 1 then k l st else getPiece o d u (b + 1) n st (fun r s2 => k (l ++ r) s2)
    if d.sspace = 0 then engineGetRun o sa m s (fun l s1 => more (mixOverlap o sa l) s1)
    else if d.sspace = 1 then
      (if badIn (s.core u.core).badX (u.xoff + sa) m then localErr o s else more (readX s u m sa) s)
    else if badIn (s.cluster (u.core / 4)).badY sa m then localErr o s else more (readY s u m sa) s

/-- Write a cluster's W; whole words lose their error (R355). -/
def storeW (s : State) (cl a : Nat) (data : List Byte) : State :=
  s.modCluster cl (fun c => { c with w := NatMap.setRange 0 c.w a data, badW := keepBad c.badW a data.length })

/-- Write one run of a copy's destination. -/
def putRun (o : EngineOp) (core : Nat) (d : CopyDesc) (u : Unit_) (a : Nat) (data : List Byte) (s : State) : Move :=
  match o.kind with
  | .cpyf op => fabricPut o op d a data s
  | _ =>
    if d.dspace = 0 then enginePut o a data (noteOverlap o d a data.length s)
    else if d.dspace = 1 then .ok (creditFor o core u.xoff data.length d (storeX s core (u.xoff + a) data))
    else .ok (storeW s (o.core / 4) a data)

/-- Write runs, one after the other. -/
def putRuns (o : EngineOp) (core : Nat) (d : CopyDesc) (u : Unit_) : List (Nat × List Byte) → State → Move
  | [], s => .ok s
  | (a, data) :: r, s =>
    match putRun o core d u a data s with
    | .ok s1 => putRuns o core d u r s1
    | m => m

/-- Move a piece of a copy for one destination core. [DEDUCED, log 39] -/
def movePiece (o : EngineOp) (core b len : Nat) (s : State) : Move :=
  match s.unit? o.uid with
  | none => .err false s
  | some u =>
    let d := descOf o.desc
    getPiece o d u b len s (fun l s1 =>
      match putRuns o core d u (pieceRuns d b l) s1 with
      | .ok s2 => .ok (modOp s2 o.id (fun p => { p with done := NatMap.set [] p.done core (addSpan (p.spans core) b (b + len)) }))
      | m => m)

/-- Move up to `n` bytes from byte `b` on, piece by piece; it stops before a fault and before bytes that have landed. The flag
says whether any byte moved. [DEDUCED, log 39] -/
def moveBytes (core : Nat) : Nat → Nat → Nat → Nat → Bool → State → Bool × State
  | 0, _, _, _, moved, s => (moved, s)
  | fuel + 1, id, b, n, moved, s =>
    match opOf s id with
    | none => (moved, s)
    | some o =>
      let d := descOf o.desc
      let len := if n = 0 ∨ d.total ≤ b then 0 else pieceLen o d b (min n (d.total - b)) s
      if len = 0 ∨ o.err = true ∨ o.free core b (b + len) = false then (moved, s)
      else
        match holdPages id d (b + len) (len + 1) b s with
        | none => (moved, s)
        | some s0 =>
          match movePiece ((opOf s0 id).getD o) core b len s0 with
          | .ok s1 => moveBytes core fuel id (b + len) (n - len) true s1
          | .flt _ _ => (moved, s)
          | .err data s1 => (true, opError s1 id data)

/-- Refuse an event whose condition does not hold. [DESIGN CHOICE, log 12] -/
def notNow (row : String) : Host.Outcome State Fault Refusal := .refused (.notEnabled row)

/-- Finish an event. -/
def done (s : State) : Host.Outcome State Fault Refusal := .next (flushReports s)

/-- May the operation move: no fault is unanswered, no error has ended it, and its unit does not wait to be relaunched? -/
def opRuns (s : State) (o : EngineOp) : Bool :=
  o.waiting.isNone && !o.err && (match s.unit? o.uid with
    | some u => !u.relaunchDue
    | none => false)

/-- May a copy's bytes from byte `b` on land at a core? They begin a word, or what an answered fault has left of one, and the core is
not held in an image (R130, R297). -/
def landsAt (o : EngineOp) (u : Unit_) (core b : Nat) (s : State) : Bool :=
  let d := descOf o.desc
  decide (b < d.total) && (b == 0 || !d.sameWord (b - 1) b || !o.free core (b - 1) b)
    && !(d.dspace == 1 && (s.func u.func).saved.any (fun i => i.core == core && i.launch == u.launch && i.xoff == u.xoff))

/-- COPY_BYTES_LAND (R130, R259): the bytes of a span are written for one destination core and
credited. -/
def execCopyBytesLand (op core : Nat) (span : CopySpan) (s : State) : Host.Outcome State Fault Refusal :=
  match opOf s op with
  | none => notNow "COPY_BYTES_LAND"
  | some o =>
    match s.unit? o.uid with
    | none => notNow "COPY_BYTES_LAND"
    | some u =>
      if isGather o.kind || !opRuns s o || !(destCores o.kind u).contains core || !landsAt o u core span.start s then
        notNow "COPY_BYTES_LAND"
      else
        match holdPages op (descOf o.desc) span.start (span.start + 1) (copyFront o u) s with
        | none => notNow "COPY_BYTES_LAND"
        | some s0 =>
          let r := moveBytes core span.len op span.start span.len false s0
          if r.1 then done r.2 else notNow "COPY_BYTES_LAND"

/-- Release the sets of a unit that wait on one of its timelines (R141); the core drops its L1 (R248). -/
def serveTwait (s : State) (uid tl : Nat) : State :=
  match s.unit? uid with
  | none => s
  | some u =>
    (u.parked.filter (fun p => match p.on with
      | .twait t n => decide (t = tl) && decide (n ≤ (u.timeline tl).c)
      | _ => false)).foldl (fun st p => releaseSet (dropL1 st u.core) uid p) s

/-- An operation ends: its writes applied to its die, the token written, C advanced, references dropped, a CPYW range
sealed (R126, R130, R132, R248). -/
def endOp (s : State) (o : EngineOp) : State :=
  let d := descOf o.desc
  let s1 := catchUp s (dieOfCore o.core) o.own
  let s2 := { s1 with engineOps := s1.engineOps.filter (fun p => p.id != o.id) }
  let s3 := s2.modUnit o.uid (fun u =>
    let v := (u.setSreg o.token (BitVec.ofNat 64 (o.num % 2 ^ 63 + (if o.err || o.sat then 2 ^ 63 else 0)))).setTimeline o.tl
      ((u.timeline o.tl).complete o.num)
    { v with tokens := NatMap.set 0 v.tokens o.token (o.tl + 1) })
  let s4 := match s.unit? o.uid with
    | none => s3
    | some u =>
      if o.kind ≠ .bscat ∧ d.sspace = 1 then dropRefs s3 (.x o.core) (u.xoff + d.src) (srcLen o.kind d)
      else if d.sspace = 3 then dropRefs s3 (.y (o.core / 4)) d.src (srcLen o.kind d)
      else s3
  let s5 := if d.dspace = 2 then
      setSeals s4 (.w (o.core / 4)) ((sealsOf s4 (.w (o.core / 4))).map (fun e =>
        if e.start = d.dst ∧ isFilling e.state then { e with state := .sealed, failed := o.err } else e))
    else s4
  serveTwait s5 o.uid o.tl

/-- Has every destination of a copy been written? -/
def copyDone (s : State) (o : EngineOp) : Bool :=
  match s.unit? o.uid with
  | some u => (destCores o.kind u).all (fun c => o.landed c == (descOf o.desc).total)
  | none => false

/-- COPY_COMPLETE (R130, R248). -/
def execCopyComplete (op : Nat) (s : State) : Host.Outcome State Fault Refusal :=
  match opOf s op with
  | none => notNow "COPY_COMPLETE"
  | some o =>
    if isGather o.kind || o.waiting.isSome || !(o.err || copyDone s o) || (match s.unit? o.uid with
        | some u => u.relaunchDue
        | none => true) then notNow "COPY_COMPLETE"
    else done (endOp (countOp s op) o)

-- Gathers and scatters (R131).

/-- First fault among the table entries that the list names, in list order. -/
def gatherFault (o : EngineOp) (d : CopyDesc) (s : State) (idx : List Nat) : Tr Unit × State :=
  idx.foldl (fun (r : Tr Unit × State) i =>
    match r.1 with
    | .ok _ =>
      if d.spitch ≤ i then r
      else
        let want : Want := if o.kind = .bgath then .read else .write
        let tlbs := clusterTlbs (o.core / 4)
        (match translate r.2 tlbs o.func (tableAt o d i) want with
         | (.ok _, s1) => (match translate s1 tlbs o.func (tableAt o d i + d.rowBytes - 1) want with
           | (.ok _, s2) => (.ok (), s2)
           | (.flt x, s2) => (.flt x, s2))
         | (.flt x, s1) => (.flt x, s1))
    | _ => r) (.ok (), s)

/-- Move element `j`. -/
def moveElem (o : EngineOp) (u : Unit_) (d : CopyDesc) (s : State) (j i : Nat) : Move :=
  let n := d.rowBytes
  if o.kind = .bgath then
    let put (l : List Byte) (st : State) : Move :=
      .ok (creditFor o o.core u.xoff n d (storeX st o.core (u.xoff + d.dst + j * n) l))
    if d.spitch ≤ i then put (List.replicate n 0) s
    else
      engineGetRun o (tableAt o d i) n s put
  else if d.spitch ≤ i then .ok s
  else
    let va := tableAt o d i
    let data := readX s u n (d.src + j * n)
    if badIn (s.core u.core).badX (u.xoff + d.src + j * n) n then localErr o s
    else if 64 < va % 64 + n then
      (match enginePut o va (data.take (64 - va % 64)) s with
       | .ok s1 => enginePut o (va + 64 - va % 64) (data.drop (64 - va % 64)) s1
       | r => r)
    else enginePut o va data s

/-- Move every element in list order; an error ends it, and the flag is then false. [DEDUCED, log 39] -/
def moveElems (o : EngineOp) (u : Unit_) (d : CopyDesc) : List (Nat × Nat) → State → Bool × State
  | [], s => (true, s)
  | (j, i) :: r, s =>
    match moveElem o u d s j i with
    | .ok s1 => moveElems o u d r s1
    | .err data s1 => (false, opError s1 o.id data)
    | _ => (false, opError s o.id false)

/-- GATHER_COMPLETE (R131): every page translates, the elements move, STATUS is written, the operation ends. An
operation that a permission fault has ended only ends. -/
def execGatherComplete (op : Nat) (s : State) : Host.Outcome State Fault Refusal :=
  match opOf s op with
  | none => notNow "GATHER_COMPLETE"
  | some o =>
    match s.unit? o.uid with
    | none => notNow "GATHER_COMPLETE"
    | some u =>
      let d := descOf o.desc
      let idx := indexList s u d
      if !isGather o.kind || o.waiting.isSome || u.relaunchDue then notNow "GATHER_COMPLETE"
      else
        let end_ (st : State) : Host.Outcome State Fault Refusal :=
          let st1 := countOp st op
          match opOf st1 op, st1.unit? o.uid with
          | some q, some v => done (if v.relaunchDue then st1 else endOp st1 q)
          | _, _ => done st1
        if o.err then end_ s
        else if badIn (s.core u.core).badX (u.xoff + d.index) (4 * d.rows) then
          end_ (opError (s.report (localReport o.func o.site 2 o.aux1)) op true)
        else
          match gatherFault o d s idx with
          | (.flt _, _) => notNow "GATHER_COMPLETE"
          | (.ok _, s1) =>
            let r := moveElems o u d (idx.mapIdx (fun j i => (j, i))) s1
            end_ (if r.1 then
                storeX r.2 o.core (u.xoff + o.xoff + 52) (leBytes 4 (idx.filter (fun i => decide (d.spitch ≤ i))).length)
              else r.2)

/-- The fault that an operation meets next, if any: a copy meets it at the first byte that some destination core lacks, once all
before it has landed (R297). -/
def nextFault (s : State) (o : EngineOp) (u : Unit_) : Option (XFault × State) :=
  let d := descOf o.desc
  if isGather o.kind then
    (match gatherFault o d s (indexList s u d) with
     | (.flt x, s1) => some (x, s1)
     | _ => none)
  else if d.total ≤ copyFront o u then none
  else byteFault o d (copyFront o u) s

/-- ENGINE_TRANSLATION_FAULT (R130, R233): a fault of KIND 1 or 4 stops the operation until it is answered; KIND 2 ends
it, with a record for information. -/
def execEngineTranslationFault (op : Nat) (s : State) : Host.Outcome State Fault Refusal :=
  match opOf s op with
  | none => notNow "ENGINE_TRANSLATION_FAULT"
  | some o =>
    match s.unit? o.uid with
    | none => notNow "ENGINE_TRANSLATION_FAULT"
    | some u =>
      if !opRuns s o then notNow "ENGINE_TRANSLATION_FAULT"
      else
        match nextFault s o u with
        | none => notNow "ENGINE_TRANSLATION_FAULT"
        | some (x, s1) =>
          let info := decide (x.kind = 2)
          let r := addFault s1 o.func x 2 o.site 0 info (.op o.id)
          done (modOp r.2 o.id (fun p => if info then { p with err := true } else { p with waiting := some r.1, pins := [] }))

/-- FAULT_RECORD_WRITE (R233): a waiting record is written once its log has space. -/
def execFaultRecordWrite (id : Nat) (s : State) : Host.Outcome State Fault Refusal :=
  match s.faults.find? (fun r => r.id == id) with
  | some r => if r.written || (s.func r.log).flogBad || (s.func r.log).flog.full then notNow "FAULT_RECORD_WRITE" else done (writeFault s id)
  | none => notNow "FAULT_RECORD_WRITE"

-- Write-once regions.

/-- Does an operation of the unit write the X range of the core? -/
def writesInto (u : Unit_) (core a len : Nat) (o : EngineOp) : Bool :=
  let d := descOf o.desc
  d.dspace == 1 && (destCores o.kind u).contains core && overlaps (u.xoff + d.dst) (dstLen o.kind d) a len

/-- Does an operation in flight, or one that a saved unit of the same cohort holds, write the X range of the unit's core (R225)? -/
def copyInto (s : State) (u : Unit_) (a len : Nat) : Bool :=
  s.engineOps.any (fun o => match s.unit? o.uid with
    | some v => writesInto v u.core a len o
    | none => false)
  || (s.func u.func).saved.any (fun i => i.launch == u.launch && i.cohort == u.cohort && i.ops.any (writesInto i.rest u.core a len))

/-- SEAL (R133, R225). [DESIGN CHOICE, log 76] -/
def bodySeal (_o : AOps) (c : Cap) (s : State) : Res :=
  uniformOr c.present c.a1 s (uniformOr c.present c.a2 s (withUnit c s (fun u =>
    let off := uv 32 (c.a1 c.lowP)
    let len := uv 32 (c.a2 c.lowP)
    if c.active = [] then .ok s
    else if off % 256 ≠ 0 ∨ len % 256 ≠ 0 ∨ len = 0 ∨ u.xbytes < off + len then .trap s 0x0B off (laneMask c.active)
    else if sealHit s (.x u.core) (u.xoff + off) len anySeal || sealFull s (.x u.core) then
      .trap s 0x0B off (laneMask c.active)
    else if copyInto s u (u.xoff + off) len then .wait
    else .ok (addSeal s (.x u.core) ⟨u.xoff + off, len, .sealed, 0, some (c.uid s), false⟩))))

def execSeal (o : AOps) (s : State) : Host.Outcome State Fault Refusal := issue (.seal o) (bodySeal o) s

/-- RECLAIM (R134, R261): an entry without references goes at once. [DESIGN CHOICE, log 76] -/
def bodyReclaim (o : AOps) (c : Cap) (s : State) : Res :=
  uniformOr c.present c.a1 s (withUnit c s (fun u =>
    let off := uv 32 (c.a1 c.lowP)
    let tab : SealTab := if o.x = 0 then .x u.core else if o.x = 1 then .w (u.core / 4) else .y (u.core / 4)
    let at_ := if o.x = 0 then u.xoff + off else off
    let mine := o.x != 0 || decide (off < u.xbytes)
    if c.active = [] then .ok s
    else if mine && (sealsOf s tab).any (fun e => e.start == at_ && isSealed e.state) then
      .ok (sweepSeals (setSeals s tab ((sealsOf s tab).map (fun e =>
        if e.start = at_ ∧ isSealed e.state then { e with state := .reclaiming } else e))) tab)
    else .trap s 0x0B off (laneMask c.active)))

def execReclaim (o : AOps) (s : State) : Host.Outcome State Fault Refusal := issue (.reclaim o) (bodyReclaim o) s

/-- SEAL_ENTRY_REMOVE (R132, R134): a reclaiming entry without references goes. Stores that stall on it issue again. -/
def execSealEntryRemove (space : SealSpace) (place start : Nat) (s : State) : Host.Outcome State Fault Refusal :=
  let tab : SealTab := match space with
    | .x => .x place
    | .w => .w place
    | .y => .y place
  if (sealsOf s tab).any (fun e => e.start == start && e.gone) then done (sweepSeals s tab) else notNow "SEAL_ENTRY_REMOVE"

end Sys2Proof.Machine
end

