-- ==== Sys2Proof/Machine/Slots.lean ====
section
/-! DEFINITION. Format slots and element formats (R101 to R103, R262 to R265). -/

namespace Sys2Proof.Machine

/-- The fields of a slot (R265). -/
def slotScale (v : DWord) : Nat := (bits v 4 2).toNat
def slotMode (v : DWord) : Mode :=
  match (bits v 6 3).toNat with
  | 0 => .rne
  | 1 => .rtz
  | 2 => .rup
  | 3 => .rdn
  | _ => .rna
def slotSat (v : DWord) : Bool := v.getLsbD 9
def slotNanZero (v : DWord) : Bool := v.getLsbD 10
def slotFormat (v : DWord) : Nat := (bits v 0 4).toNat

/-- Is a slot value valid (R265)? -/
def slotValid (v : DWord) : Bool :=
  bits v 11 53 == 0 && decide (slotFormat v < 12) && decide ((bits v 6 3).toNat < 5) && slotScale v != 3
    && !((slotFormat v == 8 || slotFormat v == 9) && slotScale v != 0)

/-- roundint (R99): an integer nearest to, or toward, an exact value. -/
def roundInt (mode : Mode) (neg : Bool) (m : Nat) (e : Int) : Int :=
  let mag : Nat :=
    if 0 ≤ e then m * 2 ^ e.toNat
    else
      let sh := (-e).toNat
      let q := m / 2 ^ sh
      if roundUpQ mode neg (decide (q % 2 = 1)) (m % 2 ^ sh) (2 ^ (sh - 1)) false then q + 1 else q
  if neg then -(mag : Int) else mag

/-- One term of an SP element, in eighths (R263). [DEDUCED, log 31] -/
def spTerm (e : Nat) (s : Bool) : Int := if e = 0 then 0 else if s then -(2 ^ (e - 1) : Int) else 2 ^ (e - 1)

/-- The value of an element of a format (R262, R263). -/
def elemVal (fmt p : Nat) : FVal :=
  let ofInt (n w : Nat) : FVal := .ofInt (if n < 2 ^ (w - 1) then (n : Int) else (n : Int) - 2 ^ w)
  let eighths (v : Int) : FVal := if v = 0 then .fin false 0 0 else .fin (decide (v < 0)) v.natAbs (-3)
  match fmt with
  | 0 => decodeF fp32 p
  | 1 => decodeF e8m10 (p / 2 ^ 13)
  | 2 => decodeF bf16 p
  | 3 => decodeF fp16 p
  | 4 => decodeF e4m3 p
  | 5 => decodeF e5m2 p
  | 6 => decodeF e3m2 (p % 64)
  | 7 => decodeF e2m1 p
  | 8 => ofInt p 8
  | 9 => ofInt p 4
  | 10 => eighths (spTerm (p / 16 % 8) (decide (128 ≤ p)) + spTerm (p % 8) (decide (p / 8 % 2 = 1)))
  | _ => eighths (spTerm (p % 8) (decide (p / 8 % 2 = 1)))

/-- The magnitudes of SP1 and SP2 in eighths, ascending (R263). -/
def sp1Mags : List Nat := [0, 1, 2, 4, 8, 16, 32, 64]
def sp2Mags : List Nat :=
  (List.range 129).filter (fun n => sp1Mags.any (fun a => sp1Mags.any (fun b => n == a + b || n + b == a)))

/-- Round a magnitude to a list of magnitudes: the last at or below it, or the next (R102, R264). -/
def spRound (mags : List Nat) (mode : Mode) (neg : Bool) (m : Nat) (e : Int) : Nat :=
  -- the value in eighths is m * 2^(e + 3); compare at a common scale
  let up := (e + 3).toNat
  let dn := (-(e + 3)).toNat
  let v := m * 2 ^ up
  let sc (n : Nat) : Nat := n * 2 ^ dn
  let lo := (mags.filter (fun n => decide (sc n ≤ v))).getLastD 0
  match mags.find? (fun n => decide (v ≤ sc n)) with
  | none => mags.getLastD 0
  | some hi =>
    if sc lo = v then lo
    else
      match mode with
      | .rtz => lo
      | .rup => if neg then lo else hi
      | .rdn => if neg then hi else lo
      | _ => if v - sc lo < sc hi - v then lo else hi

/-- Canonical code of a power of two in eighths. -/
def spCode (n : Nat) : Nat := Nat.log2 n + 1

/-- The canonical SP2 byte of a magnitude in eighths (R102). A single term is term A. [DEDUCED, log 31] -/
def sp2Enc (neg : Bool) (n : Nat) : Nat :=
  let s (x : Bool) : Nat := if x then 8 else 0
  if n = 0 then 0
  else if n = 128 then 16 * (s neg + 7) + s neg + 7
  else
    let a := 2 ^ Nat.log2 n
    if n = a then 16 * (s neg + spCode a)
    else
      let b := n - a
      if b = 2 ^ Nat.log2 b then 16 * (s neg + spCode a) + s neg + spCode b
      else 16 * (s neg + spCode (2 * a)) + s (!neg) + spCode (2 * a - n)

def sp1Enc (neg : Bool) (n : Nat) : Nat := if n = 0 then 0 else (if neg then 8 else 0) + spCode n

/-- CVTS of one FP32 value under a slot, as an element pattern (R102). -/
def cvtsVal (slot : DWord) (a : Nat) : Nat :=
  let mode := slotMode slot
  let sat := slotSat slot
  let zero := slotNanZero slot
  let ieee (f : Fmt) : Nat :=
    match decodeF fp32 a with
    | .nan => if zero then 0 else f.nanPat
    | .inf n => f.signPat n + (if sat then f.maxPat else f.infPat)
    | .fin n m e =>
      let r := roundMag f.mb f.emin mode n m e false
      if overflows f r.1 r.2 then f.signPat n + (if sat then f.maxPat else overflowPat f mode n)
      else f.signPat n + patOf f r.1 r.2
  let capped (f : Fmt) (big : Nat) (nan : Nat) : Nat :=
    match decodeF fp32 a with
    | .nan => nan
    | .inf n => f.signPat n + big
    | .fin n m e =>
      let r := roundMag f.mb f.emin mode n m e false
      f.signPat n + (if overflows f r.1 r.2 then big else patOf f r.1 r.2)
  let int (w : Nat) : Nat :=
    let lo : Int := -(2 ^ (w - 1))
    let hi : Int := 2 ^ (w - 1) - 1
    let v : Int := match decodeF fp32 a with
      | .nan => 0
      | .inf n => if n then lo else hi
      | .fin n m e => clampZ (roundInt mode n m e) lo hi
    (v % 2 ^ w).toNat
  let sp (mags : List Nat) (enc : Bool → Nat → Nat) : Nat :=
    match decodeF fp32 a with
    | .nan => 0
    | .inf n => enc n (mags.getLastD 0)
    | .fin n m e => enc n (spRound mags mode n m e)
  match slotFormat slot with
  | 0 => ieee fp32
  | 1 => ieee e8m10 * 2 ^ 13
  | 2 => ieee bf16
  | 3 => ieee fp16
  | 4 => capped e4m3 (if sat then e4m3.maxPat else e4m3.nanPat) (if zero then 0 else e4m3.nanPat)
  | 5 => ieee e5m2
  | 6 => capped e3m2 e3m2.maxPat 0
  | 7 => capped e2m1 e2m1.maxPat 0
  | 8 => int 8
  | 9 => int 4
  | 10 => sp sp2Mags sp2Enc
  | _ => sp sp1Mags sp1Enc

/-- CVTL of one element pattern under a slot, as an FP32 pattern (R103). [DEDUCED, log 31] -/
def cvtlVal (slot : DWord) (p : Nat) : Nat :=
  match elemVal (slotFormat slot) p with
  | .nan => if slotNanZero slot then 0 else fp32.nanPat
  | v => roundTo fp32 .rne v

end Sys2Proof.Machine
end

