-- ==== Sys2Proof/Machine/Records.lean ====
section
/-! DEFINITION. Launch records (R201, R202, R204), region lists (R310), and the loader of code objects (R51 to R55). -/

namespace Sys2Proof.Machine

-- Launch records.

/-- A map of fields of one width. -/
def fldMap (b : List Byte) (at_ : Nat) (count : Nat) : NatMap DWord :=
  (List.range count).foldl (fun m i => NatMap.set 0 m i (BitVec.ofNat 64 (fld b (at_ + 8 * i) 8))) []

/-- ARRAY entry `n` (R201, R105). -/
def arrayEntry (b : List Byte) (n : Nat) : ArrayReg :=
  let a := 0x0C0 + 16 * n
  ⟨BitVec.ofNat 64 (fld b a 8), BitVec.ofNat 32 (fld b (a + 8) 4), BitVec.ofNat 32 (fld b (a + 12) 4)⟩

/-- The fields of a record of 768 bytes. -/
def recordOf (b : List Byte) : LaunchRec :=
  let q := fld b 0x02E 1
  { entry := BitVec.ofNat 57 (fld b 0 8), trapentry := BitVec.ofNat 57 (fld b 8 8), qentry := BitVec.ofNat 57 (fld b 0x10 8)
    gridx := fld b 0x18 4, gridy := fld b 0x1C 4, gridz := fld b 0x20 4
    threads := fld b 0x24 2, regs := fld b 0x26 2, xbytes := fld b 0x28 4, age := fld b 0x2C 2
    qctx := q % 8, prio := if q / 32 % 2 = 1 then some (q / 8 % 4) else none
    slotset := BitVec.ofNat 8 (fld b 0x2F 1), flags := BitVec.ofNat 32 (fld b 0x30 4)
    smask := BitVec.ofNat 16 (fld b 0x34 2), qsmask := BitVec.ofNat 16 (fld b 0x36 2)
    slots := fldMap b 0x080 8
    arrays := (List.range 16).foldl (fun m n => NatMap.set .reset m n (arrayEntry b n)) []
    sinit := fldMap b 0x1C0 16, qsinit := fldMap b 0x240 16 }

/-- A field between limits; in a template a grid field may be 0. -/
def gridOk (template : Bool) (v hi : Nat) : Bool := (template && v == 0) || (decide (1 ≤ v) && decide (v ≤ hi))

/-- The scalar fields within the limits of R201 and R202. -/
def fieldsOk (template : Bool) (b : List Byte) : Bool :=
  let r := recordOf b
  let q := fld b 0x2E 1
  let addr (v : Nat) : Bool := v % 8 == 0 && decide (v < 2 ^ 57)
  addr (fld b 0 8) && addr (fld b 8 8) && addr (fld b 0x10 8)
    && gridOk template r.gridx (2 ^ 31 - 1) && gridOk template r.gridy 65535 && gridOk template r.gridz 65535
    && decide (r.gridx * r.gridy * r.gridz ≤ 2 ^ 32 - 1)
    && decide (32 ≤ r.threads) && decide (r.threads ≤ 1024) && r.threads % 32 == 0
    && decide (32 ≤ r.regs) && decide (r.regs ≤ 480) && r.regs % 32 == 0
    && decide (r.xbytes ≤ 786432) && r.xbytes % 256 == 0
    && (r.age == 0 || (decide (16 ≤ r.age) && decide (r.age ≤ 1024)))
    && decide (q < 64) && (r.qentry != 0 || (q == 0 && r.qsmask == 0))
    && bits r.flags 3 29 == 0
    && (fld b 0x40 4 != 0 || fld b 0x38 8 == 0)
    && zeros b 0x44 60 && zeros b 0x2C0 64

/-- Slots and array entries: set ones pass their checks, others are 0 (R106, R201, R265). -/
def tablesOk (b : List Byte) : Bool :=
  let r := recordOf b
  (List.range 8).all (fun n =>
    if r.slotset.getLsbD n then slotValid (NatMap.get 0 r.slots n) else NatMap.get 0 r.slots n == 0)
  && (List.range 16).all (fun n =>
    let a := arrayEntry b n
    if a.valid then a.ok r.xbytes && (a.space != 0 || decide (a.base.toNat < 2 ^ 57)) else a == .reset)

/-- The checks of R204 that a template and a submitted record share. -/
def recordOk (template : Bool) (b : List Byte) : Bool :=
  let r := recordOf b
  fieldsOk template b && tablesOk b && decide (r.threads * (r.regs + 32) * 4 ≤ 524288)

/-- Flags of R202. -/
def LaunchRec.redundant (r : LaunchRec) : Bool := r.flags.getLsbD 0
def LaunchRec.contain (r : LaunchRec) : Bool := r.flags.getLsbD 1

/-- Cohorts of a launch (R205). -/
def LaunchRec.cohortCount (r : LaunchRec) : Nat := ceilDiv r.units 4

/-- Age limit of the bins of a launch (R195). -/
def LaunchRec.ageLimit (r : LaunchRec) : Nat := if r.age = 0 then 64 else r.age

-- Region lists (R310).

/-- One entry of 32 bytes; none when it breaks R310. -/
def regionOf (b : List Byte) : Option Region :=
  let base := fld b 0 8
  let row0 := fld b 8 4
  let col0 := fld b 12 4
  let rows := fld b 16 4
  let cols := fld b 20 4
  let pitch := fld b 24 4
  let acc := fld b 28 4
  let lo := base + row0 * pitch + col0
  let hi := base + (row0 + rows - 1) * pitch + col0 + cols - 1
  if base < 2 ^ 57 ∧ 1 ≤ rows ∧ rows ≤ 2 ^ 24 ∧ 1 ≤ cols ∧ cols ≤ 2 ^ 31 ∧ (rows ≤ 1 ∨ col0 + cols ≤ pitch)
      ∧ acc < 8 ∧ acc % 4 ≠ 0 ∧ hi < 2 ^ 57 then
    some ⟨lo, hi, acc % 2 == 1, acc / 2 % 2 == 1, acc / 4 == 1⟩
  else none

-- The loader.

def loadOk : Nat := 0
def notTsuar : Nat := 1
def badNote : Nat := 2
def levelTooHigh : Nat := 3
def badReloc : Nat := 4
def badTemplate : Nat := 5

/-- R51: class 64, little-endian, version 1, ET_EXEC or ET_DYN, machine 0x4C56. -/
def headerOk (o : CodeObject) : Bool :=
  o.eiClass == 2 && o.eiData == 1 && o.eiVersion == 1 && (o.eType == 2 || o.eType == 3) && o.eMachine == 0x4C56

/-- "Tsuar", a zero byte, and two bytes of padding (R53). -/
def noteName : List Byte := [0x54, 0x73, 0x75, 0x61, 0x72, 0, 0, 0]

def noteOk (n : LevelNote) : Bool :=
  n.namesz == 6 && n.descsz == 8 && n.ntype == 1 && n.name == noteName && decide (1 ≤ n.required)
    && decide (n.required ≤ n.target) && decide (n.target < 2 ^ 32)

def secBytes (o : CodeObject) : Section → List Byte
  | .text => o.text
  | .quartz => o.quartz
  | .launch => o.launch
  | .other n => ((o.others[n]?).map (fun x => x.bytes)).getD []

def secAt (o : CodeObject) : Section → Nat
  | .text => o.textAt
  | .quartz => o.quartzAt
  | .launch => o.launchAt
  | .other n => ((o.others[n]?).map (fun x => x.at_)).getD 0

def setSec (o : CodeObject) (k : Section) (b : List Byte) : CodeObject :=
  match k with
  | .text => { o with text := b }
  | .quartz => { o with quartz := b }
  | .launch => { o with launch := b }
  | .other n => { o with others := o.others.modify n (fun x => { x with bytes := b }) }

/-- Replace `n` bits from bit `from_` of a value. -/
def putBits (old from_ n v : Nat) : Nat := old - old / 2 ^ from_ % 2 ^ n * 2 ^ from_ + v % 2 ^ n * 2 ^ from_

/-- Patch bits of the bytes at an offset. -/
def patch (b : List Byte) (off bytes from_ n v : Nat) : List Byte :=
  b.take off ++ leBytes bytes (putBits (fld b off bytes) from_ n v) ++ b.drop (off + bytes)

/-- Apply one relocation (R54); none for BAD_RELOC. -/
def relocate (base : Nat) (o : CodeObject) (r : Reloc) : Option CodeObject :=
  let b := secBytes o r.sec
  let put (bytes from_ n : Nat) (v : Int) : Option CodeObject :=
    if r.off + bytes ≤ b.length then
      some (setSec o r.sec (patch b r.off bytes from_ n (v % 2 ^ 64).toNat))
    else none
  match r.sym with
  | none => if r.rtype = 4 ∧ r.sec = .launch then put 8 0 64 r.addend else none
  | some v =>
    let s : Int := base + v
    let p : Int := base + secAt o r.sec + r.off
    if r.rtype = 1 then
      let d := s + r.addend - p
      if d % 8 = 0 ∧ -(2 ^ 25) ≤ d / 8 ∧ d / 8 < 2 ^ 25 then put 4 1 26 (d / 8) else none
    else if r.rtype = 2 then put 5 1 32 (s + r.addend)
    else if r.rtype = 3 then put 5 1 32 ((s + r.addend) / 2 ^ 32)
    else if r.rtype = 4 then put 8 0 64 (s + r.addend)
    else none

def relocateAll (base : Nat) : List Reloc → CodeObject → Option CodeObject
  | [], o => some o
  | r :: rs, o => match relocate base o r with
    | some o1 => relocateAll base rs o1
    | none => none

/-- Does an address lie in an executable section of the object? -/
def inText (base : Nat) (o : CodeObject) (a : Nat) : Bool :=
  (decide (base + o.textAt ≤ a) && decide (a < base + o.textAt + o.text.length))
    || (decide (base + o.quartzAt ≤ a) && decide (a < base + o.quartzAt + o.quartz.length))

/-- The template checks (R204). -/
def templatesOk (base : Nat) (o : CodeObject) : Bool :=
  (List.range o.nTemplates).all (fun i =>
    let b := (o.launch.drop (768 * i)).take 768
    b.length == 768 && recordOk true b && inText base o (fld b 0 8) && (fld b 0x10 8 == 0 || inText base o (fld b 0x10 8)))

/-- The first failed check of R55, or the object as it is to be written. -/
def loadCheck (base : Nat) (o : CodeObject) : Sum Nat CodeObject :=
  if !headerOk o then .inl notTsuar
  else
    match o.notes with
    | [n] =>
      if !noteOk n then .inl badNote
      else if 1 < n.required then .inl levelTooHigh
      else
        (match relocateAll base o.relocs o with
         | none => .inl badReloc
         | some o1 => if templatesOk base o1 then .inr o1 else .inl badTemplate)
    | _ => .inl badNote

/-- Predecessors of a host write: the host's earlier performed writes, with theirs; over a coherent H1 also what the
host's view has applied (R249). [DEDUCED, log 25] -/
def hostPreds (s : State) : List Nat :=
  let base := s.hostOwn ++ (if s.boot.h1c then (s.performed.filter (appliedTo s 4)).map (·.id) else [])
  (s.performed.filter (fun w => base.contains w.id)).foldl (fun acc w => unionIds acc (w.id :: prune s w.preds)) []

/-- The host writes a run of bytes of function `f` at their homes, sector by sector (R249); what lies in host memory stands there at
once. A sector that gives an error response is not written (R346, R356). [DEDUCED, log 70] -/
def hostPerform (f key : Nat) : Nat → State → Nat → Nat → List Byte → State
  | 0, s, _, _, _ => s
  | n + 1, s, va, pa, data =>
    if data = [] then s
    else
      let k := min data.length (64 - pa % 64)
      let put : State := match homeErr s pa key with
        | (some e, s1) => reportErr s1 e f va pa key (homeOf s1 pa) 4 0
        | (none, s1) =>
          let s2 := useHome s1 0 pa
          writeOut (performFor s2 .host pa key (data.take k) (hostPreds s2)) pa k
      hostPerform f key n put (va + k) (pa + k) (data.drop k)

/-- System software writes bytes of a function's memory over the host link, page by page; where nothing is mapped,
nothing is written. -/
def hostPut (f : Nat) : Nat → State → Nat → List Byte → State
  | 0, s, _, _ => s
  | n + 1, s, va, data =>
    if data = [] then s
    else
      let k := min data.length (4096 - va % 4096)
      match translate s [] f va .read with
      | (.ok t, s1) => hostPut f n (hostPerform f t.key (k / 64 + 2) s1 va t.pa (data.take k)) (va + k) (data.drop k)
      | (_, s1) => hostPut f n s1 (va + k) (data.drop k)

/-- Do the sections of words and templates stand at multiples of 8 (R52)? What a loader does with an object where they do not,
the spec does not say. [DESIGN CHOICE, log 73] -/
def sectionsAligned (base : Nat) (o : CodeObject) : Bool :=
  (base + o.textAt) % 8 == 0 && (base + o.quartzAt) % 8 == 0 && (base + o.launchAt) % 8 == 0

/-- CODE_OBJECT_LOAD (R52, R55): the checks in order; the sections of an accepted object are written at their addresses. -/
def execCodeObjectLoad (f base : Nat) (obj : CodeObject) (s : State) : Host.Outcome State Fault Refusal :=
  match loadCheck base obj with
  | .inl st => done { s with loads := s.loads ++ [⟨f, base, st⟩] }
  | .inr o =>
    if !sectionsAligned base o then .refused (.notEnabled "CODE_OBJECT_LOAD")
    else
      let put (st : State) (at_ : Nat) (b : List Byte) : State := hostPut f (b.length / 4096 + 2) st (base + at_) b
      let s1 := put (put (put s o.textAt o.text) o.quartzAt o.quartz) o.launchAt o.launch
      let s2 := o.others.foldl (fun st x => put st x.at_ x.bytes) s1
      done { s2 with loads := s2.loads ++ [⟨f, base, loadOk⟩] }

end Sys2Proof.Machine
end

