-- ==== Sys2Proof/Machine/Sync.lean ====
section
/-! DEFINITION. The unit barrier, byte barriers, queues, timelines and TOPK (R135 to R144). -/

namespace Sys2Proof.Machine

/-- BAR (R135): the present threads arrive and park; an ar fence at unit scope. -/
def bodyBar (_o : AOps) (c : Cap) (s : State) : Res :=
  withUnit c s (fun u =>
    let uid := c.uid s
    let ts := c.present.map (laneThread s c.agent)
    let s1 := releaseAt s uid u.core ts 1
    let s2 := (parkAgent s1 c .bar).modUnit uid (fun v => { v with arrived := mergeAsc v.arrived ts })
    .moved (barCheck s2 uid))

def execBar (o : AOps) (s : State) : Host.Outcome State Fault Refusal := issue (.bar o) (bodyBar o) s

-- Byte barriers (R136, R137).

/-- An X object of the unit at an offset that is a multiple of 16 (R137, R139). -/
def objectOk (u : Unit_) (off len : Nat) : Bool := decide (off % 16 = 0) && decide (off + len ≤ u.xbytes)

/-- The checks on a byte barrier: the X-range trap, and the seal trap where the word writes it (R137, R225).
[DESIGN CHOICE, log 75] -/
def withBarrier (writes : Bool) (c : Cap) (s : State) (k : Unit_ → Nat → Res) : Res :=
  uniformOr c.present c.a1 s (uniformOr c.present c.a2 s (withUnit c s (fun u =>
    let off := uv 32 (c.a1 c.lowP)
    if !objectOk u off 16 then .trap s 0x0D off (laneMask c.present)
    else if writes && sealHit s (.x u.core) (u.xoff + off) 16 anySeal then .trap s 0x0B off (laneMask c.active)
    else k u off)))

/-- Does a set of a unit on the core wait at the barrier at X address `a`? -/
def barrierWaited (s : State) (core a : Nat) : Bool :=
  (unitsOnCore s core).any (fun p => p.2.parked.any (fun q => match q.on with
    | .bwait off _ => decide (p.2.xoff + off = a)
    | _ => false))

/-- BINIT (R137). -/
def bodyBinit (_o : AOps) (c : Cap) (s : State) : Res :=
  withBarrier true c s (fun u off =>
    let a := u.xoff + off
    if barrierWaited s u.core a then .trap s 0x0E off (laneMask c.present)
    else .ok (storeX (nameBarrier s u.core a) u.core a
      (leBytes 4 (uv 32 (c.a2 c.lowP)) ++ leBytes 4 0 ++ leBytes 4 0)))

def execBinit (o : AOps) (s : State) : Host.Outcome State Fault Refusal := issue (.binit o) (bodyBinit o) s

/-- BEXP (R137). -/
def bodyBexp (_o : AOps) (c : Cap) (s : State) : Res :=
  withBarrier true c s (fun u off =>
    let a := u.xoff + off
    let sum := xWord s u.core a + uv 32 (c.a2 c.lowP)
    if 2 ^ 32 ≤ sum then .trap s 0x0E off (laneMask c.present)
    else .ok (storeX (nameBarrier s u.core a) u.core a (leBytes 4 sum)))

def execBexp (o : AOps) (s : State) : Host.Outcome State Fault Refusal := issue (.bexp o) (bodyBexp o) s

/-- BWAIT (R137). -/
def bodyBwait (_o : AOps) (c : Cap) (s : State) : Res :=
  withBarrier false c s (fun u off =>
    let a := u.xoff + off
    let ph := uv 32 (c.a2 c.lowP)
    let s1 := nameBarrier s u.core a
    if xWord s u.core (a + 8) ≠ ph then .ok s1
    else .moved (parkAgent s1 c (.bwait off (BitVec.ofNat 32 ph))))

def execBwait (o : AOps) (s : State) : Host.Outcome State Fault Refusal := issue (.bwait o) (bodyBwait o) s

-- Queues (R138 to R140, R150).

/-- Does anybody wait on the queue? -/
def queueWaited (s : State) (f l cl q : Nat) : Bool :=
  waitersOf s f l cl (isPop q) != [] || waitersOf s f l cl (isPush q) != []

/-- QINIT (R139). [DESIGN CHOICE, log 75] -/
def bodyQinit (o : AOps) (c : Cap) (s : State) : Res :=
  uniformOr c.present c.a1 s (uniformOr c.present c.a2 s (uniformOr c.present c.a3 s (withUnit c s (fun u =>
    let q := uv 32 (c.a1 c.lowP)
    let off := uv 32 (c.a2 c.lowP)
    let allow := uv 32 (c.a3 c.lowP)
    let cap := 2 ^ (o.x.toNat + 1)
    let cl := u.core / 4
    let busy := match queueOf s u.func u.launch cl q with
      | some b => qHead s b != qTail s b || queueWaited s u.func u.launch cl q
      | none => false
    if 16 ≤ q ∨ cap < allow ∨ busy = true then .trap s 0x0F q (laneMask c.present)
    else if !objectOk u off (16 + 8 * cap) then .trap s 0x0D off (laneMask c.present)
    else if sealHit s (.x u.core) (u.xoff + off) (16 + 8 * cap) anySeal then .trap s 0x0B off (laneMask c.active)
    else
      let s1 := s.modCluster cl (fun x => { x with
        queues := x.queues.filter (fun b => !(b.func == u.func && b.launch == u.launch && b.q == q))
          ++ [⟨u.func, u.launch, q, u.core, u.xoff + off, false, none⟩] })
      .ok (storeX s1 u.core (u.xoff + off) (leBytes 4 0 ++ leBytes 4 0 ++ leBytes 4 allow ++ leBytes 4 cap))))))

def execQinit (o : AOps) (s : State) : Host.Outcome State Fault Refusal := issue (.qinit o) (bodyQinit o) s

/-- Does the queue's object lie in an entry of its core's seal table (R225)? -/
def queueSealed (s : State) (b : QBind) : Bool :=
  b.kept.isNone && sealHit s (.x b.core) b.off (16 + 8 * (if queueBad s b then 0 else qCap s b)) anySeal

/-- QPUSH (R140): a release at cluster scope. An entry outside the reservation traps as an object that does not fit (R139, R223).
[DEDUCED, log 29] -/
def bodyQpush (_o : AOps) (c : Cap) (s : State) : Res :=
  uniformOr c.present c.a1 s (uniformOr c.present c.a2 s (withUnit c s (fun u =>
    let q := uv 32 (c.a1 c.lowP)
    let cl := u.core / 4
    match queueOf s u.func u.launch cl q with
    | none => .trap s 0x0F q (laneMask c.present)
    | some b =>
      if b.core ≠ u.core ∨ queueBad s b then .trap s 0x0F q (laneMask c.present)
      else if queueSealed s b then .trap s 0x0B (b.off - u.xoff) (laneMask c.active)
      else
        let s1 := releaseAt s (c.uid s) u.core (c.present.map (laneThread s c.agent)) 2
        if 0 < qAllow s b then
          if pushOut s b then .trap s 0x0D (b.off - u.xoff) (laneMask c.present)
          else .ok (runQueue (pushQ s1 b (c.a2 c.lowP)) u.func u.launch cl q)
        else .moved (parkAgent s1 c (.qpush q (c.a2 c.lowP))))))

def execQpush (o : AOps) (s : State) : Host.Outcome State Fault Refusal := issue (.qpush o) (bodyQpush o) s

/-- The value of a QPOP reaches its destination; a vector core acquires at cluster scope. -/
def popInto (o : AOps) (c : Cap) (v : DWord) (s : State) : State :=
  match c.kind with
  | .quartz => writeQ s c o.d.toNat v
  | .vector =>
    let s1 := dropL1 s (coreOf c.agent)
    if o.x = 1 then writePair s1 c o.d.toNat (fun _ => v) else writeT s1 c o.d.toNat .top (fun _ => v.setWidth 32)

/-- Offset of a queue in its core's X allocation of the launch (R319). -/
def queueOffset (s : State) (b : QBind) : Nat :=
  match (s.core b.core).xres.find? (fun r => r.func == b.func && r.launch == b.launch && decide (r.off ≤ b.off)
    && decide (b.off < r.off + r.len)) with
  | some r => b.off - r.off
  | none => b.off

/-- QPOP (R140, R150). An entry outside the reservation traps as an object that does not fit (R139, R223).
[DEDUCED, log 29] -/
def bodyQpop (o : AOps) (c : Cap) (s : State) : Res :=
  match agentLaunch s c.agent with
  | none => .ok s
  | some (f, l) =>
    uniformOr c.present c.a1 s
      (let q := if c.kind = .quartz then (c.a1 0).toNat else uv 32 (c.a1 c.lowP)
       let cl := clusterOf c.agent
       match queueOf s f l cl q with
       | none => .trap s 0x0F q (laneMask c.present)
       | some b =>
         if queueBad s b then .trap s 0x0F q (laneMask c.present)
         else if queueSealed s b then .trap s 0x0B (queueOffset s b) (laneMask c.active)
         else if qHead s b ≠ qTail s b then
           if popOut s b then .trap s 0x0D (queueOffset s b) (laneMask c.present)
           else
             let r := popQ s b
             .ok (runQueue (popInto o c r.1 r.2) f l cl q)
         else if b.closed then .ok (popInto o c allOnes64 s)
         else .moved (parkAgent s c (.qpop q o.d (o.x == 1))))

def execQpop (o : AOps) (s : State) : Host.Outcome State Fault Refusal := issue (.qpop o) (bodyQpop o) s

-- Timelines (R141).

/-- The timeline that an id names for a unit (R125). [DESIGN CHOICE, log 75] -/
def timelineOf (s : State) (u : Unit_) (id : Nat) : Timeline :=
  if id < 3 then u.timeline id
  else match s.ctx? (u.core / 4) (id - 8) with
    | some x => if x.func = u.func ∧ x.launch = u.launch then x.tl else .start
    | none => .start

/-- TWAIT (R141): every scope of R125 drops the L1. -/
def bodyTwait (o : AOps) (c : Cap) (s : State) : Res :=
  uniformOr c.present c.a2 s (withUnit c s (fun u =>
    let id := litField o.s1
    let n := (c.a2 c.lowP).toNat
    let t := timelineOf s u id
    if id < 3 ∧ t.i < n then .trap s 0x10 id (laneMask c.present)
    else if n ≤ t.c then .ok (dropL1 s u.core)
    else .moved (parkAgent s c (.twait id n))))

def execTwait (o : AOps) (s : State) : Host.Outcome State Fault Refusal := issue (.twait o) (bodyTwait o) s

/-- TREAD (R141). -/
def bodyTread (o : AOps) (c : Cap) (s : State) : Res :=
  withUnit c s (fun u =>
    let t := timelineOf s u (litField o.s1)
    let v := BitVec.ofNat 64 (if o.x.getLsbD 0 then t.i else t.c)
    .ok (if o.x.getLsbD 1 then writePair s c o.d.toNat (fun _ => v)
      else writeT s c o.d.toNat .top (fun _ => v.setWidth 32)))

def execTread (o : AOps) (s : State) : Host.Outcome State Fault Refusal := issue (.tread o) (bodyTread o) s

-- TOPK (R142, R143).

/-- TOPK: the descriptor and the scores are read at issue. [DEDUCED, log 32; DEDUCED, log 40; DESIGN CHOICE, log 76] -/
def bodyTopk (o : AOps) (c : Cap) (s : State) : Res :=
  uniformOr c.present c.a1 s (withUnit c s (fun u =>
    let off := uv 32 (c.a1 c.lowP)
    let rd (i : Nat) : Nat := leNat (readX s u 4 (off + 4 * i))
    let src := rd 0
    let dst := rd 1
    let n := rd 2
    let k := rd 3
    if c.active = [] then .ok (writeIv s c o.d.toNat .top)
    else if off % 32 ≠ 0 ∨ u.xbytes < off + 32 ∨ src % 4 ≠ 0 ∨ dst % 4 ≠ 0 ∨ n = 0 ∨ 65536 < n ∨ k = 0 ∨ n < k ∨ 4096 < k
        ∨ rd 5 ≠ 0 ∨ rd 6 ≠ 0 ∨ rd 7 ≠ 0 ∨ u.xbytes < src + 4 * n ∨ u.xbytes < dst + 4 * k then
      .trap s 0x0D off (laneMask c.present)
    else
      let op : TopkOp :=
        { core := u.core, uid := c.uid s, threads := c.active.map (laneThread s c.agent), d := o.d, ty := o.x.toNat % 4,
          minDir := o.x.getLsbD 2, scores := (List.range n).map (fun i => BitVec.ofNat 32 (leNat (readX s u 4 (src + 4 * i)))),
          dst := u.xoff + dst, k := k, ibase := BitVec.ofNat 32 (rd 4) }
      .ok { writeIv s c o.d.toNat .top with topks := s.topks ++ [op] }))

def execTopk (o : AOps) (s : State) : Host.Outcome State Fault Refusal := issue (.topk o) (bodyTopk o) s

/-- A score's place in the total order of R143, larger first in rank: the direction chosen, a NaN last. -/
def scoreKey (ty : Nat) (minDir : Bool) (v : Word) : Int :=
  let dir (x : Int) : Int := if minDir then -x else x
  match ty with
  | 0 =>
    let mag : Int := (bits v 0 31).toNat
    if 0x7F800000 < (bits v 0 31).toNat then -0x100000000
    else dir (if v.getLsbD 31 then -mag - 1 else mag)
  | 1 => dir v.toInt
  | _ => dir v.toNat

/-- How many positions rank before position `i`. -/
def rankOf (keys : List Int) (i : Nat) : Nat :=
  let x := keys.getD i 0
  ((keys.zipIdx).filter (fun p => decide (x < p.1) || (p.1 == x && decide (p.2 < i)))).length

/-- The selected positions, ascending. -/
def topPositions (op : TopkOp) : List Nat :=
  let keys := op.scores.map (scoreKey op.ty op.minDir)
  (List.range op.scores.length).filter (fun i => decide (rankOf keys i < op.k))

/-- The bit pattern of the K-th best score. -/
def kthScore (op : TopkOp) : Word :=
  let keys := op.scores.map (scoreKey op.ty op.minDir)
  match (List.range op.scores.length).find? (fun i => rankOf keys i == op.k - 1) with
  | some i => op.scores.getD i 0
  | none => 0

/-- TOPK_COMPLETE (R143): the core's oldest TOPK writes its indices and its threshold. [DESIGN CHOICE, log 76] -/
def execTopkComplete (core : Nat) (s : State) : Host.Outcome State Fault Refusal :=
  match s.topks.find? (fun t => t.core == core) with
  | none => notNow "TOPK_COMPLETE"
  | some op =>
    match s.unit? op.uid with
    | none => notNow "TOPK_COMPLETE"
    | some u =>
      if u.relaunchDue then notNow "TOPK_COMPLETE"
      else
        let s1 := { s with topks := s.topks.erase op }
        let s2 := ((topPositions op).zipIdx).foldl (fun st p =>
          storeX st core (op.dst + 4 * p.2) (leBytes 4 (BitVec.ofNat 32 p.1 + op.ibase).toNat)) s1
        done (s2.modUnit op.uid (fun v => op.threads.foldl (fun v t =>
          v.modThread t (fun x => x.setReg op.d.toNat (kthScore op))) v))

end Sys2Proof.Machine
end

