-- ==== Sys2Proof/Machine/Quartz.lean ====
section
/-! DEFINITION. The Quartz core and its matrix instructions (R146 to R170, R267 to R276). -/

namespace Sys2Proof.Machine

-- Operand words (R151 to R153).

/-- X handle (R151). -/
structure XHandle where
  mbz : Nat
  pitch : Nat
  rows : Nat
  core : Nat
  xoff : Nat
deriving DecidableEq, Repr

def xHandle (v : DWord) : XHandle :=
  ⟨(bits v 48 16).toNat, (bits v 34 14).toNat, (bits v 22 12).toNat, (bits v 20 2).toNat, (bits v 0 20).toNat⟩

/-- B control word (R152). -/
structure BWord where
  mbz : Nat
  spm : Nat
  spn : Nat
  slot : Nat
  n : Nat
  k : Nat
  woff : Nat
deriving DecidableEq, Repr

def bWord (v : DWord) : BWord :=
  ⟨(bits v 47 17).toNat, 4 * 2 ^ (bits v 45 2).toNat, (bits v 40 5).toNat + 1, (bits v 37 3).toNat,
   (bits v 30 7).toNat + 1, (bits v 22 8).toNat + 1, (bits v 0 22).toNat⟩

/-- Y handle (R153). -/
structure YHandle where
  mbz : Nat
  int : Bool
  ncol : Nat
  rows : Nat
  acc : Bool
  yoff : Nat
deriving DecidableEq, Repr

def yHandle (v : DWord) : YHandle :=
  ⟨(bits v 42 22).toNat, v.getLsbD 41, (bits v 34 7).toNat, (bits v 22 12).toNat, v.getLsbD 21, (bits v 0 21).toNat⟩

/-- Does the Y handle name rows inside Y? -/
def yFits (y : YHandle) (rows : Nat) : Bool := y.mbz == 0 && y.yoff % 512 == 0 && decide (y.yoff + 512 * rows ≤ 2097152)

/-- Bytes of `n` packed elements. -/
def packedBytes (w n : Nat) : Nat := (n * w + 7) / 8

/-- The context of an agent. -/
def ctxOf (s : State) : Agent → Option (Nat × Nat × Ctx)
  | .quartz cl c => (s.ctx? cl c).map (fun x => (cl, c, x))
  | _ => none

/-- Start in the core's X of the cohort's reservation, when the core holds a unit of the cohort and the range lies in it
(R151). -/
def xPlace (s : State) (cl : Nat) (x : Ctx) (core off len : Nat) : Option Nat :=
  let k := 4 * cl + core
  if (unitsOnCore s k).any (fun p => p.2.func == x.func && p.2.launch == x.launch && p.2.cohort == x.cohort) then
    (match (s.core k).xres.find? (fun r => r.func == x.func && r.launch == x.launch && r.cohort == x.cohort) with
     | some r => if off + len ≤ r.len then some (r.off + off) else none
     | none => none)
  else none

/-- Is every byte of the range in entries that are sealed or being filled (R168)? -/
def coveredFill (l : List SealEntry) : Nat → Nat → Nat → Bool
  | _, _, 0 => true
  | 0, _, _ => false
  | n + 1, a, len =>
    match l.find? (fun e => !isReclaiming e.state && decide (e.start ≤ a) && decide (a < e.start + e.len)) with
    | none => false
    | some e => coveredFill l n (e.start + e.len) (len - (e.start + e.len - a))

/-- The entry of a table that holds a byte and is sealed, or being filled where `fill` allows. -/
def entryAt (s : State) (t : SealTab) (a : Nat) (fill : Bool) : Option SealEntry :=
  (sealsOf s t).find? (fun e => (isSealed e.state || (fill && isFilling e.state)) && decide (e.start ≤ a)
    && decide (a < e.start + e.len))

/-- Column stride of a B tile: dense (R267), or the sparse stream of N:M (R268). -/
def colStride (w k : Nat) (sp : Option (Nat × Nat)) : Nat :=
  let n := match sp with
    | some (gn, gm) => k / gm * gn
    | none => k
  (packedBytes w n + 15) / 16 * 16

/-- Integer-family formats (R159). -/
def isIntFmt (f : Nat) : Bool := f == 8 || f == 9

/-- g of a format (R274). -/
def groupOfFmt (f : Nat) : Nat := if f = 0 then 4 else if f ≤ 3 then 16 else if f ≤ 6 then 32 else 64

-- Posting (R155, R157).

/-- Seal ranges that a posted operation reads, for its references. -/
abbrev ReadRange := SealTab × Nat × Nat

/-- A range cut to the entry that holds its first byte. -/
def clipRange (s : State) (r : ReadRange) : ReadRange :=
  match (sealsOf s r.1).find? (fun e => decide (e.start ≤ r.2.1) && decide (r.2.1 < e.start + e.len)) with
  | some e => (match r.1 with
    | .w _ => (r.1, r.2.1, min r.2.2 (e.start + e.len - r.2.1))
    | _ => r)
  | none => r

/-- Take or drop the references of the ranges that a posted operation reads (R155). -/
def takeRefs (s : State) (l : List ReadRange) (f : Nat → Nat) : State :=
  l.foldl (fun st r => let q := clipRange st r; modRefs st q.1 q.2.1 q.2.2 f) s

/-- Post an operation (R155), or stall. -/
def post (c : Cap) (cost : Nat) (o1 o2 o3 : DWord) (refs : List ReadRange) (k : State → State) (s : State) : Res :=
  match ctxOf s c.agent with
  | none => .ok s
  | some (cl, n, x) =>
    let t := (s.cluster cl).table
    if 32 ≤ t.length ∨ 16 ≤ (t.filter (fun m => m.ctx == n)).length ∨ x.ebud.toNat < cost then .wait
    else
      let m : MatOp :=
        { ctx := n, func := x.func, launch := x.launch, word := c.word, o1 := o1, o2 := o2, o3 := o3, sca := x.sca,
          scb := x.scb, posted := s.clock, num := x.tl.i + 1, prio := x.prio.toNat, granted := false, failed := false }
      let s1 := s.modCluster cl (fun y => { y with table := y.table ++ [m] })
      let s2 := s1.modCtx cl n (fun y => { y with ebud := y.ebud - BitVec.ofNat 32 cost, tl := y.tl.issue })
      .ok (k (takeRefs s2 refs (· + 1)))

/-- The matrix-operand trap (R170, R319). -/
def matTrap (s : State) (n : Nat) : Res := .trap s 0x13 n 1
/-- The seal trap of the Quartz core. -/
def matSeal (s : State) (off : Nat) : Res := .trap s 0x0B off 1

/-- Does the context's failed Y range overlap the rows (R167)? -/
def failedHit (x : Ctx) (a len : Nat) : Option Nat :=
  match x.failed with
  | some (lo, hi) => if overlaps lo (hi - lo) a len then some lo else none
  | none => none

/-- Scale range of one operand (R165, R272): base and bytes. -/
def scaleLen (mode n : Nat) : Nat := if mode = 2 then (n + 127) / 128 * 256 else 4 * n

/-- The checks of R273 on one scale range. -/
def scaleCheck (s : State) (tab : SealTab) (mode base off len : Nat) : Option Res :=
  match entryAt s tab off false with
  | none => some (.trap s 0x0B base 1)
  | some e =>
    if e.start + e.len < off + len then
      some (if mode = 2 then .trap s 0x14 base 1 else .trap s 0x0B base 1)
    else none

/-- A pass (R158, R159, R165, R170): its operand checks in the order of R170, then it is posted.
[DESIGN CHOICE, log 77] -/
def pass (sparse : Bool) (o : AOps) (c : Cap) (s : State) : Res :=
  match ctxOf s c.agent with
  | none => .ok s
  | some (cl, _, x) =>
    let rc := recOf s x.func x.launch
    let a := xHandle (c.a1 0)
    let b := bWord (c.a2 0)
    let y := yHandle (c.a3 0)
    let sa := slotOf rc o.x.toNat
    let sb := slotOf rc b.slot
    let m := a.rows + 1
    let rowB := packedBytes (slotWidth (slotFormat sa)) b.k
    let span := 16 * a.pitch * (m - 1) + rowB
    let xTab : SealTab := .x (4 * cl + a.core)
    match (if a.mbz = 0 ∧ a.pitch ≠ 0 ∧ a.xoff % 16 = 0 ∧ rowB ≤ 16 * a.pitch then xPlace s cl x a.core a.xoff span else none) with
    | none => matTrap s 1
    | some xa =>
      let spOk := if sparse then decide (b.spn ≤ b.spm) && decide (b.k % b.spm = 0)
        else (bits (c.a2 0) 40 7 == 0)
      if b.mbz ≠ 0 ∨ b.woff % 256 ≠ 0 ∨ spOk = false then matTrap s 2
      else if !yFits y m || y.int || y.ncol != 0 || y.rows != 0 then matTrap s 3
      else if isIntFmt (slotFormat sa) != isIntFmt (slotFormat sb) then matTrap s 0
      else if !coveredFill (sealsOf s xTab) 33 xa span then matSeal s a.xoff
      else match entryAt s (.w cl) b.woff true with
        | none => matSeal s b.woff
        | some _ =>
          if sealHit s (.y cl) y.yoff (512 * m) anySeal then matSeal s y.yoff
          else
            let ha := xHandle x.sca
            let hb := (bits x.scb 0 22).toNat
            let ma := slotScale sa
            let mb := slotScale sb
            let xsTab : SealTab := .x (4 * cl + ha.core)
            let la := scaleLen ma m
            let lb := scaleLen mb b.n
            let sBase := match xPlace s cl x ha.core ha.xoff 0 with
              | some p => p
              | none => 1048576
            let checkA := if ma = 0 then none else scaleCheck s xsTab ma ha.xoff sBase la
            let checkB := if mb = 0 then none else scaleCheck s (.w cl) mb hb hb lb
            if (ma = 2 ∨ mb = 2) ∧ b.k % 128 ≠ 0 then .trap s 0x14 (if ma = 2 then ha.xoff else hb) 1
            else match checkA, checkB with
              | some r, _ => r
              | none, some r => r
              | none, none =>
                let sp := if sparse then some (b.spn, b.spm) else none
                let bl := b.n * colStride (slotWidth (slotFormat sb)) b.k sp
                let refs : List ReadRange := [(xTab, xa, span), (.w cl, b.woff, bl)]
                  ++ (if ma = 0 then [] else [(xsTab, sBase, la)]) ++ (if mb = 0 then [] else [(.w cl, hb, lb)])
                post c (2 ^ (bits o.d 7 2).toNat * ((m + 255) / 256)) (c.a1 0) (c.a2 0) (c.a3 0) refs id s

/-- MMA (R158). [DEDUCED, log 41] -/
def bodyMma (o : AOps) (c : Cap) (s : State) : Res := pass false o c s

def execMma (o : AOps) (s : State) : Host.Outcome State Fault Refusal := issue (.mma o) (bodyMma o) s

/-- MMAS (R158, R162). -/
def bodyMmas (o : AOps) (c : Cap) (s : State) : Res := pass true o c s

def execMmas (o : AOps) (s : State) : Host.Outcome State Fault Refusal := issue (.mmas o) (bodyMmas o) s

/-- MZERO (R163). -/
def bodyMzero (_o : AOps) (c : Cap) (s : State) : Res :=
  let y := yHandle (c.a1 0)
  if !yFits y (y.rows + 1) || y.int || y.ncol != 0 || y.acc then matTrap s 1
  else if sealHit s (.y (clusterOf c.agent)) y.yoff (512 * (y.rows + 1)) anySeal then matSeal s y.yoff
  else post c 0 (c.a1 0) 0 0 [] id s

def execMzero (o : AOps) (s : State) : Host.Outcome State Fault Refusal := issue (.mzero o) (bodyMzero o) s

/-- MLDM (R163). -/
def bodyMldm (_o : AOps) (c : Cap) (s : State) : Res :=
  match ctxOf s c.agent with
  | none => .ok s
  | some (cl, _, x) =>
    let a := xHandle (c.a1 0)
    match (if a.mbz = 0 ∧ a.pitch = 0 ∧ a.rows = 0 ∧ a.xoff % 256 = 0 then xPlace s cl x a.core a.xoff 4096 else none) with
    | none => matTrap s 1
    | some p =>
      match entryAt s (.x (4 * cl + a.core)) p true with
      | some e => if p + 4096 ≤ e.start + e.len then post c 0 (c.a1 0) 0 0 [(.x (4 * cl + a.core), p, 4096)] id s
          else matSeal s a.xoff
      | none => matSeal s a.xoff

def execMldm (o : AOps) (s : State) : Host.Outcome State Fault Refusal := issue (.mldm o) (bodyMldm o) s

/-- Is the operation an MDRAIN? -/
def isDrain (m : MatOp) : Bool :=
  match decode m.word with
  | .word (.mdrain _) => true
  | _ => false

/-- Entries of the Y seal table that are taken: those present, and the reservations of MDRAINs not yet granted (R163). -/
def yTaken (s : State) (cl : Nat) : Nat :=
  (sealsOf s (.y cl)).length + ((s.cluster cl).table.filter (fun m => isDrain m && !m.granted)).length

/-- MDRAIN (R163). [DEDUCED, log 41] -/
def bodyMdrain (_o : AOps) (c : Cap) (s : State) : Res :=
  match ctxOf s c.agent with
  | none => .ok s
  | some (cl, _, x) =>
    let y := yHandle (c.a1 0)
    if !yFits y (y.rows + 1) || y.int || y.ncol != 0 || y.acc then matTrap s 1
    else if sealHit s (.y cl) y.yoff (512 * (y.rows + 1)) anySeal || decide (32 ≤ yTaken s cl) then matSeal s y.yoff
    else match failedHit x y.yoff (512 * (y.rows + 1)) with
      | some a => .trap s 0x15 a 1
      | none => post c 0 (c.a1 0) 0 0 [] id s

def execMdrain (o : AOps) (s : State) : Host.Outcome State Fault Refusal := issue (.mdrain o) (bodyMdrain o) s

/-- The multiplier of MQNT: FP32 bits (R31, R164). -/
def qntFactor (c : Cap) : DWord := ((c.a3 0).setWidth 32).setWidth 64

/-- Length of MQNT's filling range (R164). -/
def qntLen (a : XHandle) (rows : Nat) : Nat := (16 * a.pitch * rows + 255) / 256 * 256

/-- MQNT (R164). -/
def bodyMqnt (o : AOps) (c : Cap) (s : State) : Res :=
  match ctxOf s c.agent with
  | none => .ok s
  | some (cl, _, x) =>
    let sl := slotOf (recOf s x.func x.launch) o.x.toNat
    let a := xHandle (c.a1 0)
    let y := yHandle (c.a2 0)
    let rowB := packedBytes (slotWidth (slotFormat sl)) (y.ncol + 1)
    let len := qntLen a (y.rows + 1)
    let xTab : SealTab := .x (4 * cl + a.core)
    match (if a.mbz = 0 ∧ a.pitch ≠ 0 ∧ a.rows = 0 ∧ a.xoff % 256 = 0 ∧ rowB ≤ 16 * a.pitch then xPlace s cl x a.core a.xoff len
      else none) with
    | none => matTrap s 1
    | some p =>
      if !yFits y (y.rows + 1) || y.acc then matTrap s 2
      else if slotScale sl ≠ 0 then matTrap s 0
      else if sealHit s xTab p len anySeal then matSeal s a.xoff
      else if sealHit s (.y cl) y.yoff (512 * (y.rows + 1)) anySeal then matSeal s y.yoff
      else if sealFull s xTab then matSeal s a.xoff
      else match failedHit x y.yoff (512 * (y.rows + 1)) with
        | some f => .trap s 0x15 f 1
        | none => post c 0 (c.a1 0) (c.a2 0) (qntFactor c) []
            (fun st => addSeal st xTab ⟨p, len, .filling, 0, none, false⟩) s

def execMqnt (o : AOps) (s : State) : Host.Outcome State Fault Refusal := issue (.mqnt o) (bodyMqnt o) s

/-- MSCL (R165). [DEDUCED, log 41] -/
def bodyMscl (_o : AOps) (c : Cap) (s : State) : Res :=
  match ctxOf s c.agent with
  | none => .ok s
  | some (cl, n, x) =>
    let a := xHandle (c.a1 0)
    match (if a.mbz = 0 ∧ a.pitch = 0 ∧ a.rows = 0 ∧ a.xoff % 256 = 0 then xPlace s cl x a.core a.xoff 1 else none) with
    | none => matTrap s 1
    | some _ =>
      if bits (c.a2 0) 22 42 ≠ 0 ∨ (c.a2 0).toNat % 256 ≠ 0 then matTrap s 2
      else .ok (s.modCtx cl n (fun y => { y with sca := c.a1 0, scb := c.a2 0 }))

def execMscl (o : AOps) (s : State) : Host.Outcome State Fault Refusal := issue (.mscl o) (bodyMscl o) s

/-- MCHK (R166). -/
def bodyMchk (o : AOps) (c : Cap) (s : State) : Res :=
  match ctxOf s c.agent with
  | none => .ok s
  | some (cl, n, x) =>
    let put (v : Nat) (st : State) : Res := .ok (writeQ st c o.d.toNat (BitVec.ofNat 64 v))
    match o.x.toNat with
    | 0 => put x.chkst.toNat s
    | 1 => put x.chkst.toNat (s.modCtx cl n (fun y => { y with chkst := 0, failed := none }))
    | 2 => put x.ebud.toNat s
    | 3 => put x.tl.c s
    | 4 => put x.tl.i s
    | 5 => if x.tl.c = x.tl.i then put x.tl.c s else .wait
    | _ => put (n + cl * 2 ^ 8 + dieOfCluster cl * 2 ^ 16) s

def execMchk (o : AOps) (s : State) : Host.Outcome State Fault Refusal := issue (.mchk o) (bodyMchk o) s

-- The engine (R156, R160 to R164, R167).

/-- The operation of a table entry. -/
def MatOp.instr (m : MatOp) : Option Instr :=
  match decode m.word with
  | .word i => some i
  | .unassigned _ => none

/-- Sparsity of a pass. -/
def MatOp.sparsity (m : MatOp) : Option (Nat × Nat) :=
  match m.instr with
  | some (.mmas _) => some ((bWord m.o2).spn, (bWord m.o2).spm)
  | _ => none

def MatOp.isPass (m : MatOp) : Bool :=
  match m.instr with
  | some (.mma _) | some (.mmas _) => true
  | _ => false

/-- Where the cohort's reservation of the operation's context begins on a core. -/
def opBase (s : State) (cl : Nat) (m : MatOp) (core : Nat) : Nat :=
  let cohort := match s.ctx? cl m.ctx with
    | some x => x.cohort
    | none => 0
  match (s.core (4 * cl + core)).xres.find? (fun r => r.func == m.func && r.launch == m.launch && r.cohort == cohort) with
  | some r => r.off
  | none => 0

/-- Slots of a pass. -/
def MatOp.slots (s : State) (m : MatOp) : DWord × DWord :=
  let rc := recOf s m.func m.launch
  let x := match m.instr with
    | some (.mma o) | some (.mmas o) | some (.mqnt o) => o.x.toNat
    | _ => 0
  (slotOf rc x, slotOf rc (bWord m.o2).slot)

/-- Ranges that an operation reads (R155, R168). -/
def MatOp.reads (s : State) (cl : Nat) (m : MatOp) : List ReadRange :=
  let a := xHandle m.o1
  let at_ (core off : Nat) : Nat := opBase s cl m core + off
  match m.instr with
  | some (.mldm _) => [(.x (4 * cl + a.core), at_ a.core a.xoff, 4096)]
  | some (.mma _) | some (.mmas _) =>
    let b := bWord m.o2
    let sl := m.slots s
    let span := 16 * a.pitch * a.rows + packedBytes (slotWidth (slotFormat sl.1)) b.k
    let ha := xHandle m.sca
    [(.x (4 * cl + a.core), at_ a.core a.xoff, span),
     (.w cl, b.woff, b.n * colStride (slotWidth (slotFormat sl.2)) b.k m.sparsity)]
      ++ (if slotScale sl.1 = 0 then [] else
        [(.x (4 * cl + ha.core), at_ ha.core ha.xoff, scaleLen (slotScale sl.1) (a.rows + 1))])
      ++ (if slotScale sl.2 = 0 then [] else [(.w cl, (bits m.scb 0 22).toNat, scaleLen (slotScale sl.2) b.n)])
  | _ => []

/-- Y rows that an operation names: start and length; none for MLDM. -/
def MatOp.yRange (m : MatOp) : Option (Nat × Nat) :=
  match m.instr with
  | some (.mma _) | some (.mmas _) => some ((yHandle m.o3).yoff, 512 * ((xHandle m.o1).rows + 1))
  | some (.mzero _) | some (.mdrain _) => some ((yHandle m.o1).yoff, 512 * ((yHandle m.o1).rows + 1))
  | some (.mqnt _) => some ((yHandle m.o2).yoff, 512 * ((yHandle m.o2).rows + 1))
  | _ => none

/-- Effective priority (R156). -/
def effPrio (s : State) (m : MatOp) : Nat := min 3 (m.prio + (s.clock - m.posted) / 4096)

/-- Is every byte of the range in entries that have been sealed, and stand while a reference holds them (R132, R168)? -/
def coveredSealed (l : List SealEntry) : Nat → Nat → Nat → Bool
  | _, _, 0 => true
  | 0, _, _ => false
  | n + 1, a, len =>
    match l.find? (fun e => !isFilling e.state && decide (e.start ≤ a) && decide (a < e.start + e.len)) with
    | none => false
    | some e => coveredSealed l n (e.start + e.len) (len - (e.start + e.len - a))

/-- Are the ranges that an operation reads sealed: a pass runs once none of them is filling, and none has gone unsealed
(R156, R168)? -/
def MatOp.ready (s : State) (cl : Nat) (m : MatOp) : Bool :=
  (m.reads s cl).all (fun r =>
    let q := clipRange s r
    coveredSealed (sealsOf s q.1) 33 q.2.1 q.2.2)

/-- The oldest ungranted entry of each context, less those that a range holds back (R156). -/
def eligible (s : State) (cl : Nat) : List MatOp :=
  let t := ((s.cluster cl).table).filter (fun m => !m.granted)
  let heads := (List.range 8).filterMap (fun c => t.find? (fun m => m.ctx == c))
  heads.filter (fun m => m.ready s cl)

/-- The arbiter's choice (R156). -/
def choose (s : State) (cl : Nat) : Option MatOp :=
  (eligible s cl).foldl (fun best m => match best with
    | none => some m
    | some b => if effPrio s b < effPrio s m ∨ (effPrio s b = effPrio s m ∧ m.posted < b.posted) then some m else some b) none

def modMat (s : State) (cl : Nat) (m : MatOp) (f : MatOp → MatOp) : State :=
  s.modCluster cl (fun x => { x with table := x.table.map (fun y => if y.ctx = m.ctx ∧ y.num = m.num then f y else y) })

/-- Record a failure (R166, R167). [DEDUCED, log 41] -/
def failOp (s : State) (cl : Nat) (m : MatOp) (cause : Nat) (range : Option (Nat × Nat)) : State :=
  let s1 := s.modCtx cl m.ctx (fun x =>
    let fails := (bits x.chkst 32 16).toNat
    let v := x.chkst.toNat / 2 ^ 48 * 2 ^ 48 + (if fails = 0xFFFF then fails else fails + 1) * 2 ^ 32 + cause * 16
      + (if x.chkst.getLsbD 1 then 2 else 0) + 1
    { x with
      chkst := BitVec.ofNat 64 v
      failed := match range, x.failed with
        | some (a, n), some (lo, hi) => some (min a lo, max (a + n) hi)
        | some (a, n), none => some (a, a + n)
        | none, f => f })
  s1.report ⟨3, 7, 0x05, none, range.map Prod.fst, (range.map Prod.snd).getD 0, m.func, siteOf cl 0 0, m.ctx, m.num⟩

/-- A block is rerun after a first mismatch: RETRY (R166, R167). -/
def countRetry (s : State) (cl c : Nat) : State :=
  s.modCtx cl c (fun x =>
    let n := x.chkst.toNat / 2 ^ 48
    { x with chkst := BitVec.ofNat 64 ((if n = 0xFFFF then n else n + 1) * 2 ^ 48 + x.chkst.toNat % 2 ^ 48) })

/-- Packed element `k` of width `w` of bytes read by `get` (R101). -/
def packedElem (get : Nat → Byte) (base w k : Nat) : Nat :=
  if w = 4 then (get (base + k / 2)).toNat / 16 ^ (k % 2) % 16
  else (List.range (w / 8)).foldl (fun n i => n + (get (base + k * (w / 8) + i)).toNat * 256 ^ i) 0

/-- Bit 256 * j + k of an m-register (R162). -/
def maskBit (x : Ctx) (mreg j k : Nat) : Bool :=
  (NatMap.get 0 x.m (4096 * mreg + (256 * j + k) / 8)).getLsbD (k % 8)

/-- Set bits of the mask in a group of a column. -/
def groupBits (x : Ctx) (mreg j g gm : Nat) : List Nat := (List.range gm).filter (fun i => maskBit x mreg j (g * gm + i))

/-- An MMAS with a group of more than N set bits (R162). -/
def tooManyBits (x : Ctx) (mreg n k gn gm : Nat) : Bool :=
  (List.range n).any (fun j => (List.range (k / gm)).any (fun g => decide (gn < (groupBits x mreg j g gm).length)))

/-- m-register of an MMAS. -/
def MatOp.mreg (m : MatOp) : Nat :=
  match m.instr with
  | some (.mmas o) => o.d.toNat % 16
  | some (.mldm o) => o.d.toNat % 16
  | _ => 0

/-- Pattern of b(k, j), or none where the mask leaves a zero (R162, R267, R268). -/
def bElem (s : State) (cl : Nat) (m : MatOp) (k j : Nat) : Option Nat :=
  let b := bWord m.o2
  let w := slotWidth (slotFormat (m.slots s).2)
  let get (i : Nat) : Byte := NatMap.get 0 (s.cluster cl).w i
  let col := b.woff + j * colStride w b.k m.sparsity
  match m.sparsity, s.ctx? cl m.ctx with
  | some (gn, gm), some x =>
    let g := k / gm
    if maskBit x m.mreg j k then
      some (packedElem get col w (g * gn + ((groupBits x m.mreg j g gm).filter (fun i => decide (i < k % gm))).length))
    else none
  | _, _ => some (packedElem get col w k)

def aElem (s : State) (cl : Nat) (m : MatOp) (i k : Nat) : Nat :=
  let a := xHandle m.o1
  packedElem (fun p => NatMap.get 0 (s.core (4 * cl + a.core)).x p) (opBase s cl m a.core + a.xoff + 16 * a.pitch * i)
    (slotWidth (slotFormat (m.slots s).1)) k

/-- The value of an unsigned E4M4 byte (R271). -/
def e4m4 (b : Nat) : FVal := if b < 16 then .fin false b (-10) else .fin false (16 + b % 16) ((b / 16 : Nat) - 11)

/-- A scale: 1, a per-row FP32 value, or an E4M4 byte of a tile (R165, R272). -/
def scaleVal (mode : Nat) (get : Nat → Byte) (base i k : Nat) : FVal :=
  if mode = 0 then .fin false 1 0
  else if mode = 1 then decodeF fp32 (packedElem get base 32 i)
  else e4m4 (get (base + 256 * (i / 128) + 2 * Nat.xor (i % 128) (16 * (k / 128)) + k / 128)).toNat

/-- s × sa × sb, rounded once when all are finite (R275). -/
def scaled3 (s a b : FVal) : Nat := roundTo fp32 .rne (FVal.mul (FVal.mul s a) b)

/-- The exact sum of a group's products (R275). -/
def groupSum (l : List FVal) : FVal :=
  match l with
  | [] => .fin false 0 0
  | x :: r => r.foldl (FVal.add .rne) x

/-- Split [0, k) into runs of g. -/
def runsOf (g k : Nat) : List (List Nat) :=
  (List.range ((k + g - 1) / g)).map (fun q => (List.range (min g (k - q * g))).map (fun i => q * g + i))

/-- A signed element of an integer format. -/
def intElem (fmt p : Nat) : Int := if fmt = 8 then (BitVec.ofNat 8 p).toInt else (BitVec.ofNat 4 p).toInt

/-- The products of an accumulator in the elements of a group (R160, R274). -/
def products (s : State) (cl : Nat) (m : MatOp) (i j : Nat) (ks : List Nat) : List FVal :=
  ks.map (fun k => FVal.mul (elemVal (slotFormat (m.slots s).1) (aElem s cl m i k))
    (match bElem s cl m k j with
     | some p => elemVal (slotFormat (m.slots s).2) p
     | none => .fin false 0 0))

/-- What is wrong in the array's sum of a group, if anything (R277). -/
def faultOf (fs : List ArrayFault) (i j g : Nat) : Option FVal :=
  (fs.find? (fun x => x.row == i && x.col == j && x.group == g)).map (fun x => .fin (decide (x.value < 0)) x.value.natAbs x.exp)

/-- A sum as the array gives it. -/
def withFault (x : FVal) : Option FVal → FVal
  | none => x
  | some e => FVal.add .rne x e

/-- The accumulator with what was wrong in the sums of its groups, in the integer family: wrapped (R160, R277). -/
def intFaults (fs : List ArrayFault) (i j old : Nat) : Nat :=
  (BitVec.ofInt 32 ((fs.filter (fun x => x.row == i && x.col == j)).foldl (fun n x => n + x.value) (BitVec.ofNat 32 old).toInt)).toNat

/-- One accumulator of a pass over an array with some wrong sums (R160): its new pattern, and whether an exact integer sum left the
range. -/
def passElem (s : State) (cl : Nat) (m : MatOp) (fs : List ArrayFault) (i j old : Nat) : Nat × Bool :=
  let b := bWord m.o2
  let fa := slotFormat (m.slots s).1
  let fb := slotFormat (m.slots s).2
  let start := if (yHandle m.o3).acc then old else 0
  if isIntFmt fa then
    let r := (List.range b.k).foldl (fun (r : Nat × Bool) k =>
      let sum := (BitVec.ofNat 32 r.1).toInt + intElem fa (aElem s cl m i k)
        * (match bElem s cl m k j with
           | some p => intElem fb p
           | none => 0)
      ((BitVec.ofInt 32 sum).toNat, r.2 || decide (sum < -2147483648) || decide (2147483647 < sum))) (start, false)
    if fs = [] then r else (intFaults fs i j r.1, r.2)
  else
    let ha := xHandle m.sca
    let getX (p : Nat) : Byte := NatMap.get 0 (s.core (4 * cl + ha.core)).x p
    let getW (p : Nat) : Byte := NatMap.get 0 (s.cluster cl).w p
    let g := min (groupOfFmt fa) (groupOfFmt fb)
    ((runsOf g b.k).foldl (fun acc ks =>
      let k0 := ks.headD 0
      let sum := withFault (groupSum (products s cl m i j ks)) (faultOf fs i j (k0 / g))
      let t := scaled3 sum (scaleVal (slotScale (m.slots s).1) getX (opBase s cl m ha.core + ha.xoff) i k0)
        (scaleVal (slotScale (m.slots s).2) getW (bits m.scb 0 22).toNat j k0)
      faddP fp32 .rne acc t) start, false)

/-- The element of a Y row. -/
def yElem (s : State) (cl yoff i j : Nat) : Nat := leNat (NatMap.getRange 0 (s.cluster cl).y (yoff + 512 * i + 4 * j) 4)

/-- Set OVF (R166). -/
def setOvf (s : State) (cl c : Nat) : State := s.modCtx cl c (fun x => { x with chkst := x.chkst ||| 2 })

/-- Write bytes of a cluster's Y; whole words lose their error (R355). -/
def storeY (s : State) (cl a : Nat) (data : List Byte) : State :=
  s.modCluster cl (fun x => { x with y := NatMap.setRange 0 x.y a data, badY := keepBad x.badY a data.length })

/-- One row of a pass. -/
def passRow (cl : Nat) (m : MatOp) (fs : List ArrayFault) (s : State) (i : Nat) : State :=
  let yoff := (yHandle m.o3).yoff
  let vals := (List.range (bWord m.o2).n).map (fun j => passElem s cl m fs i j (yElem s cl yoff i j))
  let s1 := storeY s cl (yoff + 512 * i) (vals.foldl (fun l v => l ++ leBytes 4 v.1) [])
  if vals.any Prod.snd then setOvf s1 cl m.ctx else s1

/-- The exact value of an element, of A and of B, in either family (R277). -/
def checkVal (fmt p : Nat) : FVal := if isIntFmt fmt then FVal.ofInt (intElem fmt p) else elemVal fmt p
def checkA (s : State) (cl : Nat) (m : MatOp) (i k : Nat) : FVal := checkVal (slotFormat (m.slots s).1) (aElem s cl m i k)
def checkB (s : State) (cl : Nat) (m : MatOp) (k j : Nat) : FVal :=
  match bElem s cl m k j with
  | some p => checkVal (slotFormat (m.slots s).2) p
  | none => .fin false 0 0

/-- Is no product of a group NaN or infinite (R277)? -/
def tameGroup (s : State) (cl : Nat) (m : MatOp) (i j : Nat) (ks : List Nat) : Bool :=
  ks.all (fun k => match FVal.mul (checkA s cl m i k) (checkB s cl m k j) with
    | .fin _ _ _ => true
    | _ => false)

/-- The sum of a group as the array gives it, before scaling and rounding (R277). -/
def arraySum (s : State) (cl : Nat) (m : MatOp) (fs : List ArrayFault) (i j g : Nat) (ks : List Nat) : FVal :=
  withFault (groupSum (ks.map (fun k => FVal.mul (checkA s cl m i k) (checkB s cl m k j)))) (faultOf fs i j g)

/-- Does the check column mismatch in a group of row `i`: the row's products with the column sums of B against the sum of the row's
group sums (R277)? -/
def columnDiffers (s : State) (cl : Nat) (m : MatOp) (fs : List ArrayFault) (i g : Nat) (ks : List Nat) : Bool :=
  let js := (List.range (bWord m.o2).n).filter (fun j => tameGroup s cl m i j ks)
  js != [] && !FVal.eq (groupSum (ks.map (fun k => FVal.mul (checkA s cl m i k) (groupSum (js.map (checkB s cl m k))))))
    (groupSum (js.map (fun j => arraySum s cl m fs i j g ks)))

/-- Does the check row mismatch in a group of column `j`, over the rows `is` of a block (R277)? -/
def rowDiffers (s : State) (cl : Nat) (m : MatOp) (fs : List ArrayFault) (rows : List Nat) (j g : Nat) (ks : List Nat) : Bool :=
  let is := rows.filter (fun i => tameGroup s cl m i j ks)
  is != [] && !FVal.eq (groupSum (ks.map (fun k => FVal.mul (groupSum (is.map (fun i => checkA s cl m i k))) (checkB s cl m k j))))
    (groupSum (is.map (fun i => arraySum s cl m fs i j g ks)))

/-- Do the checks of a block show a mismatch (R277)? A block without a wrong sum shows none, since the sums are exact.
[DEDUCED, log 41] -/
def blockDiffers (s : State) (cl : Nat) (m : MatOp) (fs : List ArrayFault) (rows : List Nat) : Bool :=
  let b := bWord m.o2
  let gs := (runsOf (min (groupOfFmt (slotFormat (m.slots s).1)) (groupOfFmt (slotFormat (m.slots s).2))) b.k).zipIdx
  fs.any (fun x => rows.contains x.row) &&
    (rows.any (fun i => gs.any (fun p => columnDiffers s cl m fs i p.2 p.1))
      || (List.range b.n).any (fun j => gs.any (fun p => rowDiffers s cl m fs rows j p.2 p.1)))

/-- The blocks of a granted pass (R160, R167, R277): a block that mismatches is computed again, and fails when it mismatches then. -/
def passBlocks (cl : Nat) (m : MatOp) (fs : List ArrayFault) (s : State) : State :=
  let rows := (xHandle m.o1).rows + 1
  let again := fs.filter (fun x => x.again)
  (List.range ((rows + 255) / 256)).foldl (fun st b =>
    let l := (List.range (min 256 (rows - 256 * b))).map (fun i => 256 * b + i)
    if !blockDiffers st cl m fs l then l.foldl (passRow cl m fs) st
    else
      let st1 := countRetry st cl m.ctx
      if !blockDiffers st cl m again l then l.foldl (passRow cl m again) st1
      else failOp st1 cl m 1 (some ((yHandle m.o3).yoff + 512 * 256 * b, 512 * l.length))) s

/-- Write packed element `k` of width `w` into a row's bytes. -/
def packInto (row : List Byte) (w k v : Nat) : List Byte :=
  if w = 4 then
    let old := (row.getD (k / 2) 0).toNat
    row.set (k / 2) (BitVec.ofNat 8 (if k % 2 = 0 then old / 16 * 16 + v else v * 16 + old % 16))
  else (List.range (w / 8)).foldl (fun r i => r.set (k * (w / 8) + i) (BitVec.ofNat 8 (v / 256 ^ i))) row

/-- One row of MQNT (R164). -/
def qntRow (cl : Nat) (m : MatOp) (s : State) (i : Nat) : State :=
  let a := xHandle m.o1
  let y := yHandle m.o2
  let sl := (m.slots s).1
  let w := slotWidth (slotFormat sl)
  let core := 4 * cl + a.core
  let at_ := opBase s cl m a.core + a.xoff + 16 * a.pitch * i
  let row := NatMap.getRange 0 (s.core core).x at_ (packedBytes w (y.ncol + 1))
  let out := (List.range (y.ncol + 1)).foldl (fun r j =>
    let e := yElem s cl y.yoff i j
    let v := if y.int then roundTo fp32 .rne (FVal.ofInt (BitVec.ofNat 32 e).toInt) else e
    packInto r w j (cvtsVal sl (fmulP fp32 .rne v m.o3.toNat))) row
  storeX s core at_ out

/-- Does the B data run past its W entry, which the pass's reference keeps (R132, R167, R269)? -/
def bPast (s : State) (cl : Nat) (m : MatOp) : Bool :=
  match (sealsOf s (.w cl)).find? (fun e => decide (e.start ≤ (bWord m.o2).woff) && decide ((bWord m.o2).woff < e.start + e.len)) with
  | some e => (m.reads s cl).any (fun r => r.1 == .w cl && r.2.1 == (bWord m.o2).woff && decide (e.start + e.len < r.2.1 + r.2.2))
  | none => true

/-- The first cause that fails an operation at grant: 4, 7, 6, 3, 2 in that order (R167). [DEDUCED, log 41] -/
def grantCause (s : State) (cl : Nat) (m : MatOp) : Option Nat :=
  let x := s.ctx? cl m.ctx
  let ySealed := match m.yRange with
    | some (a, n) => sealHit s (.y cl) a n anySeal
    | none => false
  let failedY := match m.instr, m.yRange, x with
    | some (.mdrain _), some (a, n), some c => (failedHit c a n).isSome
    | some (.mqnt _), some (a, n), some c => (failedHit c a n).isSome
    | _, _, _ => false
  if ySealed then some 4
  else if failedY then some 7
  else if !m.isPass then none
  else if (m.reads s cl).any (fun r => r.1 == .w cl && (sealsIn s (.w cl) r.2.1 r.2.2).any (·.failed)) then some 6
  else if bPast s cl m then some 3
  else match m.sparsity, x with
    | some (gn, gm), some c => if tooManyBits c m.mreg (bWord m.o2).n (bWord m.o2).k gn gm then some 2 else none
    | _, _ => none

/-- Effects of a granted operation that no cause of R167 fails. [DEDUCED, log 41] -/
def grantEffect (s : State) (cl : Nat) (m : MatOp) (fs : List ArrayFault) : State :=
  match m.instr with
  | some (.mzero _) =>
    let y := yHandle m.o1
    s.modCluster cl (fun x => { x with
      y := NatMap.clearRange x.y y.yoff (y.yoff + 512 * (y.rows + 1)), badY := keepBad x.badY y.yoff (512 * (y.rows + 1)) })
  | some (.mldm _) =>
    let a := xHandle m.o1
    let data := NatMap.getRange 0 (s.core (4 * cl + a.core)).x (opBase s cl m a.core + a.xoff) 4096
    s.modCtx cl m.ctx (fun x => { x with m := NatMap.setRange 0 x.m (4096 * m.mreg) data })
  | some (.mdrain _) =>
    let y := yHandle m.o1
    addSeal s (.y cl) ⟨y.yoff, 512 * (y.rows + 1), .filling, 0, none, false⟩
  | some (.mqnt _) => (List.range ((yHandle m.o2).rows + 1)).foldl (qntRow cl m) s
  | _ => passBlocks cl m fs s

/-- Does the operation read a word of X, W or Y with an uncorrectable error in it (R167, R356)? A pass that accumulates and MQNT
read Y. [DESIGN CHOICE, log 58] -/
def readsBad (s : State) (cl : Nat) (m : MatOp) : Bool :=
  let y : Nat × Nat × Nat := match m.instr with
    | some (.mqnt _) => ((yHandle m.o2).yoff, (yHandle m.o2).rows + 1, (yHandle m.o2).ncol + 1)
    | _ => if m.isPass ∧ (yHandle m.o3).acc = true then ((yHandle m.o3).yoff, (xHandle m.o1).rows + 1, (bWord m.o2).n) else (0, 0, 0)
  (m.reads s cl).any (fun r => match r.1 with
    | .x k => badIn (s.core k).badX r.2.1 r.2.2
    | .w k => badIn (s.cluster k).badW r.2.1 r.2.2
    | .y k => badIn (s.cluster k).badY r.2.1 r.2.2)
  || (List.range y.2.1).any (fun i => badIn (s.cluster cl).badY (y.1 + 512 * i) (4 * y.2.2))

/-- MATRIX_GRANT (R156, R160, R167, R277): the arbiter's choice performs. `fs` gives the sums that the array gets wrong. -/
def execMatrixGrant (cluster : Nat) (fs : List ArrayFault) (s : State) : Host.Outcome State Fault Refusal :=
  match choose s cluster with
  | none => notNow "MATRIX_GRANT"
  | some m =>
    let s1 := modMat s cluster m (fun x => { x with granted := true })
    match grantCause s1 cluster m with
    | some n => done (failOp (modMat s1 cluster m (fun x => { x with failed := true })) cluster m n m.yRange)
    | none =>
      if readsBad s1 cluster m then
        let s2 := failOp (modMat s1 cluster m (fun x => { x with failed := true })) cluster m 5 m.yRange
        done (s2.report (localReport m.func (siteOf cluster 0 0) 3 0))
      else done (grantEffect s1 cluster m fs)

/-- Release the sets that wait on a matrix timeline (R141, R168). -/
def serveMatrix (s : State) (cl c f l : Nat) : State :=
  s.units.foldl (fun st p => match p.2 with
    | some u =>
      if u.func = f ∧ u.launch = l ∧ u.core / 4 = cl then
        (u.parked.filter (fun q => match q.on with
          | .twait t n => decide (t = 8 + c) && decide (n ≤ (timelineOf st u t).c)
          | _ => false)).foldl (fun st2 q => releaseSet (dropL1 st2 u.core) p.1 q) st
      else st
    | none => st) s

/-- The entry that MQNT fills, or that MDRAIN has entered: it is sealed, or goes with a failed operation. An X entry whose unit has
exited by then is reclaimed (R164, R193, R206). -/
def settleEntry (s : State) (cl : Nat) (m : MatOp) : State :=
  let drop (t : SealTab) (start : Nat) : State :=
    setSeals s t ((sealsOf s t).filter (fun e => !(e.start == start && isFilling e.state)))
  let settle (t : SealTab) (start : Nat) (st : SealState) : State :=
    setSeals s t ((sealsOf s t).map (fun e => if e.start = start ∧ isFilling e.state then { e with state := st } else e))
  match m.instr with
  | some (.mqnt _) =>
    let core := 4 * cl + (xHandle m.o1).core
    let start := opBase s cl m (xHandle m.o1).core + (xHandle m.o1).xoff
    let home := (unitsOnCore s core).any (fun p => decide (p.2.xoff ≤ start) && decide (start < p.2.xoff + p.2.xbytes))
    if m.failed then sweepX (drop (.x core) start) core
    else sweepSeals (settle (.x core) start (if home then .sealed else .reclaiming)) (.x core)
  | some (.mdrain _) => if m.failed then s else settle (.y cl) (yHandle m.o1).yoff .sealed
  | _ => s

/-- MATRIX_OPERATION_COMPLETE (R155, R168): the granted operation `seq` = 8 * number + context completes.
[DEDUCED, log 41] -/
def execMatrixOperationComplete (cluster seq : Nat) (s : State) : Host.Outcome State Fault Refusal :=
  match (s.cluster cluster).table.find? (fun m => decide (8 * m.num + m.ctx = seq) && m.granted) with
  | none => notNow "MATRIX_OPERATION_COMPLETE"
  | some m =>
    let s1 := takeRefs (settleEntry s cluster m) (m.reads s cluster) (fun n => n - 1)
    let s2 := s1.modCluster cluster (fun x => { x with table := x.table.erase m })
    let s3 := s2.modCtx cluster m.ctx (fun x => { x with tl := x.tl.complete m.num })
    done (serveMatrix s3 cluster m.ctx m.func m.launch)

/-- The energy budget of a function's contexts (R157, R342): EBREF and EBCAP of its partition, or PFEB for the physical function's,
which run to their end on a cluster that a partition has claimed. -/
def budgetOf (s : State) (f : Nat) : Word × Word :=
  if f = 0 then (s.pfebRef, s.pfebCap) else ((s.part (s.fcfgOf f).part).ebref, (s.part (s.fcfgOf f).part).ebcap)

/-- EBUD_REFILL (R157): at a microsecond boundary every context receives EBREF, up to EBCAP. -/
def execEbudRefill (s : State) : Host.Outcome State Fault Refusal :=
  if s.clock % 1400 ≠ 0 ∨ s.refilled = micros s + 1 then notNow "EBUD_REFILL"
  else done { s with
    refilled := micros s + 1
    ctxs := s.ctxs.map (fun p => (p.1, p.2.map (fun x =>
    let b := budgetOf s x.func
    { x with ebud := BitVec.ofNat 32 (min (x.ebud.toNat + b.1.toNat) b.2.toNat) }))) }

end Sys2Proof.Machine
end

