-- ==== Sys2Proof/Machine/System.lean ====
section
/-! DEFINITION. System and work instructions (R171 to R188), and the range engine (R178 to R180). -/

namespace Sys2Proof.Machine

/-- TRAP (R173). -/
def bodyTrap (o : IOps) (c : Cap) (s : State) : Res := .trap s 0x16 o.imm.toNat (laneMask c.present)

def execTrap (o : IOps) (s : State) : Host.Outcome State Fault Refusal := issue (.trap o) (bodyTrap o) s

/-- SYSC (R173). -/
def bodySysc (o : IOps) (c : Cap) (s : State) : Res := .trap s 0x17 o.imm.toNat (laneMask c.present)

def execSysc (o : IOps) (s : State) : Host.Outcome State Fault Refusal := issue (.sysc o) (bodySysc o) s

/-- Write a value to D: an s-register of the context, or 32 bits into each active lane. -/
def putD (s : State) (c : Cap) (d : BitVec 9) (f : Nat → DWord) : State :=
  match c.kind with
  | .quartz => writeQ s c d.toNat (f 0)
  | .vector => writeT s c d.toNat .top (fun l => (f l).setWidth 32)

-- Banked registers (R175).

/-- The banked register of an index. -/
def bankedReg (fr : Front) (i : Nat) : DWord :=
  match i with
  | 0 => fr.xpc
  | 1 => fr.xcause.setWidth 64
  | 2 => fr.xstat
  | 3 => fr.xaddr
  | 4 => fr.xmask.setWidth 64
  | _ => BitVec.ofNat 64 fr.replay.length

/-- The part of a banked register that X selects. -/
def halfOf (k : CoreKind) (x : BitVec 3) (v : DWord) : DWord :=
  match k with
  | .quartz => v
  | .vector => if x = 1 then v >>> 32 else (v.setWidth 32).setWidth 64

/-- XRD (R175). [DEDUCED, log 33] -/
def bodyXrd (o : AOps) (c : Cap) (s : State) : Res :=
  match frontOf s c.agent with
  | none => .ok s
  | some fr => .ok (putD s c o.d (fun _ => halfOf c.kind o.x (bankedReg fr (litField o.s1))))

def execXrd (o : AOps) (s : State) : Host.Outcome State Fault Refusal := issue (.xrd o) (bodyXrd o) s

/-- XPC after a write (R175): bits [2:0] and [63:57] are written as 0. -/
def newXpc (k : CoreKind) (x : BitVec 3) (old v : DWord) : DWord :=
  let raw : DWord := match k with
    | .quartz => v
    | .vector => if x = 1 then ((v.setWidth 32).setWidth 64 <<< 32) ||| (old.setWidth 32).setWidth 64
        else (old >>> 32 <<< 32) ||| (v.setWidth 32).setWidth 64
  raw &&& 0x01FFFFFFFFFFFFF8

/-- XWR (R175, R188). [DEDUCED, log 32] -/
def bodyXwr (o : AOps) (c : Cap) (s : State) : Res :=
  match frontOf s c.agent with
  | none => .ok s
  | some fr =>
    if differing c.active c.a2 ≠ [] then .dead s 1
    else if c.active = [] then .ok (putD s c o.d (fun _ => 0))
    else
      let s1 := modFront s c.agent (fun f => { f with xpc := newXpc c.kind o.x f.xpc (c.a2 c.low) })
      .ok (putD s1 c o.d (fun _ => halfOf c.kind o.x fr.xpc))

def execXwr (o : AOps) (s : State) : Host.Outcome State Fault Refusal := issue (.xwr o) (bodyXwr o) s

-- Replay entries (R176, R177).

/-- The instruction of an entry. -/
def ReplayEntry.instr (e : ReplayEntry) : Option Instr :=
  match decode e.word with
  | .word i => some i
  | .unassigned _ => none

/-- Does the entry's instruction use source `n`, and read it as 64 bits (R176)? -/
def srcUsed (i : Instr) (n : Nat) : Bool :=
  match ((sources i).getD n (.none, .reg 0)).1 with
  | .none => false
  | _ => true
def srcWide (i : Instr) (n : Nat) : Bool :=
  let p := (sources i).getD n (.none, .reg 0)
  isPairSrc p.1 || (SKind.is64 (sDestOf .vector i) p.1 p.2 && (match p.2 with
    | .sreg _ => true
    | _ => false))

/-- Data registers that the entry's instruction reads. -/
def datUsed (i : Instr) : Nat :=
  match i.desc with
  | .m d o => dataRegs d o.sz
  | _ => 0

def opField (e : ReplayEntry) (n : Nat) : NatMap DWord := if n = 0 then e.op1 else if n = 1 then e.op2 else e.op3

/-- Is a field used by the entry's instruction, on the kind of core? -/
def fieldUsed (k : CoreKind) (i : Instr) (f : Nat) : Bool :=
  if f ≤ 5 then true
  else if f ≤ 8 then srcUsed i (f - 6)
  else if f ≤ 12 then decide (f - 9 < datUsed i)
  else k == .vector && srcUsed i (f - 13) && srcWide i (f - 13)

/-- Field `f` of an entry for a lane (R176). -/
def readField (k : CoreKind) (e : ReplayEntry) (f lane : Nat) : DWord :=
  let lo (v : DWord) : DWord := match k with
    | .quartz => v
    | .vector => (v.setWidth 32).setWidth 64
  match f with
  | 0 => (e.word.setWidth 32).setWidth 64
  | 1 => e.word >>> 32
  | 2 => (e.pc.setWidth 32).setWidth 64
  | 3 => (e.pc.setWidth 64) >>> 32
  | 4 => e.mask.setWidth 64
  | 5 => e.stat.setWidth 64
  | _ =>
    match e.instr with
    | none => 0
    | some i =>
      if !fieldUsed k i f then 0
      else if f ≤ 8 then lo (NatMap.get 0 (opField e (f - 6)) lane)
      else if f ≤ 12 then lo (NatMap.get 0 e.dat (4 * lane + (f - 9)))
      else NatMap.get 0 (opField e (f - 13)) lane >>> 32

/-- Write field `f` of an entry in a lane (R176). -/
def writeField (k : CoreKind) (e : ReplayEntry) (f lane : Nat) (v : DWord) : ReplayEntry :=
  let cut : DWord := match k with
    | .quartz => v
    | .vector => (v.setWidth 32).setWidth 64
  if f = 4 then { e with mask := e.mask &&& v.setWidth 32 }
  else
    match e.instr with
    | none => e
    | some i =>
      if !fieldUsed k i f then e
      else if f ≤ 8 then
        let n := f - 6
        let old := NatMap.get 0 (opField e n) lane
        let new : DWord := match k with
          | .quartz => v
          | .vector => (old >>> 32 <<< 32) ||| cut
        let m := NatMap.set 0 (opField e n) lane new
        if n = 0 then { e with op1 := m } else if n = 1 then { e with op2 := m } else { e with op3 := m }
      else if f ≤ 12 then { e with dat := NatMap.set 0 e.dat (4 * lane + (f - 9)) cut }
      else
        let n := f - 13
        let old := NatMap.get 0 (opField e n) lane
        let m := NatMap.set 0 (opField e n) lane ((cut <<< 32) ||| (old.setWidth 32).setWidth 64)
        if n = 0 then { e with op1 := m } else if n = 1 then { e with op2 := m } else { e with op3 := m }

/-- The entry that the first operand names; none is fatal (R188). -/
def entryNum (c : Cap) : Nat := if c.kind = .quartz then (c.a1 0).toNat else uv 32 (c.a1 c.lowP)

def withEntry (c : Cap) (s : State) (k : Front → Nat → ReplayEntry → Res) : Res :=
  uniformOr c.present c.a1 s (match frontOf s c.agent with
    | none => .ok s
    | some fr =>
      match fr.replay[entryNum c]? with
      | some e => k fr (entryNum c) e
      | none => .dead s 1)

/-- RPLX (R177). -/
def bodyRplx (o : AOps) (c : Cap) (s : State) : Res :=
  withEntry c s (fun _ _ e => .ok (putD s c o.d (fun l => readField c.kind e (litField o.s2) l)))

def execRplx (o : AOps) (s : State) : Host.Outcome State Fault Refusal := issue (.rplx o) (bodyRplx o) s

/-- RPLW (R177). -/
def bodyRplw (o : AOps) (c : Cap) (s : State) : Res :=
  withEntry c s (fun _ n e =>
    let f := litField o.s2
    if f = 4 ∧ differing c.active c.a3 ≠ [] then .dead s 1
    else
      let e1 := c.active.foldl (fun x l => writeField c.kind x f l (c.a3 l)) e
      let s1 := modFront s c.agent (fun fr => { fr with replay := fr.replay.set n e1 })
      .ok (putD s1 c o.d (fun l => readField c.kind e f l)))

def execRplw (o : AOps) (s : State) : Host.Outcome State Fault Refusal := issue (.rplw o) (bodyRplw o) s

/-- RPLD (R177). -/
def bodyRpld (_o : AOps) (c : Cap) (s : State) : Res :=
  withEntry c s (fun _ n _ => .ok (modFront s c.agent (fun fr => { fr with replay := fr.replay.eraseIdx n })))

def execRpld (o : AOps) (s : State) : Host.Outcome State Fault Refusal := issue (.rpld o) (bodyRpld o) s

-- The range engine (R178 to R180).

/-- The die whose range engine serves a launch. -/
def rangeDie (s : State) (f l : Nat) : Nat :=
  match launchOf s f l with
  | some x => x.home.getD 0
  | none => 0

/-- Perform an RINIT (R179). -/
def rangeInit (s : State) (f l q : Nat) (total pm : Word) (once : Bool) : State :=
  modLaunch s f l (fun x =>
    if once && (NatMap.get none x.ranges q).isSome then x
    else
      let e : RangeEnt := ⟨total.toNat, (bits pm 0 16).toNat, (bits pm 16 16).toNat, 0⟩
      { x with ranges := NatMap.set none x.ranges q (some e) })

/-- P and MIN must not be 0 (R179). -/
def pmBad (pm : Word) : Bool := bits pm 0 16 == 0 || bits pm 16 16 == 0

/-- RINIT (R179): the request is sent to the range engine. -/
def bodyRinit (o : AOps) (c : Cap) (s : State) : Res :=
  uniformOr c.present c.a2 s (uniformOr c.present c.a3 s (withUnit c s (fun u =>
    let pm := (c.a3 c.lowP).setWidth 32
    let q := litField o.s1
    if pmBad pm then .trap s 0x11 q (laneMask c.present)
    else .ok (s.modDie (rangeDie s u.func u.launch) (fun d => { d with
      rangeReqs := d.rangeReqs ++ [.init u.func u.launch q ((c.a2 c.lowP).setWidth 32) pm (o.x == 1)] })))))

def execRinit (o : AOps) (s : State) : Host.Outcome State Fault Refusal := issue (.rinit o) (bodyRinit o) s

/-- RINIT_PERFORM (R179): the engine's oldest request is an RINIT. -/
def execRinitPerform (die : Nat) (s : State) : Host.Outcome State Fault Refusal :=
  match (s.die die).rangeReqs with
  | .init f l q total pm once :: r => done (rangeInit (s.modDie die (fun d => { d with rangeReqs := r })) f l q total pm once)
  | _ => notNow "RINIT_PERFORM"

/-- RGRAB (R180): the group stands until the reply. -/
def bodyRgrab (o : AOps) (c : Cap) (s : State) : Res :=
  match c.agent with
  | .quartz _ _ => .ok s
  | .group k sl => withUnit c s (fun u =>
    let d := rangeDie s u.func u.launch
    .placed (modFront (s.modDie d (fun x => { x with
      rangeReqs := x.rangeReqs ++ [.grab k sl (c.uid s) (litField o.s1) o.d c.word] })) c.agent
      (fun f => { f with hold := some (.range d) })))

def execRgrab (o : AOps) (s : State) : Host.Outcome State Fault Refusal := issue (.rgrab o) (bodyRgrab o) s

/-- One grab (R180): start, length and the entry after it. -/
def grab (e : RangeEnt) : Nat × Nat × RangeEnt :=
  let rem := e.total - e.next
  let len := if rem = 0 then 0 else min rem (max e.min (ceilDiv rem (2 * e.p)))
  (e.next, len, { e with next := e.next + len })

/-- The grab of a group is performed: its lanes receive start and length and its marks are cleared (R186), or the word traps. -/
def grabFor (c : Cap) (u : Unit_) (q : Nat) (d : BitVec 9) (s : State) : Res :=
  match (launchOf s u.func u.launch).bind (fun l => NatMap.get none l.ranges q) with
  | none => .trap s 0x11 q (laneMask c.present)
  | some e =>
    let g := grab e
    let s1 := modLaunch s u.func u.launch (fun l => { l with ranges := NatMap.set none l.ranges q (some g.2.2) })
    let s2 := writeT s1 c d.toNat .top (fun _ => BitVec.ofNat 32 g.1)
    .ok (clearMarks (writeT s2 c (d.toNat + 1) .top (fun _ => BitVec.ofNat 32 g.2.1)) c)

/-- RGRAB_REPLY (R180): the engine's oldest request is a grab; its group goes on behind the word. A request whose group has gone is
dropped. [DEDUCED, log 38] -/
def execRgrabReply (die : Nat) (s : State) : Host.Outcome State Fault Refusal :=
  match (s.die die).rangeReqs with
  | .grab k sl uid q d w :: r =>
    let a : Agent := .group k sl
    let s0 := s.modDie die (fun x => { x with rangeReqs := r })
    let waits : Bool := (s.group? k sl).any (fun g => g.uid == uid && (match g.front.hold with
      | some (.range _) => true
      | _ => false))
    if !waits then done s0
    else
    let s1 := modFront s0 a (fun f => { f with hold := none })
    (match decode w, frontOf s1 a, unitOf s1 a, groupOf s1 a with
     | .word i, some fr, some u, some g =>
       (match capture s1 a i w fr with
        | some c => finish s1 a c g.uid u.func (grabFor c u q d s1)
        | none => done s1)
     | _, _, _, _ => done s1)
  | _ => notNow "RGRAB_REPLY"

-- Work handles (R181 to R185).

/-- Look a handle up, or raise the work-handle trap (R181, R188). -/
def withHandle (c : Cap) (s : State) (k : Nat → Nat → Found → Res) : Res :=
  uniformOr c.present c.a1 s (match agentLaunch s c.agent with
    | none => .ok s
    | some (f, l) =>
      match lookupHandle s f (c.a1 c.lowP) with
      | .invalid => .trap s 0x12 (c.a1 c.lowP).toNat (laneMask c.present)
      | r => k f l r)

/-- LNCH (R182). [DEDUCED, log 33] -/
def bodyLnch (_o : AOps) (c : Cap) (s : State) : Res :=
  uniformOr c.present c.a1 s (uniformOr c.present c.a2 s (withHandle c s (fun f _ r =>
    let bad : Res := .trap s 0x12 (c.a1 c.lowP).toNat (laneMask c.present)
    match r, unitOf s c.agent with
    | .retired _, _ => .ok s
    | .live .launch i _, some u =>
      (match launchOf s f i with
       | none => bad
       | some l =>
         let s1 := releaseAt s (c.uid s) u.core (c.present.map (laneThread s c.agent)) 4
         if (objOf s f .graph l.obj.parent).any (fun g => g.gen == l.obj.parentGen && g.cancelAt.isSome) then .ok s1
         else if !l.devlnch || l.arg.isSome then bad
         else .ok (modLaunch s1 f i (fun x => { x with arg := some (c.a2 c.lowP) })))
    | _, _ => bad)))

def execLnch (o : AOps) (s : State) : Host.Outcome State Fault Refusal := issue (.lnch o) (bodyLnch o) s

/-- Is the object the issuing launch, or one that contains it (R183)? -/
def containsLaunch (s : State) (f l : Nat) (lv : Level) (i : Nat) : Bool := (subtree s f 3 lv i).contains (.launch, l)

/-- CNTW's count (R183): a literal is 32 bits, zero-extended. -/
def cntwCount (o : AOps) (c : Cap) : Nat :=
  match o.s2 with
  | .lit f => (f.signExtend 32).toNat
  | _ => (c.a2 c.lowP).toNat

/-- A continuing CNTW acquires at package scope. -/
def acquireAgent (s : State) (a : Agent) : State :=
  match a with
  | .group k _ => acquirePackage s k
  | .quartz _ _ => s

/-- CNTW (R183). -/
def bodyCntw (o : AOps) (c : Cap) (s : State) : Res :=
  let body : Res := withHandle c s (fun f l r =>
    let isDone := o.x == 1
    let n := cntwCount o c
    let own : Bool := match r with
      | .live lv i _ => isDone && containsLaunch s f l lv i
      | _ => false
    if own then .trap s 0x12 (c.a1 c.lowP).toNat (laneMask c.present)
    else if cntwHolds s f (c.a1 c.lowP) n isDone then .ok (acquireAgent s c.agent)
    else .moved (parkAgent s c (.cntw (c.a1 c.lowP) n isDone)))
  if o.x = 1 then body else uniformOr c.present c.a2 s body

def execCntw (o : AOps) (s : State) : Host.Outcome State Fault Refusal := issue (.cntw o) (bodyCntw o) s

/-- CNCL (R184). -/
def bodyCncl (_o : AOps) (c : Cap) (s : State) : Res :=
  withHandle c s (fun f _ r =>
    match r with
    | .live lv i _ => .ok (requestCancel s f lv i)
    | _ => .ok s)

def execCncl (o : AOps) (s : State) : Host.Outcome State Fault Refusal := issue (.cncl o) (bodyCncl o) s

/-- The value that DLREAD selects (R185). -/
def dlVal (clock : Nat) (x : BitVec 3) (o : Obj) : Nat :=
  match x.toNat with
  | 0 => dlRem clock o
  | 1 => o.events % 2 ^ 32
  | 2 => stCode o.st + (if o.expired then 16 else 0)
  | _ => o.count % 2 ^ 32

/-- DLREAD (R185); of a retired object only .st is not 0 (R181). -/
def bodyDlread (o : AOps) (c : Cap) (s : State) : Res :=
  withHandle c s (fun _ _ r =>
    let v : Nat := match r with
      | .live _ _ x => dlVal s.clock o.x x
      | .retired cancelled => if o.x = 2 then (if cancelled then 3 else 2) else 0
      | .invalid => 0
    .ok (writeT s c o.d.toNat .top (fun _ => BitVec.ofNat 32 v)))

def execDlread (o : AOps) (s : State) : Host.Outcome State Fault Refusal := issue (.dlread o) (bodyDlread o) s

/-- IDEM (R186): .begin sets the mark of each present thread, .end clears it. -/
def bodyIdem (o : AOps) (c : Cap) (s : State) : Res :=
  .ok (s.modUnit (c.uid s) (fun u => c.present.foldl (fun u l =>
    u.modThread (laneThread s c.agent l) (fun t => { t with mark := if o.x = 0 then some c.pc else none })) u))

def execIdem (o : AOps) (s : State) : Host.Outcome State Fault Refusal := issue (.idem o) (bodyIdem o) s

end Sys2Proof.Machine
end

