-- ==== Sys2Proof/Machine/Area.lean ====
section
/-! DEFINITION. The context save area (R197, R330, R339): where images lie, their header and CRC, the records of bins and of
clusters, and bins that are spilled (R197, R214). -/

namespace Sys2Proof.Machine

def lexLess : List Nat → List Nat → Bool
  | a :: r, b :: q => decide (a < b) || (a == b && lexLess r q)
  | _, _ => false

/-- The element of a list with the least key. -/
def leastBy {α : Type} (key : α → List Nat) (l : List α) : Option α :=
  l.foldl (fun best x => match best with
    | none => some x
    | some b => if lexLess (key x) (key b) then some x else some b) none

/-- One bit of CRC-32 (IEEE 802.3, least significant bit first). -/
def crcBit (c : BitVec 32) : BitVec 32 := if c.getLsbD 0 then (c >>> 1) ^^^ 0xEDB88320#32 else c >>> 1

def crcByte (c : BitVec 32) (b : Byte) : BitVec 32 :=
  (List.range 8).foldl (fun x _ => crcBit x) (c ^^^ b.setWidth 32)

/-- The register after bytes, as a number. -/
def crcFrom : List Byte → Nat → Nat
  | [], c => c
  | b :: r, c =>
    match (crcByte (BitVec.ofNat 32 c) b).toNat with
    | 0 => crcFrom r 0
    | n + 1 => crcFrom r (n + 1)

/-- CRC-32 of bytes. -/
def crc32 (l : List Byte) : BitVec 32 := ~~~ (BitVec.ofNat 32 (crcFrom l 0xFFFFFFFF))

def zeroBytes (n : Nat) : List Byte := List.replicate n 0

/-- The two's complement bytes of an interval's bound. -/
def boundBytes (x : Int) : List Byte := leBytes 4 (BitVec.ofInt 32 x).toNat

def ivBytes (iv : NatMap Iv) : List Byte :=
  (List.range 32).flatMap (fun n => boundBytes (ivGet iv n).lo ++ boundBytes (ivGet iv n).hi)

/-- A bitmap by thread index. -/
def bitmapBytes (ts : List Nat) : List Byte :=
  (List.range 128).map (fun i => (List.range 8).foldl (fun b k =>
    if ts.contains (8 * i + k) then b ||| (1#8 <<< k) else b) 0#8)

/-- A bin record (R330), stored or spilled. [DESIGN CHOICE, log 51] -/
def binRecord (b : Bin) : List Byte :=
  leBytes 8 b.key.pc.toNat ++ leBytes 4 (b.key.warp.getD 0xFFFFFFFF) ++ leBytes 4 0 ++ bitmapBytes b.threads ++ ivBytes b.iv

def readBound (b : List Byte) (at_ : Nat) : Int := (BitVec.ofNat 32 (fld b at_ 4)).toInt

def readIv (b : List Byte) (at_ : Nat) : NatMap Iv :=
  (List.range 32).foldl (fun m n => ivSet m n ⟨readBound b (at_ + 8 * n), readBound b (at_ + 8 * n + 4)⟩) []

def readBitmap (b : List Byte) (at_ : Nat) : List Nat :=
  (List.range 1024).filter (fun t => (b.getD (at_ + t / 8) 0).getLsbD (t % 8))

def readPc (b : List Byte) (at_ : Nat) : Pc := BitVec.ofNat 57 (fld b at_ 8)

/-- Where threads go on when a record is read back. -/
structure Filing where
  key : BinKey
  threads : List Nat
  iv : NatMap Iv
deriving DecidableEq, Repr

/-- A bin record. -/
def readBin (b : List Byte) (at_ : Nat) : Filing :=
  let w := fld b (at_ + 8) 4
  ⟨⟨readPc b at_, if w = 0xFFFFFFFF then none else some w⟩, readBitmap b (at_ + 16), readIv b (at_ + 144)⟩

/-- Every interval ordered, and every thread's k values inside (R214). -/
def ivHolds (u : Unit_) (ts : List Nat) (iv : NatMap Iv) : Bool :=
  (List.range 32).all (fun n =>
    let i := ivGet iv n
    decide (i.lo ≤ i.hi) && ts.all (fun t => i.has ((u.thread t).reg (480 + n)).toInt))

/-- The failed image check of R214: SAVE_IMAGE and FATAL records, and teardown. -/
def badImage (s : State) (f l check site : Nat) : State :=
  let h := match launchOf s f l with
    | some x => (handleOf .launch x.obj.gen l).toNat
    | none => 0
  fatal (s.report ⟨5, 0, 0x0D, none, none, 0, f, site, check, h⟩) f 4 site

-- Places in the area (R330, R339).

/-- Ranges of the save area in use: images, progress records and spilled bins. -/
def savedRanges (s : State) (f : Nat) : List (Nat × Nat) :=
  let x := s.func f
  x.saved.map (fun i => (i.addr, i.size)) ++ x.savedCtxs.map (fun i => (i.addr, i.size))
    ++ x.savedClusters.map (fun i => (i.addr, i.size)) ++ x.cmds.filterMap (fun c => c.recAt.map (fun a => (a, 96)))
    ++ s.units.flatMap (fun p => match p.2 with
      | some u => if u.func = f then u.bins.filterMap (fun b => b.place.map (fun a => (a, 400))) else []
      | none => [])

/-- The lowest place for an image: at the start of the area, or behind an image. [DESIGN CHOICE, log 48] -/
def placeImage (s : State) (f size : Nat) : Option Nat :=
  let x := s.func f
  let used := savedRanges s f
  let cands := x.savebase :: used.map (fun p => roundUp (p.1 + p.2) 64)
  leastBy (fun a => [a]) (cands.filter (fun a =>
    decide (a + size ≤ x.savebase + x.savesize) && used.all (fun p => !overlaps a size p.1 p.2)))

/-- Write an image; none where it does not fit or faults (R339). -/
def writeImage (s : State) (f : Nat) (b : List Byte) : Option Nat × State :=
  match placeImage s f b.length with
  | none => (none, s)
  | some a =>
    match deviceWrite s f a b with
    | (none, s1) => (some a, s1)
    | (some _, s1) => (none, s1)

/-- The header of an image of a given kind (R330); the CRC covers what follows byte 40. -/
def withHeader (kind lhandle unit place how : Nat) (counts : List Nat) (body : List Byte) : List Byte :=
  let tail := counts.flatMap (leBytes 2) ++ zeroBytes 14 ++ body
  leBytes 4 0x47534931 ++ leBytes 4 1 ++ leBytes 4 kind ++ leBytes 4 (40 + tail.length) ++ leBytes 8 lhandle
    ++ leBytes 4 unit ++ leBytes 4 place ++ leBytes 4 how ++ leBytes 4 (crc32 tail).toNat ++ tail

/-- Do MAGIC, VERSION, KIND, SIZE and CRC match (R330)? [DEDUCED, log 52] -/
def imageHead (kind size : Nat) (b : List Byte) : Bool :=
  fld b 0 4 == 0x47534931 && fld b 4 4 == 1 && fld b 8 4 == kind && fld b 12 4 == size
    && fld b 36 4 == (crc32 (b.drop 40)).toNat

/-- Handle of the present launch in a slot. -/
def launchHandle (s : State) (f l : Nat) : Nat :=
  match launchOf s f l with
  | some x => (handleOf .launch x.obj.gen l).toNat
  | none => 0

-- Sparse bytes, as the images of contexts and clusters hold them.

/-- The bytes of a map that are not 0, each with its place in 8 bytes. [DESIGN CHOICE, log 51] -/
def sparseBytes (m : NatMap Byte) : List Byte := m.flatMap (fun p => leBytes 4 p.1 ++ leBytes 4 p.2.toNat)

def readSparse (b : List Byte) (at_ n : Nat) : NatMap Byte :=
  (List.range n).foldl (fun m k =>
    NatMap.set 0 m (fld b (at_ + 8 * k) 4) (BitVec.ofNat 8 (fld b (at_ + 8 * k + 4) 4))) []

-- Cluster images (R328): KIND 2.

def sealCode : SealState → Nat
  | .filling => 0
  | .sealed => 1
  | .reclaiming => 2

def sealRecord (e : SealEntry) : List Byte :=
  leBytes 8 e.start ++ leBytes 8 e.len ++ leBytes 4 (sealCode e.state) ++ leBytes 4 (if e.failed then 1 else 0)

def readSeal (b : List Byte) (at_ : Nat) : SealEntry :=
  ⟨fld b at_ 8, fld b (at_ + 8) 8,
    (match fld b (at_ + 16) 4 with
      | 0 => .filling
      | 1 => .sealed
      | _ => .reclaiming), 0, none, fld b (at_ + 20) 4 == 1⟩

/-- A binding: 24 bytes, the length of what is kept of the queue, or 0, and 2,064 bytes of it. -/
def bindRecord (b : QBind) : List Byte :=
  let k := b.kept.getD []
  leBytes 4 b.launch ++ leBytes 4 b.q ++ leBytes 4 b.core ++ leBytes 4 (if b.closed then 1 else 0) ++ leBytes 8 b.off
    ++ leBytes 8 k.length ++ k ++ zeroBytes (2064 - k.length)

def readBind (f : Nat) (b : List Byte) (at_ : Nat) : QBind :=
  ⟨f, fld b at_ 4, fld b (at_ + 4) 4, fld b (at_ + 8) 4, fld b (at_ + 16) 8, fld b (at_ + 12) 4 == 1,
    (let n := fld b (at_ + 24) 8
     if n = 0 then none else some ((b.drop (at_ + 32)).take (min n 2064)))⟩

/-- W, Y, their seal tables and the function's bindings. [DESIGN CHOICE, log 51] -/
def clusterImage (f cl : Nat) (c : ClusterSt) : List Byte :=
  let qs := c.queues.filter (fun b => b.func == f)
  withHeader 2 0 0 cl 0 [0, 0, 0, 0, 0]
    (leBytes 8 c.w.length ++ leBytes 8 c.y.length ++ leBytes 8 c.wSeals.length ++ leBytes 8 c.ySeals.length
      ++ leBytes 8 qs.length ++ sparseBytes c.w ++ sparseBytes c.y ++ c.wSeals.flatMap sealRecord
      ++ c.ySeals.flatMap sealRecord ++ qs.flatMap bindRecord)

/-- A cluster with what an image holds. -/
def readCluster (f : Nat) (c : ClusterSt) (b : List Byte) : ClusterSt :=
  let nw := fld b 64 8
  let ny := fld b 72 8
  let ns := fld b 80 8
  let nt := fld b 88 8
  let nq := fld b 96 8
  let wAt := 104
  let yAt := wAt + 8 * nw
  let sAt := yAt + 8 * ny
  let tAt := sAt + 24 * ns
  let qAt := tAt + 24 * nt
  { c with
    w := readSparse b wAt nw, y := readSparse b yAt ny
    wSeals := (List.range ns).map (fun k => readSeal b (sAt + 24 * k))
    ySeals := (List.range nt).map (fun k => readSeal b (tAt + 24 * k))
    queues := (List.range nq).map (fun k => readBind f b (qAt + 2096 * k)) }

/-- The counts of a cluster image, and that what it names lies in the cluster. [DEDUCED, log 52] -/
def clusterHolds (f cl : Nat) (b : List Byte) : Bool :=
  let n := fld b 64 8 + fld b 72 8
  let m := fld b 80 8 + fld b 88 8
  104 + 8 * n + 24 * m + 2096 * fld b 96 8 == b.length &&
    (let c := readCluster f .reset b
     c.w.all (fun p => decide (p.1 < 4194304)) && c.y.all (fun p => decide (p.1 < 2097152))
      && c.wSeals.all (fun e => decide (e.start + e.len ≤ 4194304)) && c.ySeals.all (fun e => decide (e.start + e.len ≤ 2097152))
      && c.queues.all (fun q => decide (q.q < 16) && decide (q.core / 4 = cl) && decide (q.off + 16 ≤ 786432)))

/-- The image of a cluster, read and checked: the check that fails, or its bytes. -/
def loadCluster (f : Nat) (i : SavedCluster) (s : State) : Sum Nat (List Byte) × State :=
  match deviceRead f i.size s i.addr with
  | (none, s1) => (.inl 4, s1)
  | (some b, s1) =>
    (if !imageHead 2 i.size b then .inl 2 else if !clusterHolds f i.cluster b then .inl 3 else .inr b, s1)

/-- Save the cluster's image for a function (R328). One that cannot be written tears the function down (R339). -/
def saveCluster (s : State) (f cl : Nat) : State :=
  let b := clusterImage f cl (s.cluster cl)
  let s0 := s.modFunc f (fun x => { x with savedClusters := x.savedClusters.filter (fun i => i.cluster != cl) })
  match writeImage s0 f b with
  | (some a, s1) => s1.modFunc f (fun x => { x with savedClusters := x.savedClusters ++ [⟨cl, a, b.length⟩] })
  | (none, s1) => badImage s1 f 0 4 (siteOf cl 0 0)

/-- Restore the image that a function holds for the cluster, if it holds one (R329, R350). -/
def restoreCluster (s : State) (f cl : Nat) : State :=
  match (s.func f).savedClusters.find? (fun i => i.cluster == cl) with
  | none => s
  | some i =>
    match loadCluster f i s with
    | (.inl n, s1) => badImage s1 f 0 n (siteOf cl 0 0)
    | (.inr b, s1) => (s1.modCluster cl (fun c => readCluster f c b)).modFunc f
      (fun x => { x with savedClusters := x.savedClusters.filter (fun j => j.cluster != cl) })

-- Spilled bins (R197, R214).

/-- Threads that a unit's holders name, aside from one bin. -/
def heldElsewhere (s : State) (uid : Nat) (u : Unit_) (bin : Bin) : List Nat :=
  (u.bins.filter (fun b => b != bin)).flatMap (·.threads) ++ u.parked.flatMap (·.threads)
    ++ (unitSlots s uid).flatMap (fun sl => match s.group? u.core sl with
      | some g => g.members.map Prod.snd
      | none => [])

/-- Read a spilled bin's record and check it (R214, R330): 4 it cannot be read, 3 its bitmap, 1 its intervals.
[DEDUCED, log 52] -/
def loadBin (s : State) (uid : Nat) (u : Unit_) (b : Bin) : Sum Nat Filing × State :=
  match b.place with
  | none => (.inr ⟨b.key, b.threads, b.iv⟩, s)
  | some a =>
    match deviceRead u.func 400 s a with
    | (none, s1) => (.inl 4, s1)
    | (some r, s1) =>
      let y := readBin r 0
      let others := heldElsewhere s uid u b
      (if !y.threads.all (fun t => decide (t < u.nthreads) && !(u.thread t).exited && !others.contains t) then .inl 3
       else if !ivHolds u y.threads y.iv then .inl 1 else .inr y, s1)

/-- The bins of a unit once a spilled bin stands in the store again: it keeps its birth clock, and joins a stored bin of its
key (R194, R197). -/
def joinBin (clock : Nat) (b : Bin) (y : Filing) (l : List Bin) : List Bin :=
  let rest := l.filter (fun x => x != b)
  if y.threads = [] then rest
  else if rest.any (fun x => x.key == y.key) then
    rest.map (fun x => if x.key = y.key then
      noteFull clock { x with threads := mergeAsc x.threads y.threads, iv := ivHull x.iv y.iv, birth := min x.birth b.birth }
    else x)
  else rest ++ [{ b with key := y.key, threads := y.threads, iv := y.iv, spilled := false, place := none }]

/-- The spilled bin of a key, the one in the area first. -/
def Unit_.spill (u : Unit_) (key : BinKey) : Option Bin :=
  match u.bins.find? (fun b => b.key == key && b.spilled && b.place.isSome) with
  | some b => some b
  | none => u.bins.find? (fun b => b.key == key && b.spilled)

/-- A spilled bin returns to the store; a failed check tears the function down (R214). -/
def bringBack (s : State) (uid : Nat) (key : BinKey) : State :=
  match s.unit? uid with
  | none => s
  | some u =>
    match u.spill key with
    | none => s
    | some b =>
      match loadBin s uid u b with
      | (.inl n, s1) => badImage s1 u.func u.launch n (siteOf (u.core / 4) (u.core % 4) 0)
      | (.inr y, s1) => s1.modUnit uid (fun v => { v with bins := joinBin s1.clock b y v.bins })

/-- Every spilled bin of a unit returns. -/
def bringAll (s : State) (uid : Nat) : State :=
  match s.unit? uid with
  | none => s
  | some u => ((u.bins.filter (·.spilled)).map (·.key)).foldl (fun st k => bringBack st uid k) s

/-- A bin that has just been spilled is written to the area. -/
def writeSpill (uid : Nat) (s : State) (key : BinKey) : State :=
  match s.unit? uid with
  | none => s
  | some u =>
    match u.bins.find? (fun b => b.key == key && b.spilled && b.place.isNone) with
    | none => s
    | some b =>
      match writeImage s u.func (binRecord b) with
      | (some a, s1) => s1.modUnit uid (fun v => { v with bins := v.bins.map (fun x =>
          if x.key = key ∧ x.spilled = true then { x with place := some a } else x) })
      | (none, s1) => badImage s1 u.func u.launch 4 (siteOf (u.core / 4) (u.core % 4) 0)

/-- Keys of bins in the area at which threads were filed since. -/
def Unit_.twins (u : Unit_) : List BinKey :=
  (u.bins.filter (fun b => b.place.isSome && u.bins.any (fun x => x.key == b.key && x != b))).map (·.key)

/-- Keys of bins that are spilled and not yet written. -/
def Unit_.unwritten (u : Unit_) : List BinKey := (u.bins.filter (fun b => b.spilled && b.place.isNone)).map (·.key)

/-- The spills of one unit: a spilled bin that threads were filed at joins them, and what was spilled is written (R197). -/
def settleUnit (s : State) (uid : Nat) : State :=
  match s.unit? uid with
  | none => s
  | some u =>
    let s1 := u.twins.foldl (fun st k => bringBack st uid k) s
    match s1.unit? uid with
    | none => s1
    | some v => v.unwritten.foldl (writeSpill uid) s1

/-- The spills of a step take place. -/
def settleSpills (s : State) : State :=
  let due := s.units.filterMap (fun p => p.2.bind (fun u => if u.bins.any (·.spilled) then some p.1 else none))
  if due = [] then s else flushReports (due.foldl settleUnit s)

end Sys2Proof.Machine
end

