-- ==== Sys2Proof/Machine/Dispatcher.lean ====
section
/-! DEFINITION. Bins and draws (R195 to R198), cohorts and units (R191 to R193, R205 to R210, R318), contexts (R146,
R150), launch completion (R210), and who serves a cluster (R209, R328, R347). -/

namespace Sys2Proof.Machine

-- Bins (R195 to R198).

/-- Slots of a core that a group or a shadow takes. -/
def takenSlots (s : State) (core : Nat) : List Nat :=
  (List.range 32).foldl (fun l sl => match s.group? core sl with
    | some g => sl :: (g.shadow.toList ++ l)
    | none => l) []

def freeIn (s : State) (core q : Nat) : List Nat :=
  ((List.range 8).map (fun i => 8 * q + i)).filter (fun sl => !(takenSlots s core).contains sl)

/-- The quadrant of a draw: the most free slots, the lower among equals; a pair needs two (R196, R357). -/
def drawQuadrant (s : State) (core need : Nat) : Option Nat :=
  (List.range 4).foldl (fun best q =>
    if (freeIn s core q).length < need then best
    else match best with
      | none => some q
      | some b => if (freeIn s core b).length < (freeIn s core q).length then some q else some b) none

/-- No thread of the unit is in a group slot. -/
def unitIdle (s : State) (uid : Nat) : Bool := unitSlots s uid == []

def Unit_.ageLimit (u : Unit_) (s : State) : Nat := (recOf s u.func u.launch).ageLimit

/-- R195. -/
def binEligible (s : State) (uid : Nat) (u : Unit_) (b : Bin) : Bool :=
  binFull b.threads || decide (u.ageLimit s ≤ s.clock - b.birth) || unitIdle s uid

/-- May the unit's bins be drawn: it is neither stopping, nor due to be relaunched, nor standing for a save? -/
def unitDraws (s : State) (u : Unit_) : Bool := !u.stopping && !u.relaunchDue && !saveStands s u

/-- The eligible bins of a core. -/
def eligibleBins (s : State) (core : Nat) : List (Nat × Unit_ × Bin) :=
  (unitsOnCore s core).foldl (fun l p =>
    if unitDraws s p.2 then l ++ (p.2.bins.filter (binEligible s p.1 p.2)).map (fun b => (p.1, p.2, b)) else l) []

/-- The order of R196 as a list of numbers, compared from the left. -/
def drawKey (p : Nat × Unit_ × Bin) : List Nat :=
  [p.2.2.birth, p.2.2.key.pc.toNat, (match p.2.2.key.warp with | none => 0 | some w => w + 1),
    p.2.1.started, p.2.1.func, p.2.1.launch, p.2.1.index]

/-- For each home lane, the thread of that lane with the lowest index (R196). -/
def drawLanes (ts : List Nat) : List (Nat × Nat) :=
  (List.range 32).filterMap (fun l => (ts.find? (fun t => t % 32 == l)).map (fun t => (l, t)))

/-- A bin is drawn into a new group (R196). -/
def drawBin (s : State) (core q uid : Nat) (u : Unit_) (b : Bin) : State :=
  let free := freeIn s core q
  let lanes := drawLanes b.threads
  let left := b.threads.filter (fun t => !lanes.any (fun p => p.2 == t))
  let g : Group :=
    { front := .start b.key.pc, uid := uid, lanes := lanes.foldl (fun m p => NatMap.set none m p.1 (some p.2)) [],
      iv := b.iv, drawn := s.clock, marked := false, shadow := if u.redundant then free[1]? else none,
      paired := u.redundant }
  let rest (x : Bin) : Bin := noteFull s.clock { x with threads := left, birth := s.clock, aged := false, waiting := none }
  let bins (l : List Bin) : List Bin :=
    if left = [] then l.filter (fun x => x != b) else l.map (fun x => if x = b then rest x else x)
  let s1 := s.modUnit uid (fun v => { v with bins := bins v.bins })
  (s1.setGroup core (free.headD 0) (some g)).modCore core (fun c => { c with drewAt := s.clock + 1 })

/-- A draw of a spilled bin: it is brought back and checked first (R197, R214). What stays of it may have to be spilled again. -/
def drawSpilled (s : State) (core q uid : Nat) (key : BinKey) : State :=
  let s1 := bringBack s uid key
  match s1.unit? uid with
  | none => s1
  | some u =>
    match u.bins.find? (fun b => b.key == key && !b.spilled) with
    | none => s1
    | some b =>
      let s2 := drawBin s1 core q uid u b
      if 64 < (storedBins s2 core).length then spillOne s2 core else s2

/-- BIN_DRAW (R196): at most one bin of a core in a clock. -/
def execBinDraw (core : Nat) (s : State) : Host.Outcome State Fault Refusal :=
  match leastBy drawKey (eligibleBins s core) with
  | none => notNow "BIN_DRAW"
  | some (uid, u, b) =>
    match drawQuadrant s core (if u.redundant then 2 else 1) with
    | none => notNow "BIN_DRAW"
    | some q =>
      if s.clock < (s.core core).drewAt then notNow "BIN_DRAW"
      else if b.spilled then done (drawSpilled s core q uid b.key) else done (drawBin s core q uid u b)

/-- BIN_AGED (R195): the bin's age has reached its launch's age limit. -/
def execBinAged (uid : Nat) (key : BinKey) (s : State) : Host.Outcome State Fault Refusal :=
  match s.unit? uid with
  | none => notNow "BIN_AGED"
  | some u =>
    if u.bins.any (fun b => b.key == key && !b.aged && decide (u.ageLimit s ≤ s.clock - b.birth)) then
      done (modBin s uid key (fun b => { b with aged := true, waiting := some (b.waiting.getD s.clock) }))
    else notNow "BIN_AGED"

/-- The clock since which no slot of the core has been free: the last draw filled it. -/
def fullSince (s : State) (core : Nat) : Nat :=
  (List.range 32).foldl (fun m sl => match s.group? core sl with
    | some g => max m g.drawn
    | none => m) 0

/-- The clock since which a bin is eligible: since it became full, reached its age, or its unit left the slots, but not before the
bin was there, whichever came first (R195). [DEDUCED, log 49] -/
def eligibleSince (s : State) (u : Unit_) (b : Bin) : Option Nat :=
  let aged := b.birth + u.ageLimit s
  let l := b.waiting.toList ++ u.idleAt.toList.map (max b.birth) ++ (if aged ≤ s.clock then [aged] else [])
  match l with
  | [] => none
  | n :: r => some (r.foldl min n)

/-- Has an eligible bin of the core waited its launch's age limit for a slot? [DEDUCED, log 49] -/
def binWaited (s : State) (core : Nat) : Bool :=
  (eligibleBins s core).any (fun p => match eligibleSince s p.2.1 p.2.2 with
    | some w => decide (max w (fullSince s core) + p.2.1.ageLimit s ≤ s.clock)
    | none => false)

/-- Note for each unit since when none of its threads stands in a slot (R195). -/
def noteIdle (s : State) : State :=
  { s with units := s.units.map (fun p => (p.1, p.2.map (fun u =>
    if unitIdle s p.1 then { u with idleAt := some (u.idleAt.getD s.clock) } else { u with idleAt := none }))) }

/-- DISSOLUTION_MARK (R198): the group that has held its slot longest, and at least its own age limit, is marked.
[DEDUCED, log 49] -/
def execDissolutionMark (core : Nat) (s : State) : Host.Outcome State Fault Refusal :=
  let old := (List.range 32).filterMap (fun sl => match s.group? core sl with
    | some g => (match s.unit? g.uid with
      | some u => if !g.front.priv && !g.marked && decide (u.ageLimit s ≤ s.clock - g.drawn) then some (sl, g) else none
      | none => none)
    | none => none)
  let marked := (List.range 32).any (fun sl => match s.group? core sl with
    | some g => g.marked
    | none => false)
  match leastBy (fun (p : Nat × Group) => [p.2.drawn, p.1]) old with
  | some (sl, _) =>
    if (takenSlots s core).length = 32 ∧ binWaited s core ∧ !marked then
      done (s.modGroup core sl (fun g => { g with marked := true }))
    else notNow "DISSOLUTION_MARK"
  | none => notNow "DISSOLUTION_MARK"

/-- GROUP_DISSOLVE (R198): the marked group stands at its run boundary, and files its threads. -/
def execGroupDissolve (core slot : Nat) (s : State) : Host.Outcome State Fault Refusal :=
  match s.group? core slot with
  | some g =>
    if g.marked && g.front.j == 0 && !g.front.priv && g.front.hold.isNone then done (dissolve s core slot)
    else notNow "GROUP_DISSOLVE"
  | none => notNow "GROUP_DISSOLVE"

/-- BIN_BRING_BACK (R197): a place in the store is free, and the spilled bin returns after the checks of R214. -/
def execBinBringBack (uid : Nat) (key : BinKey) (s : State) : Host.Outcome State Fault Refusal :=
  match s.unit? uid with
  | none => notNow "BIN_BRING_BACK"
  | some u =>
    if (u.spill key).isNone || decide (64 ≤ (storedBins s u.core).length) then notNow "BIN_BRING_BACK"
    else done (bringBack s uid key)

-- Who serves a cluster (R209, R328, R347).

/-- W, Y, their seal tables and the bindings are cleared (R209). -/
def clearCluster (s : State) (cl : Nat) : State :=
  s.modCluster cl (fun c => { c with w := [], y := [], wSeals := [], ySeals := [], queues := [], hints := [] })

/-- Does a collapsed WC0 function keep its image in the cluster's SRAM (R349)? [DEDUCED, log 54] -/
def keepsImage (s : State) (f : Nat) : Bool :=
  f != 0 && funcExists s f && !(s.func f).torn && (s.fcfgOf f).wclass == 0 && (s.func f).wake != .awake

/-- The function begins to serve the cluster, whose W and Y another function's turn clears (R209, R224). The image that a
collapsed WC0 function left in SRAM is saved first. [DEDUCED, log 54] -/
def takeCluster (s : State) (f cl : Nat) : State :=
  let c := s.cluster cl
  let s1 :=
    if c.lastServed = some f then s
    else
      let s0 := match c.lastServed with
        | some h => if keepsImage s h then saveCluster s h cl else s
        | none => s
      clearCluster s0 cl
  let s2 := restoreCluster s1 f cl
  if (s2.func f).torn then s2
  else s2.modCluster cl (fun x =>
    { x with serving := some f, lastServed := some f, gate := .running,
             sliceStart := if c.serving = some f then x.sliceStart else s.clock })

/-- Does no reference hold up the clearing of R209 (R224)? -/
def clearable (c : ClusterSt) : Bool := c.wSeals.all (fun e => e.refs == 0) && c.ySeals.all (fun e => e.refs == 0)

/-- May a cluster take a cohort of the function now? -/
def clusterServes (s : State) (f cl : Nat) : Bool :=
  let c := s.cluster cl
  clusterAllowed s f cl && !c.turning && (c.serving == none || c.serving == some f)
    && (c.lastServed == some f || clearable c)

/-- Has the range engine of a die 16 free entries (R178)? -/
def rangesFree (s : State) (d : Nat) : Bool := decide ((s.die d).rangeUsed.length < 4)

-- Placement (R191, R205, R206).

def unitWeight (u : Unit_) : Nat := if u.redundant then 2 else 1

/-- Resident threads and register bytes of a core, as R191 and R357 count them. -/
def coreThreads (s : State) (core : Nat) : Nat := (unitsOnCore s core).foldl (fun n p => n + unitWeight p.2 * p.2.nthreads) 0
def coreRegBytes (s : State) (core : Nat) : Nat :=
  (unitsOnCore s core).foldl (fun n p => n + unitWeight p.2 * (p.2.nthreads * (p.2.regs + 32) * 4)) 0

/-- Can the core hold one more unit of the launch? -/
def coreTakes (s : State) (core : Nat) (r : LaunchRec) : Bool :=
  let w := if r.redundant then 2 else 1
  decide ((unitsOnCore s core).length + 1 ≤ 16) && decide (coreThreads s core + w * r.threads ≤ 2048)
    && decide (coreRegBytes s core + w * (r.threads * (r.regs + 32) * 4) ≤ 524288)

/-- Can every core of a cluster take an X reservation at the offset? Two reservations never begin at one offset.
[DESIGN CHOICE, log 48] -/
def xFree (s : State) (cl off len : Nat) : Bool :=
  off % 256 == 0 && decide (off + len ≤ 786432) && (List.range 4).all (fun i =>
    (s.core (4 * cl + i)).xres.all (fun r => !overlaps off len r.off r.len && r.off != off))

def someOffset (s : State) (cl len : Nat) : Bool := (List.range 3073).any (fun i => xFree s cl (256 * i) len)

/-- Is context `c` of the cluster free (R146)? -/
def ctxFree (s : State) (cl c : Nat) : Bool :=
  match s.ctx? cl c with
  | some x => x.ended
  | none => true

/-- Number of units of a cohort. -/
def cohortUnits (r : LaunchRec) (n : Nat) : Nat := min 4 (r.units - 4 * n)

/-- Can the cluster take cohort `n` of a launch (R205)? -/
def clusterTakes (s : State) (f : Nat) (r : LaunchRec) (n cl : Nat) : Bool :=
  clusterServes s f cl && (List.range (cohortUnits r n)).all (fun i => coreTakes s (4 * cl + i) r)
    && (r.qentry == 0 || ctxFree s cl r.qctx) && someOffset s cl r.xbytes && (n != 0 || rangesFree s (dieOfCluster cl))

/-- Resident threads of a cluster. [DEDUCED, log 49] -/
def clusterThreads (s : State) (cl : Nat) : Nat := (List.range 4).foldl (fun n i => n + coreThreads s (4 * cl + i)) 0

/-- The cluster of R205 among those not yet taken. [DEDUCED, log 49] -/
def chooseCluster (s : State) (f : Nat) (r : LaunchRec) (n : Nat) (used : List Nat) : Option Nat :=
  leastBy (fun cl => [clusterThreads s cl, cl]) ((List.range 64).filter (fun cl => !used.contains cl && clusterTakes s f r n cl))

/-- Clusters for cohorts `n`, `n + 1`, ... of a launch, all different (R208). -/
def chooseAll (s : State) (f : Nat) (r : LaunchRec) : Nat → Nat → List Nat → Option (List Nat)
  | 0, _, used => some used
  | k + 1, n, used =>
    match chooseCluster s f r n used with
    | some cl => chooseAll s f r k (n + 1) (used ++ [cl])
    | none => none

/-- The clusters at which the launch's next cohort, or the whole launch, can start. -/
def placement (s : State) (f : Nat) (l : LaunchSlot) : Option (List Nat) :=
  if l.rcd.qentry = 0 then (chooseCluster s f l.rcd l.cohorts []).map (fun cl => [cl])
  else chooseAll s f l.rcd l.rcd.cohortCount 0 []

-- Start (R192, R21, R147).

/-- Registers of a unit from the launch record. -/
def startS (r : LaunchRec) (arg : Option DWord) : NatMap DWord :=
  let m := (List.range 16).foldl (fun m n =>
    if r.smask.getLsbD n then NatMap.set 0 m n (NatMap.get 0 r.sinit n) else m) []
  match arg with
  | some v => NatMap.set 0 m 63 v
  | none => m

def startA (r : LaunchRec) : NatMap ArrayReg := r.arrays.filter (fun p => p.2.valid)

/-- One unit starts on a core: its state, and its warps in their bins. The start acquires at package scope (R249), and the
core's instruction cache begins anew (R56). [DEDUCED, log 50] -/
def startUnit (s : State) (f l index cohort core xoff : Nat) : State :=
  let r := recOf s f l
  let arg := (launchOf s f l).bind (·.arg)
  let uid := s.nextUid
  let contain := r.contain
  let u : Unit_ :=
    { func := f, launch := l, index := index, cohort := cohort, core := core, xoff := xoff, xbytes := r.xbytes,
      nthreads := r.threads, regs := r.regs, started := s.clock, s := startS r arg, a := startA r, threads := [], bins := [],
      parked := [], arrived := [], tl := [], tokens := [], runs := 0, redundant := r.redundant, contain := contain,
      relaunchable := contain && r.qentry == 0, relaunched := false, buffer := [], drain := none, saveBy := none,
      stopping := false, relaunchDue := false, restarts := false, atFault := false, idleAt := none, bySwitch := false, wroteAt := 0, sWas := [], aWas := [] }
  let s1 := (acquirePackage s core).modCore core (fun c => { c with icache := [] })
  let s2 := ({ s1 with nextUid := uid + 1 }).setUnit uid (some u)
  let s3 := (List.range (r.threads / 32)).foldl (fun st w =>
    fileThreads st uid ⟨r.entry, some w⟩ ((List.range 32).map (fun i => 32 * w + i)) []) s2
  if contain && r.qentry != 0 then bumpCounter s3 f 7 else s3

/-- The X reservation of a cohort on the four cores of a cluster: every byte 0, and none of them a barrier yet (R136, R192, R206). -/
def reserveX (s : State) (f l cohort cl off len : Nat) : State :=
  (List.range 4).foldl (fun st i => st.modCore (4 * cl + i) (fun c => { c with
    x := NatMap.clearRange c.x off (off + len), badX := keepBad c.badX off len
    barriers := c.barriers.filter (fun b => !overlaps b 16 off len), xres := c.xres ++ [⟨f, l, cohort, off, len⟩] })) s

/-- The Quartz context of a cohort (R146, R147). -/
def startCtx (s : State) (f l cohort cl : Nat) : State :=
  let r := recOf s f l
  let sr := (List.range 16).foldl (fun m n =>
    if r.qsmask.getLsbD n then NatMap.set 0 m n (NatMap.get 0 r.qsinit n) else m) []
  s.setCtx cl r.qctx (some
    { front := .start r.qentry, func := f, launch := l, cohort := cohort, s := sr, m := [], ebud := (budgetOf s f).2,
      prio := BitVec.ofNat 2 (r.prio.getD 1), sca := 0, scb := 0, chkst := 0, failed := none, tl := .start, park := none,
      exiting := false, ended := false, saveBy := none, bySwitch := false })

/-- Cohort `n` starts on a cluster, unless the function's image of it fails its check. [DESIGN CHOICE, log 48] -/
def startCohort (s : State) (f l n cl off : Nat) : State :=
  let r := recOf s f l
  let st := takeCluster s f cl
  if (st.func f).torn then st else
  let s0 := reserveX st f l n cl off r.xbytes
  let s1 := if n = 0 then s0.modDie (dieOfCluster cl) (fun d => { d with rangeUsed := d.rangeUsed ++ [(f, l)] }) else s0
  let s2 := (List.range (cohortUnits r n)).foldl (fun st i => startUnit st f l (4 * n + i) n (4 * cl + i) off) s1
  if r.qentry = 0 then s2 else startCtx s2 f l n cl

/-- A launch with a cohort to start: its edges are met, it is not cancelled, no save holds it. -/
def cohortReady (l : LaunchSlot) : Bool :=
  l.readyAt.isSome && !l.obj.ended && l.obj.cancelAt.isNone && !l.obj.held && decide (l.cohorts < l.rcd.cohortCount)

/-- Priority of a launch's phase (R318). -/
def launchPrio (s : State) (f : Nat) (l : LaunchSlot) : Nat :=
  match objOf s f .graph l.obj.parent with
  | some g => (match NatMap.get none (s.func f).phases g.parent with
    | some p => p.prio
    | none => 0)
  | none => 0

/-- Effective priority (R318). -/
def launchEff (s : State) (f : Nat) (l : LaunchSlot) : Nat :=
  min 3 (launchPrio s f l + (s.clock - l.readyAt.getD s.clock) / 1400 / 1000)

/-- The functions that may start cohorts: awake, not torn down. -/
def funcStarts (s : State) (f : Nat) : Bool :=
  funcExists s f && !(s.func f).torn && (match (s.func f).wake with
    | .awake => true
    | _ => false)

/-- A start that can take place now: the clusters, and for a relaunch the unit's index and the cluster it left (R360). -/
structure Start where
  func : Nat
  idx : Nat
  slot : LaunchSlot
  clusters : List Nat
  again : Option (Nat × Nat)

/-- Where a relaunched unit can start, as a cohort of one, on core 0 of a cluster other than the one it left.
[DEDUCED, log 49] -/
def placeAgain (s : State) (f : Nat) (r : LaunchRec) (left : Nat) : Option Nat :=
  leastBy (fun cl => [clusterThreads s cl, cl]) ((List.range 64).filter (fun cl =>
    decide (cl ≠ left) && clusterServes s f cl && coreTakes s (4 * cl) r && someOffset s cl r.xbytes))

/-- The starts of one launch: a waiting relaunch, and the next cohort. -/
def startsOf (s : State) (f i : Nat) (l : LaunchSlot) : List Start :=
  let again := match l.relaunch with
    | [] => []
    | p :: _ => if l.obj.ended || l.obj.cancelAt.isSome || l.obj.held then []
      else ((placeAgain s f l.rcd p.2).map (fun cl => Start.mk f i l [cl] (some p))).toList
  again ++ (if cohortReady l then ((placement s f l).map (fun cls => Start.mk f i l cls none)).toList else [])

/-- Everything that can start now. -/
def startable (s : State) : List Start :=
  s.funcs.foldl (fun acc p =>
    if funcStarts s p.1 then
      acc ++ p.2.launches.foldl (fun l x => match x.2 with
        | some y => l ++ startsOf s p.1 x.1 y
        | none => l) []
    else acc) []

/-- The order of R318. -/
def startKey (s : State) (p : Start) : List Nat :=
  [3 - launchEff s p.func p.slot, p.slot.readyAt.getD 0, p.func, p.idx]

/-- Start cohorts on their clusters, in order, at the given X offsets; none when an offset is not free. -/
def startAll (f l : Nat) : Nat → List Nat → List Nat → State → Option State
  | _, [], _, s => some s
  | n, cl :: cls, offs, s =>
    let off := offs.headD 0
    if (s.func f).torn then some s
    else if xFree s cl off (recOf s f l).xbytes then startAll f l (n + 1) cls offs.tail (startCohort s f l n cl off) else none

/-- A relaunched unit starts; it is no longer contained (R360). Its cohort's number lies above the launch's own. -/
def startAgain (s : State) (f l index cl off : Nat) : State :=
  let r := recOf s f l
  let n := r.cohortCount + index
  let st := takeCluster s f cl
  if (st.func f).torn then st else
  let s1 := reserveX st f l n cl off r.xbytes
  let uid := s1.nextUid
  let s2 := (startUnit s1 f l index n (4 * cl) off).modUnit uid (fun u => { u with
    contain := false, relaunchable := false, relaunched := true })
  modLaunch s2 f l (fun y => { y with relaunch := y.relaunch.tail })

/-- COHORT_START (R205 to R208): the dispatcher's first start in the order of R318. `offs` gives the X offset of each
cohort. -/
def execCohortStart (offs : List Nat) (s : State) : Host.Outcome State Fault Refusal :=
  match leastBy (startKey s) (startable s) with
  | none => notNow "COHORT_START"
  | some x =>
    match x.again with
    | some (index, _) =>
      (match x.clusters with
       | cl :: _ => if xFree s cl (offs.headD 0) x.slot.rcd.xbytes then done (startAgain s x.func x.idx index cl (offs.headD 0))
         else notNow "COHORT_START"
       | [] => notNow "COHORT_START")
    | none =>
      match startAll x.func x.idx x.slot.cohorts x.clusters offs s with
      | none => notNow "COHORT_START"
      | some s1 =>
        if (s1.func x.func).torn then done s1 else
        let first := x.slot.cohorts == 0
        done (modLaunch s1 x.func x.idx (fun y => { y with
          cohorts := x.slot.cohorts + x.clusters.length
          home := if first then x.clusters.head?.map dieOfCluster else y.home
          obj := { y.obj with st := .running, dlStart := if first then some s.clock else y.obj.dlStart } }))

-- Turns of a cluster (R347).

/-- Does the function hold units or contexts on the cluster? -/
def holdsOn (s : State) (f cl : Nat) : Bool :=
  s.units.any (fun p => match p.2 with
    | some u => u.func == f && u.core / 4 == cl
    | none => false)
  || s.ctxs.any (fun p => match p.2 with
    | some c => c.func == f && p.1 / 8 == cl && !c.ended
    | none => false)

/-- May what a CTXSW or a slice end saved be restored: what a CTXSW saved once RESUME has released the launch, and of a cancelled
launch nothing (R334, R335)? -/
def mayRestore (s : State) (f launch : Nat) (bySwitch : Bool) : Bool :=
  match launchOf s f launch with
  | some l => l.obj.cancelAt.isNone && (!bySwitch || !l.obj.held)
  | none => !bySwitch

/-- Has the function held units or contexts on the cluster, those that a CTXSW holds among them (R334, R347)? -/
def savedOn (s : State) (f cl : Nat) : Bool :=
  (s.func f).saved.any (fun i => i.core / 4 == cl) || (s.func f).savedCtxs.any (fun c => c.cluster == cl)

/-- Has the function a launch whose next cohort is ready, or a unit to relaunch? -/
def hasReady (s : State) (f : Nat) : Bool :=
  (s.func f).launches.any (fun p => match p.2 with
    | some l => cohortReady l || l.relaunch != []
    | none => false)

/-- A startable or held cohort of the function on the cluster (R347). -/
def hasCohort (s : State) (f cl : Nat) : Bool := holdsOn s f cl || savedOn s f cl || (funcStarts s f && hasReady s f)

/-- The functions of a cluster's partition, from the one above `f`, wrapping round. -/
def rotation (s : State) (f cl : Nat) : List Nat :=
  match partOfCluster s cl with
  | none => []
  | some p =>
    let fs := (s.fcfg.filter (fun x => x.2.en && x.2.part == p)).map Prod.fst
    fs.filter (fun g => decide (f < g)) ++ fs.filter (fun g => decide (g < f))

/-- The next function that the cluster turns to. -/
def nextFunc (s : State) (f cl : Nat) : Option Nat := (rotation s f cl).find? (fun g => funcStarts s g && hasCohort s g cl)

/-- Has the slice of the cluster's function ended (R347)? -/
def sliceOver (s : State) (f cl : Nat) : Bool := decide ((s.cluster cl).sliceStart + 1400 * (s.fcfgOf f).slice ≤ s.clock)

/-- A turning cluster whose function has left it passes to the next function. At the end of a slice the cluster image is
saved (R328); a turn for want of a cohort saves none. [DEDUCED, log 54] -/
def settleTurn (s : State) (cl : Nat) : State :=
  let c := s.cluster cl
  match c.serving with
  | some f =>
    if c.turning && !holdsOn s f cl then
      let s1 := s.modCluster cl (fun x => { x with turning := false, serving := none })
      (match nextFunc s1 f cl with
       | some g =>
         if clearable c then
           takeCluster (if f ≠ 0 ∧ funcExists s f ∧ !(s.func f).torn ∧ sliceOver s f cl then saveCluster s1 f cl else s1) g cl
         else s
       | none => takeCluster s1 f cl)
    else s
  | none => s

-- Ends (R150, R193, R210).

/-- Every access of the unit's threads is performed. [DEDUCED, log 50] -/
def performUnit (s : State) (uid : Nat) (u : Unit_) : State := releaseAt s uid u.core (List.range u.nthreads) 4

/-- Have timelines 0 to 2 completed every operation, and the rank engine the unit's last TOPK? -/
def enginesIdle (s : State) (uid : Nat) (u : Unit_) : Bool :=
  (List.range 3).all (fun t => (u.timeline t).i == (u.timeline t).c) && s.topks.all (fun t => t.uid != uid)

/-- Is a request of the unit's threads on its way? -/
def unitSends (s : State) (uid : Nat) : Bool := s.sent.any (fun q => match q.by_ with
  | .thread u _ => u == uid
  | _ => false)

/-- UNIT_COMPLETE (R193, R359): once every thread has exited, a store buffer is performed, at the place of the unit's core in the clock
(R235); then, with nothing of the unit on its way, it completes. -/
def execUnitComplete (uid : Nat) (s : State) : Host.Outcome State Fault Refusal :=
  match s.unit? uid with
  | none => notNow "UNIT_COMPLETE"
  | some u =>
    if u.live != [] || u.stopping || u.relaunchDue || !enginesIdle s uid u || unitSends s uid then notNow "UNIT_COMPLETE"
    else if u.buffer != [] then done (performBuffer s uid)
    else
      let s1 := performUnit s uid u
      let s2 := freeUnit s1 uid
      let s3 := modLaunch s2 u.func u.launch (fun l => { l with
        unitsDone := l.unitsDone + 1, runsDone := l.runsDone + u.runs, obj := { l.obj with count := l.obj.count + 1 } })
      let s4 := releaseCntw s3 u.func
      done (acceptRest (settleTurn (closeAndServe s4 u.func u.launch (u.core / 4)) (u.core / 4)) u.func)

/-- QUARTZ_CONTEXT_END (R150): the context stands at EXIT, and its C equals its I. -/
def execQuartzContextEnd (cluster ctx : Nat) (s : State) : Host.Outcome State Fault Refusal :=
  match s.ctx? cluster ctx with
  | none => notNow "QUARTZ_CONTEXT_END"
  | some c =>
    if c.exiting && !c.ended && c.tl.i == c.tl.c then
      let s1 := s.modCtx cluster ctx (fun x => { x with ended := true })
      done (acceptRest (settleTurn (closeAndServe s1 c.func c.launch cluster) cluster) c.func)
    else notNow "QUARTZ_CONTEXT_END"

/-- Physical lines of a hull, page by page, as the node's accesses translate; other pages hold none (R314). -/
def hullLines (f : Nat) (write : Bool) : Nat → Nat → Nat → State → List Nat × State
  | 0, _, _, s => ([], s)
  | n + 1, va, hi, s =>
    if hi < va then ([], s)
    else
      let stop := min hi (va / 4096 * 4096 + 4095)
      let r := translate s [] f va (if write then .write else .read)
      let here := match r.1 with
        | .ok t => (List.range ((t.pa + (stop - va)) / 256 - t.pa / 256 + 1)).map (fun i => t.pa / 256 + i)
        | _ => []
      let rest := hullLines f write n (stop + 1) hi r.2
      (here ++ rest.1, rest.2)

/-- The lines of the HOST regions of a node that it writes, or that it reads (R314). -/
def hostLines (s : State) (f : Nat) (l : LaunchSlot) (write : Bool) : List Nat × State :=
  (l.regions.filter (fun r => r.host && (if write then r.writes else r.reads))).foldl (fun acc r =>
    let x := hullLines f write ((r.hi - r.lo) / 4096 + 2) r.lo r.hi acc.2
    (acc.1 ++ x.1, x.2)) ([], s)

/-- CWB at system scope of the lines that a writer's HOST regions overlap (R314). -/
def writerClean (s : State) (f : Nat) (l : LaunchSlot) : State :=
  let r := hostLines s f l true
  (r.1.eraseDups).foldl (fun st ln => (List.range 4).foldl (fun x i => cleanReq x (256 * ln + 64 * i) true) st) r.2

/-- Every copy of a line in the package goes (R314): merged, written to memory, dropped from every L1 and L2. -/
def dropEverywhere (s : State) (line : Nat) : State :=
  let s1 := homeDropLine s line
  let s2 := s1.coreKeys.foldl (fun st k => dropL1Line st k line) s1
  (List.range 4).foldl (fun st d => (dropCopyLine st d line).modDie d (fun x => { x with
    lines := x.lines.filter (fun q => q.line != line) })) s2

/-- The cleaning before a reader's first cohort (R314). -/
def readerClean (s : State) (f : Nat) (l : LaunchSlot) : State :=
  let r := hostLines s f l false
  (r.1.eraseDups).foldl dropEverywhere r.2

/-- What the end of a launch frees: its range entries (R178) and its queue bindings. -/
def freeLaunch (s : State) (f idx : Nat) : State :=
  let s1 := modLaunch s f idx (fun x => { x with ranges := [], relaunch := [] })
  let s2 := (List.range 4).foldl (fun st d => st.modDie d (fun x => { x with
    rangeUsed := x.rangeUsed.filter (fun p => p != (f, idx))
    rangeReqs := x.rangeReqs.filter (fun q => match q with
      | .init g l _ _ _ _ => g != f || l != idx
      | .grab _ _ _ _ _ _ => true) })) s1
  s2.clusters.foldl (fun st p => if p.2.queues.any (fun b => b.func == f && b.launch == idx) then
    st.modCluster p.1 (fun c => { c with queues := c.queues.filter (fun b => !(b.func == f && b.launch == idx)) }) else st) s2

/-- LAUNCH_COMPLETE (R210): every unit has completed and every context has ended. -/
def execLaunchComplete (f idx : Nat) (s : State) : Host.Outcome State Fault Refusal :=
  match launchOf s f idx with
  | none => notNow "LAUNCH_COMPLETE"
  | some l =>
    if l.obj.ended || l.obj.cancelAt.isSome || !launchFinished s f idx l then
      notNow "LAUNCH_COMPLETE"
    else
      let s1 := freeLaunch (writerClean s f l) f idx
      let s2 := countChild s1 f .graph l.obj.parent
      done (acceptRest (endObj s2 f .launch idx false) f)

/-- The copy engine reads the lines of a hint into the die's L2, in ascending address; a translation fault ends the hint (R218). -/
def fillHint (cluster f : Nat) : Nat → Nat → State → State
  | 0, _, s => s
  | n + 1, va, s =>
    match translate s (clusterTlbs cluster) f va .read with
    | (.flt _, s1) => s1
    | (.ok t, s1) =>
      fillHint cluster f n (va + 256) (if t.unc then s1
        else (List.range 4).foldl (fun x j =>
          let a := t.pa / 256 * 256 + 64 * j
          match viewErr x (dieOfCluster cluster) a t.key with
          | (some _, x1) => x1
          | (none, x1) => (engineRead x1 (dieOfCluster cluster) f a 64 t.key false).2) s1)

/-- PREFETCH_HINT_FILL (R218): the cluster's oldest hint is filled. -/
def execPrefetchHintFill (cluster : Nat) (s : State) : Host.Outcome State Fault Refusal :=
  match (s.cluster cluster).hints with
  | [] => notNow "PREFETCH_HINT_FILL"
  | h :: rest => done (fillHint cluster h.func h.lines h.va (s.modCluster cluster (fun c => { c with hints := rest })))

end Sys2Proof.Machine
end

