-- ==== Sys2Proof/Machine/Atomics.lean ====
section
/-! DEFINITION. Atomics and update contributions (R117 to R123, R247, R285, R292, R293). -/

namespace Sys2Proof.Machine

/-- The first or second operand of a lane (R117). -/
def operandOf (sz : BitVec 3) (c : Cap) (l : Nat) (second : Bool) : DWord :=
  if rmwBytes sz = 8 then
    let k := if second then 2 else 0
    c.datum l k ||| (c.datum l (k + 1) <<< 32)
  else c.datum l (if second then 1 else 0)

/-- New value of a read-modify-write from the old value and the two operands; none where nothing is written. -/
abbrev RmwFn := DWord → DWord → DWord → Option DWord

/-- ATOM's new values (R119). -/
def atomFn (op : Nat) (sz : BitVec 3) : RmwFn := fun old v b => some (atomNew op sz old v b)

/-- ATOMF's new values (R120): the operators of tags add.f32, min.f32 and max.f32. -/
def atomfFn (tag : Nat) : RmwFn := fun old v _ => some (combine tag old v)

/-- CAS (R121): bitwise comparison. -/
def casFn : RmwFn := fun old v b => if old = v then some b else none

/-- One lane's read-modify-write at the element's home (R117, R247, R292): its old value. -/
def rmwHome (fn : RmwFn) (o : MOps) (c : Cap) (u : Unit_) (s : State) (x : LaneT) : DWord × State :=
  let n := rmwBytes o.sz
  let b : Sender := .thread (c.uid s) (laneThread s c.agent x.lane)
  let d := dieOfCore u.core
  let pa := x.t.pa
  let s1 := performWith s (fun q => (q.by_ == b && sameSlice s q.pa pa) || isRegister u.core (secOf pa) q)
  let s2 := useHome s1 u.func pa
  let r := homeRead s2 pa n x.t.key
  let old := BitVec.ofNat 64 (leNat r.1)
  let seen := predsOf r.2 pa n
  match fn old (operandOf o.sz c x.lane false) (operandOf o.sz c x.lane true) with
  | some w =>
    let s3 := dropL1Line (performFor r.2 b pa x.t.key (leBytes n w.toNat)
      (unionIds (sendPreds r.2 d (ownOf r.2 b)) seen)) u.core (lineOf pa)
    (old, if o.ord = .acq ∨ o.ord = .sc then catchUp s3 d seen else noteSeen s3 (c.uid s) (laneThread s c.agent x.lane) seen)
  | none => (old, catchUp (touchHome (dropL1Line r.2 u.core (lineOf pa)) pa) d seen)

/-- One lane's read-modify-write in X (R117). -/
def rmwX (fn : RmwFn) (o : MOps) (c : Cap) (u : Unit_) (s : State) (p : Nat × Nat) : DWord × State :=
  let n := rmwBytes o.sz
  let old := BitVec.ofNat 64 (leNat (readX s u n p.2))
  match fn old (operandOf o.sz c p.1 false) (operandOf o.sz c p.1 true) with
  | some w => (old, storeX s u.core (u.xoff + p.2) (leBytes n w.toNat))
  | none => (old, s)

/-- Register `j` of an old value. -/
def oldWord (v : DWord) (j : Nat) : Word := if j = 0 then v.setWidth 32 else (v >>> 32).setWidth 32

/-- X atomics trap when an element lies in an entry of the seal table (R225). -/
def xAtomGuard (s : State) (u : Unit_) (c : Cap) (n : Nat) (l : List (Nat × Nat)) (r : Res) : Res :=
  match l.find? (fun p => sealHit s (.x u.core) (u.xoff + p.2) n anySeal) with
  | some p => .trap s 0x0B p.2 (laneMask c.active)
  | none => r

/-- Run one lane's step over lanes in ascending order, collecting the old values. -/
def runLanes {α : Type} (f : State → α → DWord × State) (lane : α → Nat) (l : List α) (s : State) : List (Nat × (Nat → Word)) × State :=
  l.foldl (fun (x : List (Nat × (Nat → Word)) × State) a =>
    let r := f x.2 a
    (x.1 ++ [(lane a, oldWord r.1)], r.2)) ([], s)

/-- A returning atomic (R117). -/
def atomic (fn : RmwFn) (o : MOps) (c : Cap) (s : State) : Res :=
  withUnit c s (fun u => withAccess [0, 1] (some (rmwBytes o.sz)) false o c s (fun a =>
    let scope := o.scope.toNat
    let before (st : State) : State := writeBefore st o.ord (c.uid s) u.core (activeThreads s c) scope
    let regs := rmwBytes o.sz / 4
    if a.reg.space = 1 then
      xAtomGuard s u c (rmwBytes o.sz) a.lanes
        (let bad := badXLanes s u (rmwBytes o.sz) a.lanes
         let r := runLanes (rmwX fn o c u) Prod.fst (a.lanes.filter (fun p => !bad.contains p)) (before s)
         endLate u (fun i => [i]) bad
           (reportLocal (putLoads (orderAfter r.2 o.ord u.core scope) c o.d.toNat regs r.1 a.masked) u c 1 bad))
    else
      withXlate u .write a.lanes s (fun l s1 =>
        let w := answers (fun st x => homeErr st x.t.pa x.t.key) l (before s1)
        let r := runLanes (rmwHome fn o c u) LaneT.lane w.1.good w.2
        let s3 := orderAfter r.2 o.ord u.core scope
        let s4 := if l = [] then s3 else countFrames s3 (dieOfCore u.core) (l.map (fun x => x.t.pa))
        endReturning u c (fun i => [i]) w.1.errs (putLoads s4 c o.d.toNat regs r.1 a.masked))))

/-- RED (R122): the lanes are sent in ascending order, and performed in it where two name one element (R117).
[DEDUCED, log 27] -/
def reduce (op : Nat) (o : MOps) (c : Cap) (s : State) : Res :=
  withUnit c s (fun u => withAccess [0, 1] (some (rmwBytes o.sz)) false o c s (fun a =>
    if a.reg.space = 1 then
      xAtomGuard s u c (rmwBytes o.sz) a.lanes
        (let bad := badXLanes s u (rmwBytes o.sz) a.lanes
         let r := runLanes (rmwX (atomFn op o.sz) o c u) Prod.fst (a.lanes.filter (fun p => !bad.contains p))
           (writeBefore s o.ord (c.uid s) u.core (activeThreads s c) o.scope.toNat)
         .ok (reportLocal (setBounds r.2 c a.masked) u c 6 bad))
    else
      withXlate u .write a.lanes s (fun l s1 =>
        let s2 := sendBefore s1 o.ord (c.uid s) u.core (activeThreads s c) o.scope.toNat
        let s3 := sendLanes s2 c u o a.foot (fun x => .red op o.sz (operandOf o.sz c x.lane false)) l
        let s4 := if l = [] then s3 else countFrames s3 (dieOfCore u.core) (l.map (fun x => x.t.pa))
        .ok (setBounds s4 c a.masked))))

/-- Combine a lane's value into a partial of its core, with the writes that the contribution follows and the function that makes it
(R285, R295). -/
def addToPartial (s : State) (core f : Nat) (b : Sender) (pa : Nat) (p : Partial) (v : DWord) : State :=
  let q := p.contribute (pa % 64 / tagSize p.tag) v
  setPartial s core (secOf pa) (some { q with
    preds := unionIds p.preds (sendPreds s (dieOfCore core) (ownOf s b)), funcs := unionIds p.funcs [f] })

/-- The value that a lane of UPD contributes (R123). -/
def updVal (tag : Nat) (c : Cap) (x : LaneT) : DWord :=
  if tag = 1 then c.datum x.lane 0 ||| (c.datum x.lane 1 <<< 32) else c.datum x.lane 0

/-- One lane of UPD to a sector that the device homes (R123, R285): it joins the core's partial, or starts one and registers it.
[DEDUCED, log 55] -/
def updLane (tag : Nat) (c : Cap) (u : Unit_) (foot : Nat × Nat) (s : State) (x : LaneT) : State :=
  let pa := x.t.pa
  let sec := secOf pa
  let b : Sender := .thread (c.uid s) (laneThread s c.agent x.lane)
  let v := updVal tag c x
  let s1 := performWith s (fun q => q.by_ == b && secOf q.pa == sec && !isRegister u.core sec q)
  let t := laneThread s c.agent x.lane
  let fresh (st : State) : State :=
    noteCover (send (addToPartial (l1Room (dropL1Sec st u.core sec) u.core (sec / 4)) u.core u.func b pa ⟨tag, [], [], [], false⟩ v) b u.func
      u.core (quadOf c.agent) pa x.va x.t.key (c.pc.toNat, c.seq, foot) (.register tag u.core) [] false) (c.uid s) t st.nextSeq
  let covered (st : State) : State := (st.sent.filter (isRegister u.core sec)).foldl (fun q r => noteCover q (c.uid s) t r.id) st
  match partialOf s1 u.core sec with
  | some p =>
    if p.tag = tag then covered (addToPartial s1 u.core u.func b pa p v)
    else fresh (setPartial (merge (performWith s1 (isRegister u.core sec)) sec) u.core sec none)
  | none => fresh s1

/-- UPD (R123): lanes on uncached pages and on host-homed lines are sent as RED's are (R292, R293). -/
def update (tag : Nat) (o : MOps) (c : Cap) (s : State) : Res :=
  withUnit c s (fun u => withAccess [0] (some (tagSize tag)) false o c s (fun a =>
    withXlate u .write a.lanes s (fun l s1 =>
      let away (x : LaneT) : Bool := x.t.unc || homeOf s x.t.pa == 4
      let near := l.filter (fun x => !away x)
      let s0 := sendBefore s1 o.ord (c.uid s) u.core (activeThreads s c) o.scope.toNat
      let s2 := writeBefore s0 o.ord (c.uid s) u.core (near.map (fun x => laneThread s c.agent x.lane)) o.scope.toNat
      let s3 := near.foldl (updLane tag c u a.foot) s2
      let s4 := sendLanes s3 c u o a.foot (fun x => .upd tag (updVal tag c x)) (l.filter away)
      let s5 := if l = [] then s4 else countFrames s4 (dieOfCore u.core) (l.map (fun x => x.t.pa))
      .ok (setBounds s5 c a.masked))))

/-- ATOM.add (R119). -/
def bodyAtomAdd (o : MOps) (c : Cap) (s : State) : Res := atomic (atomFn 0 o.sz) o c s

def execAtomAdd (o : MOps) (s : State) : Host.Outcome State Fault Refusal := issue (.atomAdd o) (bodyAtomAdd o) s

/-- ATOM.and (R119). -/
def bodyAtomAnd (o : MOps) (c : Cap) (s : State) : Res := atomic (atomFn 1 o.sz) o c s

def execAtomAnd (o : MOps) (s : State) : Host.Outcome State Fault Refusal := issue (.atomAnd o) (bodyAtomAnd o) s

/-- ATOM.or (R119). -/
def bodyAtomOr (o : MOps) (c : Cap) (s : State) : Res := atomic (atomFn 2 o.sz) o c s

def execAtomOr (o : MOps) (s : State) : Host.Outcome State Fault Refusal := issue (.atomOr o) (bodyAtomOr o) s

/-- ATOM.xor (R119). -/
def bodyAtomXor (o : MOps) (c : Cap) (s : State) : Res := atomic (atomFn 3 o.sz) o c s

def execAtomXor (o : MOps) (s : State) : Host.Outcome State Fault Refusal := issue (.atomXor o) (bodyAtomXor o) s

/-- ATOM.min (R119). -/
def bodyAtomMin (o : MOps) (c : Cap) (s : State) : Res := atomic (atomFn 4 o.sz) o c s

def execAtomMin (o : MOps) (s : State) : Host.Outcome State Fault Refusal := issue (.atomMin o) (bodyAtomMin o) s

/-- ATOM.max (R119). -/
def bodyAtomMax (o : MOps) (c : Cap) (s : State) : Res := atomic (atomFn 5 o.sz) o c s

def execAtomMax (o : MOps) (s : State) : Host.Outcome State Fault Refusal := issue (.atomMax o) (bodyAtomMax o) s

/-- ATOM.exch (R119). -/
def bodyAtomExch (o : MOps) (c : Cap) (s : State) : Res := atomic (atomFn 6 o.sz) o c s

def execAtomExch (o : MOps) (s : State) : Host.Outcome State Fault Refusal := issue (.atomExch o) (bodyAtomExch o) s

/-- ATOM.incw (R119). -/
def bodyAtomIncw (o : MOps) (c : Cap) (s : State) : Res := atomic (atomFn 7 o.sz) o c s

def execAtomIncw (o : MOps) (s : State) : Host.Outcome State Fault Refusal := issue (.atomIncw o) (bodyAtomIncw o) s

/-- ATOM.decw (R119). -/
def bodyAtomDecw (o : MOps) (c : Cap) (s : State) : Res := atomic (atomFn 8 o.sz) o c s

def execAtomDecw (o : MOps) (s : State) : Host.Outcome State Fault Refusal := issue (.atomDecw o) (bodyAtomDecw o) s

/-- ATOM.addb (R119). -/
def bodyAtomAddb (o : MOps) (c : Cap) (s : State) : Res := atomic (atomFn 9 o.sz) o c s

def execAtomAddb (o : MOps) (s : State) : Host.Outcome State Fault Refusal := issue (.atomAddb o) (bodyAtomAddb o) s

/-- ATOMF.add (R120). -/
def bodyAtomfAdd (o : MOps) (c : Cap) (s : State) : Res := atomic (atomfFn 2) o c s

def execAtomfAdd (o : MOps) (s : State) : Host.Outcome State Fault Refusal := issue (.atomfAdd o) (bodyAtomfAdd o) s

/-- ATOMF.min (R120). -/
def bodyAtomfMin (o : MOps) (c : Cap) (s : State) : Res := atomic (atomfFn 7) o c s

def execAtomfMin (o : MOps) (s : State) : Host.Outcome State Fault Refusal := issue (.atomfMin o) (bodyAtomfMin o) s

/-- ATOMF.max (R120). -/
def bodyAtomfMax (o : MOps) (c : Cap) (s : State) : Res := atomic (atomfFn 8) o c s

def execAtomfMax (o : MOps) (s : State) : Host.Outcome State Fault Refusal := issue (.atomfMax o) (bodyAtomfMax o) s

/-- CAS (R121). -/
def bodyCas (o : MOps) (c : Cap) (s : State) : Res := atomic casFn o c s

def execCas (o : MOps) (s : State) : Host.Outcome State Fault Refusal := issue (.cas o) (bodyCas o) s

/-- RED.add (R122). -/
def bodyRedAdd (o : MOps) (c : Cap) (s : State) : Res := reduce 0 o c s

def execRedAdd (o : MOps) (s : State) : Host.Outcome State Fault Refusal := issue (.redAdd o) (bodyRedAdd o) s

/-- RED.and (R122). -/
def bodyRedAnd (o : MOps) (c : Cap) (s : State) : Res := reduce 1 o c s

def execRedAnd (o : MOps) (s : State) : Host.Outcome State Fault Refusal := issue (.redAnd o) (bodyRedAnd o) s

/-- RED.or (R122). -/
def bodyRedOr (o : MOps) (c : Cap) (s : State) : Res := reduce 2 o c s

def execRedOr (o : MOps) (s : State) : Host.Outcome State Fault Refusal := issue (.redOr o) (bodyRedOr o) s

/-- RED.xor (R122). -/
def bodyRedXor (o : MOps) (c : Cap) (s : State) : Res := reduce 3 o c s

def execRedXor (o : MOps) (s : State) : Host.Outcome State Fault Refusal := issue (.redXor o) (bodyRedXor o) s

/-- RED.min (R122). -/
def bodyRedMin (o : MOps) (c : Cap) (s : State) : Res := reduce 4 o c s

def execRedMin (o : MOps) (s : State) : Host.Outcome State Fault Refusal := issue (.redMin o) (bodyRedMin o) s

/-- RED.max (R122). -/
def bodyRedMax (o : MOps) (c : Cap) (s : State) : Res := reduce 5 o c s

def execRedMax (o : MOps) (s : State) : Host.Outcome State Fault Refusal := issue (.redMax o) (bodyRedMax o) s

/-- UPD under tag 0 (R123). -/
def bodyUpdAddI32 (o : MOps) (c : Cap) (s : State) : Res := update 0 o c s

def execUpdAddI32 (o : MOps) (s : State) : Host.Outcome State Fault Refusal := issue (.updAddI32 o) (bodyUpdAddI32 o) s

/-- UPD under tag 1 (R123). -/
def bodyUpdAddI64 (o : MOps) (c : Cap) (s : State) : Res := update 1 o c s

def execUpdAddI64 (o : MOps) (s : State) : Host.Outcome State Fault Refusal := issue (.updAddI64 o) (bodyUpdAddI64 o) s

/-- UPD under tag 2 (R123). -/
def bodyUpdAddF32 (o : MOps) (c : Cap) (s : State) : Res := update 2 o c s

def execUpdAddF32 (o : MOps) (s : State) : Host.Outcome State Fault Refusal := issue (.updAddF32 o) (bodyUpdAddF32 o) s

/-- UPD under tag 3 (R123). -/
def bodyUpdMinI32 (o : MOps) (c : Cap) (s : State) : Res := update 3 o c s

def execUpdMinI32 (o : MOps) (s : State) : Host.Outcome State Fault Refusal := issue (.updMinI32 o) (bodyUpdMinI32 o) s

/-- UPD under tag 4 (R123). -/
def bodyUpdMaxI32 (o : MOps) (c : Cap) (s : State) : Res := update 4 o c s

def execUpdMaxI32 (o : MOps) (s : State) : Host.Outcome State Fault Refusal := issue (.updMaxI32 o) (bodyUpdMaxI32 o) s

/-- UPD under tag 5 (R123). -/
def bodyUpdMinN32 (o : MOps) (c : Cap) (s : State) : Res := update 5 o c s

def execUpdMinN32 (o : MOps) (s : State) : Host.Outcome State Fault Refusal := issue (.updMinN32 o) (bodyUpdMinN32 o) s

/-- UPD under tag 6 (R123). -/
def bodyUpdMaxN32 (o : MOps) (c : Cap) (s : State) : Res := update 6 o c s

def execUpdMaxN32 (o : MOps) (s : State) : Host.Outcome State Fault Refusal := issue (.updMaxN32 o) (bodyUpdMaxN32 o) s

/-- UPD under tag 7 (R123). -/
def bodyUpdMinF32 (o : MOps) (c : Cap) (s : State) : Res := update 7 o c s

def execUpdMinF32 (o : MOps) (s : State) : Host.Outcome State Fault Refusal := issue (.updMinF32 o) (bodyUpdMinF32 o) s

/-- UPD under tag 8 (R123). -/
def bodyUpdMaxF32 (o : MOps) (c : Cap) (s : State) : Res := update 8 o c s

def execUpdMaxF32 (o : MOps) (s : State) : Host.Outcome State Fault Refusal := issue (.updMaxF32 o) (bodyUpdMaxF32 o) s

/-- UPD under tag 9 (R123). -/
def bodyUpdOrB32 (o : MOps) (c : Cap) (s : State) : Res := update 9 o c s

def execUpdOrB32 (o : MOps) (s : State) : Host.Outcome State Fault Refusal := issue (.updOrB32 o) (bodyUpdOrB32 o) s

/-- UPD under tag 10 (R123). -/
def bodyUpdXorB32 (o : MOps) (c : Cap) (s : State) : Res := update 10 o c s

def execUpdXorB32 (o : MOps) (s : State) : Host.Outcome State Fault Refusal := issue (.updXorB32 o) (bodyUpdXorB32 o) s

/-- UPD under tag 11 (R123). -/
def bodyUpdAndB32 (o : MOps) (c : Cap) (s : State) : Res := update 11 o c s

def execUpdAndB32 (o : MOps) (s : State) : Host.Outcome State Fault Refusal := issue (.updAndB32 o) (bodyUpdAndB32 o) s

end Sys2Proof.Machine
end

