-- ==== Sys2Proof/Machine/Control.lean ====
section
/-! DEFINITION. Control transfer (R77 to R84). -/

namespace Sys2Proof.Machine

def privOf (s : State) (a : Agent) : Bool :=
  match frontOf s a with
  | some f => f.priv
  | none => false

/-- Lanes that leave a group (R77, R83). -/
def dropLanes (g : Group) (lanes : List Nat) : Group :=
  { g with lanes := lanes.foldl (fun m l => NatMap.set none m l none) g.lanes }

/-- Where a transfer takes each remaining lane, and with which intervals it files (R77). -/
structure Path where
  lane : Nat
  pc : Pc
  iv : NatMap Iv
deriving DecidableEq, Repr

/-- The distinct keys of a list, ascending. -/
def distinctAsc (l : List Nat) : List Nat := l.foldl (fun acc n => insertAsc n acc) []

/-- File the lanes of a group by next program counter, ascending, and by warp when asked (R77, R82). -/
def fileAll (s : State) (c : Cap) (byWarp : Bool) (ps : List Path) : State :=
  match c.agent with
  | .quartz _ _ => s
  | .group k sl =>
    let uid := c.uid s
    let key (p : Path) : BinKey := ⟨p.pc, if byWarp then some (laneThread s c.agent p.lane / 32) else none⟩
    let s1 := s.setGroup k sl none
    let code (b : BinKey) : Nat := b.pc.toNat * 64 + (match b.warp with | some w => w + 1 | none => 0)
    (distinctAsc (ps.map (fun p => code (key p)))).foldl (fun st n =>
      match ps.filter (fun p => code (key p) == n) with
      | [] => st
      | p :: r => fileThreads st uid (key p) ((p :: r).map (fun q => laneThread s c.agent q.lane)) p.iv) s1

/-- A control transfer of a vector group (R77). `joined` gives the intervals of a group that stays whole. In privileged
mode several next program counters are a nested trap (R172). -/
def transferV (c : Cap) (exits : List Nat) (ps : List Path) (joined : NatMap Iv) (s : State) : Res :=
  match c.agent with
  | .quartz _ _ => .ok s
  | .group k sl =>
    match ps with
    | [] => .moved (s.setGroup k sl none)
    | p :: r =>
      if r.all (fun q => q.pc == p.pc) then
        .moved (s.modGroup k sl (fun g => { dropLanes g exits with iv := joined, front := { g.front with pc := p.pc } }))
      else if privOf s c.agent then .dead s 1
      else .moved (fileAll s c false ps)

/-- A transfer of a Quartz context. -/
def transferQ (c : Cap) (pc : Pc) (s : State) : Res := .moved (modFront s c.agent (fun f => { f with pc := pc }))

def groupIv (s : State) (c : Cap) : NatMap Iv :=
  match groupOf s c.agent with
  | some g => g.iv
  | none => []

/-- Target of a format B word (R34). -/
def targetB (c : Cap) (o : BOps) : Pc := c.pc + 8 * o.off.signExtend 57

/-- A transfer in which each present lane chooses its program counter, with the group's intervals. -/
def transfer (c : Cap) (next : Nat → Pc) (s : State) : Res :=
  if c.kind = .quartz then transferQ c (next 0) s
  else transferV c [] (c.present.map (fun l => ⟨l, next l, groupIv s c⟩)) (groupIv s c) s

/-- BRA (R78). -/
def bodyBra (o : BOps) (c : Cap) (s : State) : Res := transfer c (fun _ => targetB c o) s

def execBra (o : BOps) (s : State) : Host.Outcome State Fault Refusal := issue (.bra o) (bodyBra o) s

/-- A side's intervals (R79). -/
def sideIv (iv : NatMap Iv) (o : BOps) (a b : Iv) (cond : BitVec 4) : NatMap Iv :=
  let r := refine cond a b
  if o.s1 = o.s2 then iv
  else
    let put (m : NatMap Iv) (src : Src) (v : Iv) : NatMap Iv :=
      match src with
      | .reg f => if 480 ≤ f.toNat then ivSet m (f.toNat - 480) v else m
      | _ => m
    put (put iv o.s1 r.1) o.s2 r.2

/-- BRC (R78, R79). -/
def bodyBrc (o : BOps) (c : Cap) (s : State) : Res :=
  if c.kind = .quartz then
    transferQ c (if intCond o.cond 64 (c.a1 0) (c.a2 0) then targetB c o else c.pc + 8) s
  else
    let taken (l : Nat) : Bool := intCond o.cond 32 (c.a1 l) (c.a2 l)
    let iv := groupIv s c
    let yes := sideIv iv o c.i1 c.i2 o.cond
    let no := sideIv iv o c.i1 c.i2 (negCond o.cond)
    let ps := c.present.map (fun l =>
      if taken l then (⟨l, targetB c o, yes⟩ : Path) else ⟨l, c.pc + 8, no⟩)
    let joined := if c.present.all taken then yes else if c.present.any taken then ivHull yes no else no
    transferV c [] ps joined s

def execBrc (o : BOps) (s : State) : Host.Outcome State Fault Refusal := issue (.brc o) (bodyBrc o) s

/-- BRP (R78). -/
def bodyBrp (o : BOps) (c : Cap) (s : State) : Res :=
  transfer c (fun l => if readP s c o.s1 l != (o.cond == 1) then targetB c o else c.pc + 8) s

def execBrp (o : BOps) (s : State) : Host.Outcome State Fault Refusal := issue (.brp o) (bodyBrp o) s

/-- The lanes whose target is not a multiple of 8 raise the branch-target trap (R84). -/
def checkTargets (lanes : List Nat) (target : Nat → DWord) (s : State) (r : Res) : Res :=
  let bad := lanes.filter (fun l => bits (target l) 0 3 != 0)
  if bad = [] then r else .trap s 9 (target (bad.headD 0)).toNat (laneMask bad)

/-- Target of a JMPX lane (R80). [DEDUCED, log 30] -/
def jmpTarget (o : AOps) (c : Cap) (l : Nat) : DWord :=
  let offset (v : DWord) : DWord := c.pc.setWidth 64 + v
  match c.kind, o.s1 with
  | .vector, .sreg _ => c.a1 l
  | .vector, _ => offset ((c.a1 l).setWidth 32 |>.signExtend 64)
  | .quartz, .lit _ => offset (c.a1 l)
  | .quartz, _ => c.a1 l

/-- JMPX (R80). -/
def bodyJmpx (o : AOps) (c : Cap) (s : State) : Res :=
  checkTargets c.active (jmpTarget o c) s
    (transfer c (fun l => if c.active.contains l then (jmpTarget o c l).setWidth 57 else c.pc + 8) s)

def execJmpx (o : AOps) (s : State) : Host.Outcome State Fault Refusal := issue (.jmpx o) (bodyJmpx o) s

/-- CALL (R81): PC + 8 into the link register of every present lane. -/
def bodyCall (o : BOps) (c : Cap) (s : State) : Res :=
  let link : DWord := (c.pc + 8).setWidth 64
  let s1 := match c.kind, o.s1 with
    | .quartz, .reg f => writeQ s c f.toNat link
    | .quartz, .sreg f => writeQ s c f.toNat link
    | .vector, .reg f => writePair s c f.toNat (fun _ => link)
    | _, _ => s
  transfer c (fun _ => targetB c o) s1

def execCall (o : BOps) (s : State) : Host.Outcome State Fault Refusal := issue (.call o) (bodyCall o) s

/-- RET (R81). -/
def bodyRet (_o : AOps) (c : Cap) (s : State) : Res :=
  checkTargets c.active c.a1 s
    (transfer c (fun l => if c.active.contains l then (c.a1 l).setWidth 57 else c.pc + 8) s)

def execRet (o : AOps) (s : State) : Host.Outcome State Fault Refusal := issue (.ret o) (bodyRet o) s

/-- REFORM (R82): every present thread is filed at PC + 8. -/
def bodyReform (o : AOps) (c : Cap) (s : State) : Res :=
  .moved (fileAll s c (o.x == 1) (c.present.map (fun l => ⟨l, c.pc + 8, groupIv s c⟩)))

def execReform (o : AOps) (s : State) : Host.Outcome State Fault Refusal := issue (.reform o) (bodyReform o) s

/-- What the exit of threads sets off: the barrier counts them as arrived (R135), a contained unit that ends performs its
buffer (R359), and queues may close (R150). -/
def afterExit (s : State) (uid : Nat) : State :=
  let s1 := barCheck s uid
  match s1.unit? uid with
  | none => s1
  | some u =>
    if u.live = [] then
      closeAndServe (if u.contain then performBuffer s1 uid else s1) u.func u.launch (u.core / 4)
    else s1

/-- EXIT (R83). -/
def bodyExit (_o : AOps) (c : Cap) (s : State) : Res :=
  match c.agent with
  | .quartz cl x => .moved (s.modCtx cl x (fun q => { q with exiting := true }))
  | .group _ _ =>
    let uid := c.uid s
    let s1 := s.modUnit uid (fun u =>
      c.active.foldl (fun u l => u.modThread (laneThread s c.agent l) (fun t => { t with exited := true })) u)
    let rest := c.present.filter (fun l => !c.active.contains l)
    match transferV c c.active (rest.map (fun l => ⟨l, c.pc + 8, groupIv s c⟩)) (groupIv s c) s1 with
    | .moved s2 => .moved (if c.active = [] then s2 else afterExit s2 uid)
    | r => r

def execExit (o : AOps) (s : State) : Host.Outcome State Fault Refusal := issue (.exit o) (bodyExit o) s

end Sys2Proof.Machine
end

