-- ==== Sys2Proof/Machine/Approx.lean ====
section
/-! DEFINITION. The approximations of R96 and R97. Each is one fixed function that the spec bounds and does not state: a
free candidate of Config is kept where it lies inside the bound; elsewhere the correctly rounded value stands. Real
values are integers scaled by 2^256, with errors far below the bounds. -/

namespace Sys2Proof.Machine

def piFix : Int := 0x3243f6a8885a308d313198a2e03707344a4093822299f31d0082efa98ec4e6c89
def ln2Fix : Int := 0xb17217f7d1cf79abc9e3b39803f2f6af40f343267298b62d8a0d175b8baafa2b

/-- x * y of two scaled values. -/
def mulFix (x y : Int) : Int := x * y / 2 ^ 256

/-- Terms x^n / n! and on, alternating in sign when `neg`, two powers apart when `step` is 2. -/
def taylor (y : Int) (step : Nat) : Nat → Nat → Int → Int
  | 0, _, _ => 0
  | k + 1, n, t =>
    let d : Int := if step = 2 then ((n + 1) * (n + 2) : Nat) else ((n + 1 : Nat) : Int)
    t + taylor y step k (n + step) (mulFix t y / d)

/-- The scaled value of a finite value, rounded down. -/
def toFix (neg : Bool) (m : Nat) (e : Int) : Int :=
  let v : Int := if 0 ≤ e + 256 then ((m * 2 ^ (e + 256).toNat : Nat) : Int) else ((m / 2 ^ (-(e + 256)).toNat : Nat) : Int)
  if neg then -v else v

/-- Reduce to [-pi, pi]. -/
def reducePi (x : Int) : Int :=
  let r := x % (2 * piFix)
  if piFix < r then r - 2 * piFix else r

def sinFix (x : Int) : Int := let r := reducePi x; taylor (-(mulFix r r)) 2 40 1 r
def cosFix (x : Int) : Int := let r := reducePi x; taylor (-(mulFix r r)) 2 40 0 (2 ^ 256)
/-- 2^f for f in [0, 1). -/
def exp2Fix (f : Int) : Int := taylor (mulFix f ln2Fix) 1 70 0 (2 ^ 256)

/-- The fraction bits of log2 of a scaled value in [1, 2), most significant first. -/
def log2Bits : Nat → Int → Int → Int
  | 0, _, acc => acc
  | k + 1, x, acc =>
    let y := mulFix x x
    if 2 ^ 257 ≤ y then log2Bits k (y / 2) (2 * acc + 1) else log2Bits k y (2 * acc)

/-- log2 of m * 2^e, scaled by 2^256. -/
def log2Fix (m : Nat) (e : Int) : Int :=
  let n := Nat.log2 m
  let mu : Int := ((m * 2 ^ (256 - n) : Nat) : Int)
  (e + n) * 2 ^ 256 + log2Bits 80 mu 0 * 2 ^ 176

/-- Round a scaled value, which stands for a value just beside it. -/
def roundFix (v : Int) (e : Int) : Nat := roundTo fp32 .rne (.fin (decide (v < 0)) v.natAbs (e - 256)) true

/-- |c - v * 2^(e - 256)| at most tol * 2^te, less 2^-60 of the tolerance. -/
def nearFix (c : Nat) (v e : Int) (te : Int) (tol : Nat) : Bool :=
  match decodeF fp32 c with
  | .fin n m ex =>
    let b := min (min ex (e - 256)) (te - 60)
    let d := FVal.scaled n m ex b - (if v < 0 then -1 else 1) * FVal.scaled false v.natAbs (e - 256) b
    let t := FVal.scaled false tol te b
    decide (((d.natAbs : Nat) : Int) ≤ t - t / 2 ^ 60)
  | _ => false

/-- Exponent of the ulp of a magnitude whose binade exponent is k, in FP32 (R96). -/
def ulpExp (k : Int) : Int := max k (-126) - 23

/-- Binade exponent of a nonzero scaled value. -/
def binadeFix (v e : Int) : Int := (Nat.log2 v.natAbs : Int) + e - 256

/-- Keep the candidate inside the bound, else the fallback. [DESIGN CHOICE, log 17] -/
def pickApprox (cand : Word) (inside : Nat → Bool) (fallback : Nat) : Nat :=
  if inside cand.toNat then cand.toNat else fallback

def isPow2 (m : Nat) : Bool := m == 2 ^ Nat.log2 m

/-- FRCP (R96). [DESIGN CHOICE, log 17; DEDUCED, log 18] -/
def frcpP (a : Nat) : Nat :=
  match decodeF fp32 a with
  | .nan => fp32.nanPat
  | .inf n => fp32.signPat n
  | .fin n m e =>
    if m = 0 then fp32.signPat n + fp32.infPat
    else
      let p := Nat.log2 m
      if isPow2 m then roundTo fp32 .rne (.fin n 1 (-(e + p)))
      else
        let fb := roundTo fp32 .rne (.fin n (2 ^ 100 / m) (-(e + 100))) true
        let u := ulpExp (-(e + p) - 1)
        let near (c : Nat) : Bool :=
          match decodeF fp32 c with
          | .fin cn cm ce =>
            -- |c * a - 1| <= 2^u * |a|
            let b := min (min (ce + e) 0) (u + e)
            (cn == n) && decide (((FVal.scaled false (cm * m) (ce + e) b - FVal.scaled false 1 0 b).natAbs : Int)
              ≤ FVal.scaled false m (u + e) b)
          | _ => false
        if (decodeF fp32 fb) = .inf n then fb else pickApprox (Config.frcp (BitVec.ofNat 32 a)) near fb

/-- FRSQ (R96). [DESIGN CHOICE, log 17] -/
def frsqP (a : Nat) : Nat :=
  match decodeF fp32 a with
  | .nan => fp32.nanPat
  | .inf n => if n then fp32.nanPat else 0
  | .fin n m e =>
    if m = 0 then fp32.signPat n + fp32.infPat
    else if n then fp32.nanPat
    else
      let m2 := if e % 2 = 0 then m else 2 * m
      let e2 := if e % 2 = 0 then e else e - 1
      let fb := roundTo fp32 .rne (.fin false (isqrt (2 ^ 200 / m2)) (-(e2 / 2) - 100)) true
      let l := e + (Nat.log2 m : Int)
      let k := if isPow2 m then (-l) / 2 else (-l - 1) / 2
      let u := ulpExp k
      let near (c : Nat) : Bool :=
        match decodeF fp32 c with
        | .fin cn cm ce =>
          let b := min ce u
          let lo := FVal.scaled false cm ce b - FVal.scaled false 1 u b
          let hi := FVal.scaled false cm ce b + FVal.scaled false 1 u b
          -- (c - u)^2 a <= 1 <= (c + u)^2 a, at scale 2^(2b + e)
          let s := 2 * b + e
          let leOne (v : Int) : Bool := if 0 ≤ s then decide (v * v * m * 2 ^ s.toNat ≤ 1) else decide (v * v * m ≤ 2 ^ (-s).toNat)
          let geOne (v : Int) : Bool := if 0 ≤ s then decide (1 ≤ v * v * m * 2 ^ s.toNat) else decide (2 ^ (-s).toNat ≤ v * v * m)
          !cn && (decide (lo ≤ 0) || leOne lo) && geOne hi
        | _ => false
      pickApprox (Config.frsq (BitVec.ofNat 32 a)) near fb

/-- FEXP2 (R96). [DESIGN CHOICE, log 17] -/
def fexp2P (a : Nat) : Nat :=
  match decodeF fp32 a with
  | .nan => fp32.nanPat
  | .inf n => if n then 0 else fp32.infPat
  | .fin n m e =>
    let x := toFix n m e
    if 128 * 2 ^ 256 ≤ x then fp32.infPat
    else if x < -150 * 2 ^ 256 then 0
    else
      let k := x / 2 ^ 256
      let f := x % 2 ^ 256
      if f = 0 ∧ -149 ≤ k ∧ (m = 0 ∨ -256 ≤ e) then roundTo fp32 .rne (.fin false 1 k)
      else
        let v := exp2Fix f
        pickApprox (Config.fexp2 (BitVec.ofNat 32 a)) (fun c => nearFix c v k (ulpExp k) 2) (roundFix v k)

/-- FLOG2 (R96). [DESIGN CHOICE, log 17] -/
def flog2P (a : Nat) : Nat :=
  match decodeF fp32 a with
  | .nan => fp32.nanPat
  | .inf n => if n then fp32.nanPat else fp32.infPat
  | .fin n m e =>
    if m = 0 then fp32.signPat true + fp32.infPat
    else if n then fp32.nanPat
    else
      let l := e + (Nat.log2 m : Int)
      if isPow2 m then roundTo fp32 .rne (.ofInt l)
      else
        let v := log2Fix m e
        let inner := decide (l = -1) || decide (l = 0)
        let near (c : Nat) : Bool :=
          if inner then nearFix c v 0 (-22) 1 else nearFix c v 0 (ulpExp (binadeFix v 0)) 2
        pickApprox (Config.flog2 (BitVec.ofNat 32 a)) near (roundFix v 0)

/-- Does the pattern lie in [-1, 1]? -/
def inUnit (c : Nat) : Bool :=
  match decodeF fp32 c with
  | .fin _ m e => !FVal.lt false (.fin false 1 0) (.fin false m e)
  | _ => false

/-- FSIN (R96). [DESIGN CHOICE, log 17] -/
def fsinP (a : Nat) : Nat :=
  match decodeF fp32 a with
  | .nan | .inf _ => fp32.nanPat
  | .fin n m e =>
    if m = 0 then a
    else
      let v := sinFix (toFix n m e)
      pickApprox (Config.fsin (BitVec.ofNat 32 a)) (fun c => inUnit c && nearFix c v 0 (-21) 1) (roundFix v 0)

/-- FCOS (R96). [DESIGN CHOICE, log 17] -/
def fcosP (a : Nat) : Nat :=
  match decodeF fp32 a with
  | .nan | .inf _ => fp32.nanPat
  | .fin n m e =>
    if m = 0 then 127 * 2 ^ 23
    else
      let v := cosFix (toFix n m e)
      pickApprox (Config.fcos (BitVec.ofNat 32 a)) (fun c => inUnit c && nearFix c v 0 (-21) 1) (roundFix v 0)

end Sys2Proof.Machine
end

