-- ==== Sys2Proof/Machine/Vector.lean ====
section
/-! DEFINITION. Floating-point words of the vector core (R87 to R103) and the pair word (R39 to R42, R104). -/

namespace Sys2Proof.Machine

/-- RM and SAT of R91. -/
def rmOf (x : BitVec 3) : Mode := .ofRm (bits x 1 2)
def satOf (f : Fmt) (x : BitVec 3) (p : Nat) : Nat := if x.getLsbD 0 then fsatP f p else p
def lowNat (v : DWord) : Nat := uv 32 v

/-- Write an FP32 result, or a 64-bit one. -/
def writeF (c : Cap) (o : AOps) (f : Nat → Nat) (s : State) : Res :=
  .ok (writeT s c o.d.toNat .top (fun l => BitVec.ofNat 32 (f l)))
def writeF64 (c : Cap) (o : AOps) (f : Nat → Nat) (s : State) : Res :=
  .ok (writePair s c o.d.toNat (fun l => BitVec.ofNat 64 (f l)))

-- FP32 results, shared with the pair halves.
def rAdd (x : BitVec 3) (a b : DWord) : Nat := satOf fp32 x (faddP fp32 (rmOf x) (lowNat a) (lowNat b))
def rSub (x : BitVec 3) (a b : DWord) : Nat := satOf fp32 x (faddP fp32 (rmOf x) (lowNat a) (fnegP fp32 (lowNat b)))
def rMul (x : BitVec 3) (a b : DWord) : Nat := satOf fp32 x (fmulP fp32 (rmOf x) (lowNat a) (lowNat b))
def rFma (x : BitVec 3) (a b c : DWord) : Nat := satOf fp32 x (ffmaP fp32 (rmOf x) (lowNat a) (lowNat b) (lowNat c))
def rSqrt (x : BitVec 3) (a : DWord) : Nat := satOf fp32 x (fsqrtP fp32 (rmOf x) (lowNat a))

/-- The two halves of a packed operation (R98). -/
def halves (x : BitVec 3) (f : Fmt → Mode → Nat → Nat → Nat → Nat) (a b c : DWord) : Nat :=
  let fm := if x.getLsbD 2 then bf16 else fp16
  let mode : Mode := if x.getLsbD 0 then .rtz else .rne
  let one (i : Nat) : Nat :=
    let h (v : DWord) : Nat := lowNat v / 2 ^ (16 * i) % 65536
    let r := f fm mode (h a) (h b) (h c)
    if x.getLsbD 1 then fsatP fm r else r
  one 0 + 65536 * one 1
def hAdd (x : BitVec 3) (a b : DWord) : Nat := halves x (fun f m p q _ => faddP f m p q) a b 0
def hMul (x : BitVec 3) (a b : DWord) : Nat := halves x (fun f m p q _ => fmulP f m p q) a b 0
def hFma (x : BitVec 3) (a b c : DWord) : Nat := halves x (fun f m p q r => ffmaP f m p q r) a b c
def hMax (x : BitVec 3) (a b : DWord) : Nat := halves x (fun f _ p q _ => fminmax f true p q) a b 0

/-- F2I and I2F (R99). -/
def f2iVal (x : BitVec 3) (a : DWord) : Nat :=
  let lo : Int := if x.getLsbD 0 then 0 else -(2 ^ 31)
  let hi : Int := if x.getLsbD 0 then 2 ^ 32 - 1 else 2 ^ 31 - 1
  let v : Int := match decodeF fp32 (lowNat a) with
    | .nan => 0
    | .inf n => if n then lo else hi
    | .fin n m e => clampZ (roundInt (rmOf x) n m e) lo hi
  (v % 2 ^ 32).toNat
def i2fVal (x : BitVec 3) (a : DWord) : Nat :=
  roundTo fp32 (rmOf x) (.ofInt (if x.getLsbD 0 then (lowNat a : Int) else sv 32 a))

/-- F2F (R100). -/
def f2fVal (x : BitVec 3) (a : DWord) : Nat :=
  let mode : Mode := if x.getLsbD 0 then .rtz else .rne
  match (bits x 1 2).toNat with
  | 0 => roundTo fp16 mode (decodeF fp32 (lowNat a))
  | 1 => roundTo bf16 mode (decodeF fp32 (lowNat a))
  | 2 => roundTo fp32 .rne (decodeF fp16 (lowNat a % 65536))
  | _ => roundTo fp32 .rne (decodeF bf16 (lowNat a % 65536))

/-- FCLASS (R95). -/
def fclassVal (a : DWord) : Nat :=
  let p := lowNat a
  match decodeF fp32 p with
  | .nan => if p / 2 ^ 22 % 2 = 1 then 512 else 256
  | .inf n => if n then 1 else 128
  | .fin n m _ =>
    if m = 0 then (if n then 8 else 16)
    else if m < 2 ^ 23 then (if n then 4 else 32)
    else if n then 2 else 64

/-- FADD (R92). -/
def bodyFadd (o : AOps) (c : Cap) (s : State) : Res := writeF c o (fun l => rAdd o.x (c.a1 l) (c.a2 l)) s

def execFadd (o : AOps) (s : State) : Host.Outcome State Fault Refusal := issue (.fadd o) (bodyFadd o) s

/-- FSUB (R92). -/
def bodyFsub (o : AOps) (c : Cap) (s : State) : Res := writeF c o (fun l => rSub o.x (c.a1 l) (c.a2 l)) s

def execFsub (o : AOps) (s : State) : Host.Outcome State Fault Refusal := issue (.fsub o) (bodyFsub o) s

/-- FMUL (R92). -/
def bodyFmul (o : AOps) (c : Cap) (s : State) : Res := writeF c o (fun l => rMul o.x (c.a1 l) (c.a2 l)) s

def execFmul (o : AOps) (s : State) : Host.Outcome State Fault Refusal := issue (.fmul o) (bodyFmul o) s

/-- FFMA (R92). -/
def bodyFfma (o : AOps) (c : Cap) (s : State) : Res := writeF c o (fun l => rFma o.x (c.a1 l) (c.a2 l) (c.a3 l)) s

def execFfma (o : AOps) (s : State) : Host.Outcome State Fault Refusal := issue (.ffma o) (bodyFfma o) s

/-- FSQRT (R92). -/
def bodyFsqrt (o : AOps) (c : Cap) (s : State) : Res := writeF c o (fun l => rSqrt o.x (c.a1 l)) s

def execFsqrt (o : AOps) (s : State) : Host.Outcome State Fault Refusal := issue (.fsqrt o) (bodyFsqrt o) s

/-- DADD (R92). -/
def bodyDadd (o : AOps) (c : Cap) (s : State) : Res := writeF64 c o (fun l => satOf fp64 o.x (faddP fp64 (rmOf o.x) (c.a1 l).toNat (c.a2 l).toNat)) s

def execDadd (o : AOps) (s : State) : Host.Outcome State Fault Refusal := issue (.dadd o) (bodyDadd o) s

/-- DMUL (R92). -/
def bodyDmul (o : AOps) (c : Cap) (s : State) : Res := writeF64 c o (fun l => satOf fp64 o.x (fmulP fp64 (rmOf o.x) (c.a1 l).toNat (c.a2 l).toNat)) s

def execDmul (o : AOps) (s : State) : Host.Outcome State Fault Refusal := issue (.dmul o) (bodyDmul o) s

/-- DFMA (R92). -/
def bodyDfma (o : AOps) (c : Cap) (s : State) : Res := writeF64 c o (fun l => satOf fp64 o.x (ffmaP fp64 (rmOf o.x) (c.a1 l).toNat (c.a2 l).toNat (c.a3 l).toNat)) s

def execDfma (o : AOps) (s : State) : Host.Outcome State Fault Refusal := issue (.dfma o) (bodyDfma o) s

/-- FMIN (R93). -/
def bodyFmin (o : AOps) (c : Cap) (s : State) : Res := writeF c o (fun l => fminmax fp32 false (lowNat (c.a1 l)) (lowNat (c.a2 l))) s

def execFmin (o : AOps) (s : State) : Host.Outcome State Fault Refusal := issue (.fmin o) (bodyFmin o) s

/-- FMAX (R93). -/
def bodyFmax (o : AOps) (c : Cap) (s : State) : Res := writeF c o (fun l => fminmax fp32 true (lowNat (c.a1 l)) (lowNat (c.a2 l))) s

def execFmax (o : AOps) (s : State) : Host.Outcome State Fault Refusal := issue (.fmax o) (bodyFmax o) s

/-- DMIN (R93). -/
def bodyDmin (o : AOps) (c : Cap) (s : State) : Res := writeF64 c o (fun l => fminmax fp64 false (c.a1 l).toNat (c.a2 l).toNat) s

def execDmin (o : AOps) (s : State) : Host.Outcome State Fault Refusal := issue (.dmin o) (bodyDmin o) s

/-- DMAX (R93). -/
def bodyDmax (o : AOps) (c : Cap) (s : State) : Res := writeF64 c o (fun l => fminmax fp64 true (c.a1 l).toNat (c.a2 l).toNat) s

def execDmax (o : AOps) (s : State) : Host.Outcome State Fault Refusal := issue (.dmax o) (bodyDmax o) s

/-- FCMP (R94). -/
def bodyFcmp (o : AOps) (c : Cap) (s : State) : Res :=
  .ok (writeP s c (predD o.d) (fun l => fpCond (condD o.d) fp32 (lowNat (c.a1 l)) (lowNat (c.a2 l))))

def execFcmp (o : AOps) (s : State) : Host.Outcome State Fault Refusal := issue (.fcmp o) (bodyFcmp o) s

/-- DCMP (R94). -/
def bodyDcmp (o : AOps) (c : Cap) (s : State) : Res :=
  .ok (writeP s c (predD o.d) (fun l => fpCond (condD o.d) fp64 (c.a1 l).toNat (c.a2 l).toNat))

def execDcmp (o : AOps) (s : State) : Host.Outcome State Fault Refusal := issue (.dcmp o) (bodyDcmp o) s

/-- FCLASS (R89, R95). -/
def bodyFclass (o : AOps) (c : Cap) (s : State) : Res :=
  .ok (writeT s c o.d.toNat ⟨1, 512⟩ (fun l => BitVec.ofNat 32 (fclassVal (c.a1 l))))

def execFclass (o : AOps) (s : State) : Host.Outcome State Fault Refusal := issue (.fclass o) (bodyFclass o) s

/-- FRCP (R96, R97). -/
def bodyFrcp (o : AOps) (c : Cap) (s : State) : Res := writeF c o (fun l => frcpP (lowNat (c.a1 l))) s

def execFrcp (o : AOps) (s : State) : Host.Outcome State Fault Refusal := issue (.frcp o) (bodyFrcp o) s

/-- FRSQ (R96, R97). -/
def bodyFrsq (o : AOps) (c : Cap) (s : State) : Res := writeF c o (fun l => frsqP (lowNat (c.a1 l))) s

def execFrsq (o : AOps) (s : State) : Host.Outcome State Fault Refusal := issue (.frsq o) (bodyFrsq o) s

/-- FEXP2 (R96, R97). -/
def bodyFexp2 (o : AOps) (c : Cap) (s : State) : Res := writeF c o (fun l => fexp2P (lowNat (c.a1 l))) s

def execFexp2 (o : AOps) (s : State) : Host.Outcome State Fault Refusal := issue (.fexp2 o) (bodyFexp2 o) s

/-- FLOG2 (R96, R97). -/
def bodyFlog2 (o : AOps) (c : Cap) (s : State) : Res := writeF c o (fun l => flog2P (lowNat (c.a1 l))) s

def execFlog2 (o : AOps) (s : State) : Host.Outcome State Fault Refusal := issue (.flog2 o) (bodyFlog2 o) s

/-- FSIN (R96, R97). -/
def bodyFsin (o : AOps) (c : Cap) (s : State) : Res := writeF c o (fun l => fsinP (lowNat (c.a1 l))) s

def execFsin (o : AOps) (s : State) : Host.Outcome State Fault Refusal := issue (.fsin o) (bodyFsin o) s

/-- FCOS (R96, R97). -/
def bodyFcos (o : AOps) (c : Cap) (s : State) : Res := writeF c o (fun l => fcosP (lowNat (c.a1 l))) s

def execFcos (o : AOps) (s : State) : Host.Outcome State Fault Refusal := issue (.fcos o) (bodyFcos o) s

/-- HADD2 (R98). -/
def bodyHadd2 (o : AOps) (c : Cap) (s : State) : Res := writeF c o (fun l => hAdd o.x (c.a1 l) (c.a2 l)) s

def execHadd2 (o : AOps) (s : State) : Host.Outcome State Fault Refusal := issue (.hadd2 o) (bodyHadd2 o) s

/-- HMUL2 (R98). -/
def bodyHmul2 (o : AOps) (c : Cap) (s : State) : Res := writeF c o (fun l => hMul o.x (c.a1 l) (c.a2 l)) s

def execHmul2 (o : AOps) (s : State) : Host.Outcome State Fault Refusal := issue (.hmul2 o) (bodyHmul2 o) s

/-- HFMA2 (R98). -/
def bodyHfma2 (o : AOps) (c : Cap) (s : State) : Res := writeF c o (fun l => hFma o.x (c.a1 l) (c.a2 l) (c.a3 l)) s

def execHfma2 (o : AOps) (s : State) : Host.Outcome State Fault Refusal := issue (.hfma2 o) (bodyHfma2 o) s

/-- HMAX2 (R98). -/
def bodyHmax2 (o : AOps) (c : Cap) (s : State) : Res := writeF c o (fun l => hMax o.x (c.a1 l) (c.a2 l)) s

def execHmax2 (o : AOps) (s : State) : Host.Outcome State Fault Refusal := issue (.hmax2 o) (bodyHmax2 o) s

/-- F2I (R99). -/
def bodyF2i (o : AOps) (c : Cap) (s : State) : Res := writeF c o (fun l => f2iVal o.x (c.a1 l)) s

def execF2i (o : AOps) (s : State) : Host.Outcome State Fault Refusal := issue (.f2i o) (bodyF2i o) s

/-- I2F (R99). -/
def bodyI2f (o : AOps) (c : Cap) (s : State) : Res := writeF c o (fun l => i2fVal o.x (c.a1 l)) s

def execI2f (o : AOps) (s : State) : Host.Outcome State Fault Refusal := issue (.i2f o) (bodyI2f o) s

/-- F2F (R100). -/
def bodyF2f (o : AOps) (c : Cap) (s : State) : Res := writeF c o (fun l => f2fVal o.x (c.a1 l)) s

def execF2f (o : AOps) (s : State) : Host.Outcome State Fault Refusal := issue (.f2f o) (bodyF2f o) s

/-- F2D (R100). -/
def bodyF2d (o : AOps) (c : Cap) (s : State) : Res := writeF64 c o (fun l => roundTo fp64 .rne (decodeF fp32 (lowNat (c.a1 l)))) s

def execF2d (o : AOps) (s : State) : Host.Outcome State Fault Refusal := issue (.f2d o) (bodyF2d o) s

/-- D2F (R100). -/
def bodyD2f (o : AOps) (c : Cap) (s : State) : Res := writeF c o (fun l => roundTo fp32 (rmOf o.x) (decodeF fp64 (c.a1 l).toNat)) s

def execD2f (o : AOps) (s : State) : Host.Outcome State Fault Refusal := issue (.d2f o) (bodyD2f o) s

/-- The launch record that the issuing group runs under. -/
def unitRec (s : State) (c : Cap) : LaunchRec :=
  match agentLaunch s c.agent with
  | some (f, l) => recOf s f l
  | none => .empty

/-- Element index of CVTS and CVTL. -/
def litIdx (src : Src) : Nat :=
  match src with
  | .lit f => f.toNat
  | _ => 0

/-- CVTS (R101, R102): D is read, and its other elements are written back. -/
def bodyCvts (o : AOps) (c : Cap) (s : State) : Res :=
  match unitOf s c.agent with
  | none => .ok s
  | some u =>
    let slot := slotOf (unitRec s c) o.x.toNat
    let e := slotWidth (slotFormat slot)
    let i := litIdx o.s2
    writeF c o (fun l =>
      let old := ((u.thread (laneThread s c.agent l)).reg o.d.toNat).toNat
      old - old / 2 ^ (e * i) % 2 ^ e * 2 ^ (e * i) + cvtsVal slot (lowNat (c.a1 l)) * 2 ^ (e * i)) s

def execCvts (o : AOps) (s : State) : Host.Outcome State Fault Refusal := issue (.cvts o) (bodyCvts o) s

/-- CVTL (R101, R103). [DEDUCED, log 31] -/
def bodyCvtl (o : AOps) (c : Cap) (s : State) : Res :=
  let slot := slotOf (unitRec s c) o.x.toNat
  let e := slotWidth (slotFormat slot)
  writeF c o (fun l => cvtlVal slot (lowNat (c.a1 l) / 2 ^ (e * litIdx o.s2) % 2 ^ e)) s

def execCvtl (o : AOps) (s : State) : Host.Outcome State Fault Refusal := issue (.cvtl o) (bodyCvtl o) s

-- The pair word.

/-- The result of a half: `a` is D where the half reads it, `b` its S (R42). -/
def halfVal (h : Half) (w : Nat) (a b : DWord) : DWord :=
  let m := bits h.x 1 2
  let n (v : Nat) : DWord := BitVec.ofNat 64 v
  match h.op.toNat with
  | 0x01 => vOr w b 0
  | 0x02 => kmovVal h.x b
  | 0x03 => vAdd w m a b
  | 0x04 => vSub w m a b
  | 0x05 => vMul w a b
  | 0x06 => vMin w a b
  | 0x07 => vMax w a b
  | 0x08 => vMinu w a b
  | 0x09 => vMaxu w a b
  | 0x0A => vAnd w a b
  | 0x0B => vOr w a b
  | 0x0C => vXor w a b
  | 0x0D => vAndn w a b
  | 0x0E => vShl w a b
  | 0x0F => vShra w a b
  | 0x10 => vShrl w a b
  | 0x11 => vRotl w a b
  | 0x12 => vNeg w m b
  | 0x13 => vAbs w m b
  | 0x14 => vNot w b
  | 0x15 => vPopc w b
  | 0x16 => vClz w b
  | 0x17 => vBrev w b
  | 0x20 => n (rAdd h.x a b)
  | 0x21 => n (rSub h.x a b)
  | 0x22 => n (rMul h.x a b)
  | 0x23 => n (fminmax fp32 false (lowNat a) (lowNat b))
  | 0x24 => n (fminmax fp32 true (lowNat a) (lowNat b))
  | 0x25 => n (frcpP (lowNat b))
  | 0x26 => n (frsqP (lowNat b))
  | 0x27 => n (rSqrt h.x b)
  | 0x28 => n (fexp2P (lowNat b))
  | 0x29 => n (flog2P (lowNat b))
  | 0x2A => n (hAdd h.x a b)
  | 0x2B => n (hMul h.x a b)
  | 0x2C => n (hMax h.x a b)
  | 0x2D => n (f2iVal h.x b)
  | _ => n (i2fVal h.x b)

/-- N of a half whose D is a k-register (R59, R66): D is its first source where it is read. -/
def halfIv (h : Half) (a b : Iv) : Iv :=
  let m := bits h.x 1 2
  match h.op.toNat with
  | 0x01 => b
  | 0x02 => kmovIv h.x b
  | 0x03 => ivAdd m a b
  | 0x04 => ivSub m a b
  | 0x05 => ivMul a b
  | 0x06 => ivMin a b
  | 0x07 => ivMax a b
  | 0x0A => ivAnd a b none (litOf h.s b)
  | 0x0E => ivShl a (litOf h.s b)
  | 0x0F => ivShra a (litOf h.s b)
  | 0x10 => ivShrl a (litOf h.s b)
  | _ => .top

/-- The D of a half as its first operand. -/
def halfD (s : State) (c : Cap) (h : Half) (l : Nat) : DWord :=
  match c.agent with
  | .quartz cl x => match s.ctx? cl x with
    | some q => q.sreg h.d.toNat
    | none => 0
  | .group _ _ => match unitOf s c.agent with
    | some u => ((u.thread (laneThread s c.agent l)).reg h.d.toNat).setWidth 64
    | none => 0

/-- Write one half, with operands read from the state before either half wrote (R40). -/
def writeHalf (old : State) (c : Cap) (h : Half) (v : Nat → DWord) (b : Iv) (s : State) : State :=
  if h.op = 0 then s
  else
    let w : Nat := if c.kind == .quartz then 64 else 32
    let iv := match groupOf old c.agent with
      | some g => sigma g.iv (.reg h.d)
      | none => .top
    writeD c h.d.toNat (halfIv h iv b) (fun l => halfVal h w (halfD old c h l) (v l)) s

/-- The pair word (R39 to R42). -/
def bodyPairWord (o : POps) (c : Cap) (s : State) : Res :=
  .ok (writeHalf s c o.h1 c.a2 c.i2 (writeHalf s c o.h0 c.a1 c.i1 s))

def execPairWord (o : POps) (s : State) : Host.Outcome State Fault Refusal := issue (.pairWord o) (bodyPairWord o) s

end Sys2Proof.Machine
end

