-- ==== Sys2Proof/Machine/Replay.lean ====
section
/-! DEFINITION. Re-issue of replay entries, and TRET (R174, R177, R189). -/

namespace Sys2Proof.Machine

/-- The meaning of a word over captured operands; events, and TRET, are never entries. -/
def bodyOf (i : Instr) : Cap → State → Res :=
  match i with
  | .nop o => bodyNop o
  | .pairWord o => bodyPairWord o
  | .iadd o => bodyIadd o
  | .isub o => bodyIsub o
  | .imul o => bodyImul o
  | .imulhi o => bodyImulhi o
  | .imad o => bodyImad o
  | .ineg o => bodyIneg o
  | .iabs o => bodyIabs o
  | .imin o => bodyImin o
  | .imax o => bodyImax o
  | .iminu o => bodyIminu o
  | .imaxu o => bodyImaxu o
  | .iaddWide o => bodyIaddWide o
  | .imulWide o => bodyImulWide o
  | .andWide o => bodyAndWide o
  | .orWide o => bodyOrWide o
  | .xorWide o => bodyXorWide o
  | .iminWide o => bodyIminWide o
  | .imaxWide o => bodyImaxWide o
  | .movi o => bodyMovi o
  | .moviHi o => bodyMoviHi o
  | .shl o => bodyShl o
  | .shra o => bodyShra o
  | .shrl o => bodyShrl o
  | .rotl o => bodyRotl o
  | .and o => bodyAnd o
  | .or o => bodyOr o
  | .xor o => bodyXor o
  | .andn o => bodyAndn o
  | .not o => bodyNot o
  | .popc o => bodyPopc o
  | .clz o => bodyClz o
  | .brev o => bodyBrev o
  | .bfx o => bodyBfx o
  | .bfi o => bodyBfi o
  | .prmt o => bodyPrmt o
  | .mov o => bodyMov o
  | .kmov o => bodyKmov o
  | .rdspec o => bodyRdspec o
  | .iwiden o => bodyIwiden o
  | .klo o => bodyKlo o
  | .khi o => bodyKhi o
  | .icmp o => bodyIcmp o
  | .pand o => bodyPand o
  | .por o => bodyPor o
  | .pxor o => bodyPxor o
  | .pnot o => bodyPnot o
  | .sel o => bodySel o
  | .lread o => bodyLread o
  | .lshfx o => bodyLshfx o
  | .lbcast o => bodyLbcast o
  | .lsum o => bodyLsum o
  | .lmax o => bodyLmax o
  | .vote o => bodyVote o
  | .lprefix o => bodyLprefix o
  | .bra o => bodyBra o
  | .brc o => bodyBrc o
  | .brp o => bodyBrp o
  | .jmpx o => bodyJmpx o
  | .call o => bodyCall o
  | .ret o => bodyRet o
  | .reform o => bodyReform o
  | .exit o => bodyExit o
  | .fadd o => bodyFadd o
  | .fsub o => bodyFsub o
  | .fmul o => bodyFmul o
  | .ffma o => bodyFfma o
  | .fsqrt o => bodyFsqrt o
  | .dadd o => bodyDadd o
  | .dmul o => bodyDmul o
  | .dfma o => bodyDfma o
  | .fmin o => bodyFmin o
  | .fmax o => bodyFmax o
  | .dmin o => bodyDmin o
  | .dmax o => bodyDmax o
  | .fcmp o => bodyFcmp o
  | .dcmp o => bodyDcmp o
  | .fclass o => bodyFclass o
  | .frcp o => bodyFrcp o
  | .frsq o => bodyFrsq o
  | .fexp2 o => bodyFexp2 o
  | .flog2 o => bodyFlog2 o
  | .fsin o => bodyFsin o
  | .fcos o => bodyFcos o
  | .hadd2 o => bodyHadd2 o
  | .hmul2 o => bodyHmul2 o
  | .hfma2 o => bodyHfma2 o
  | .hmax2 o => bodyHmax2 o
  | .f2i o => bodyF2i o
  | .i2f o => bodyI2f o
  | .f2f o => bodyF2f o
  | .f2d o => bodyF2d o
  | .d2f o => bodyD2f o
  | .cvts o => bodyCvts o
  | .cvtl o => bodyCvtl o
  | .aset o => bodyAset o
  | .aget o => bodyAget o
  | .ld o => bodyLd o
  | .st o => bodySt o
  | .ldu o => bodyLdu o
  | .ldx o => bodyLdx o
  | .stx o => bodyStx o
  | .ldy o => bodyLdy o
  | .pref o => bodyPref o
  | .cinv o => bodyCinv o
  | .cwb o => bodyCwb o
  | .atomAdd o => bodyAtomAdd o
  | .atomAnd o => bodyAtomAnd o
  | .atomOr o => bodyAtomOr o
  | .atomXor o => bodyAtomXor o
  | .atomMin o => bodyAtomMin o
  | .atomMax o => bodyAtomMax o
  | .atomExch o => bodyAtomExch o
  | .atomIncw o => bodyAtomIncw o
  | .atomDecw o => bodyAtomDecw o
  | .atomAddb o => bodyAtomAddb o
  | .atomfAdd o => bodyAtomfAdd o
  | .atomfMin o => bodyAtomfMin o
  | .atomfMax o => bodyAtomfMax o
  | .cas o => bodyCas o
  | .redAdd o => bodyRedAdd o
  | .redAnd o => bodyRedAnd o
  | .redOr o => bodyRedOr o
  | .redXor o => bodyRedXor o
  | .redMin o => bodyRedMin o
  | .redMax o => bodyRedMax o
  | .updAddI32 o => bodyUpdAddI32 o
  | .updAddI64 o => bodyUpdAddI64 o
  | .updAddF32 o => bodyUpdAddF32 o
  | .updMinI32 o => bodyUpdMinI32 o
  | .updMaxI32 o => bodyUpdMaxI32 o
  | .updMinN32 o => bodyUpdMinN32 o
  | .updMaxN32 o => bodyUpdMaxN32 o
  | .updMinF32 o => bodyUpdMinF32 o
  | .updMaxF32 o => bodyUpdMaxF32 o
  | .updOrB32 o => bodyUpdOrB32 o
  | .updXorB32 o => bodyUpdXorB32 o
  | .updAndB32 o => bodyUpdAndB32 o
  | .fence o => bodyFence o
  | .cpy o => bodyCpy o
  | .cpym o => bodyCpym o
  | .cpyw o => bodyCpyw o
  | .cpyf o => bodyCpyf o
  | .bgath o => bodyBgath o
  | .bscat o => bodyBscat o
  | .seal o => bodySeal o
  | .reclaim o => bodyReclaim o
  | .bar o => bodyBar o
  | .binit o => bodyBinit o
  | .bexp o => bodyBexp o
  | .bwait o => bodyBwait o
  | .qinit o => bodyQinit o
  | .qpush o => bodyQpush o
  | .qpop o => bodyQpop o
  | .twait o => bodyTwait o
  | .tread o => bodyTread o
  | .topk o => bodyTopk o
  | .bvmask o => bodyBvmask o
  | .mma o => bodyMma o
  | .mmas o => bodyMmas o
  | .mzero o => bodyMzero o
  | .mldm o => bodyMldm o
  | .mdrain o => bodyMdrain o
  | .mqnt o => bodyMqnt o
  | .mchk o => bodyMchk o
  | .mscl o => bodyMscl o
  | .trap o => bodyTrap o
  | .sysc o => bodySysc o
  | .rplx o => bodyRplx o
  | .rplw o => bodyRplw o
  | .rpld o => bodyRpld o
  | .xrd o => bodyXrd o
  | .xwr o => bodyXwr o
  | .rinit o => bodyRinit o
  | .rgrab o => bodyRgrab o
  | .lnch o => bodyLnch o
  | .cntw o => bodyCntw o
  | .cncl o => bodyCncl o
  | .dlread o => bodyDlread o
  | .idem o => bodyIdem o
  | _ => fun _ s => .ok s

/-- Operands that a word uses once for the whole group (R176): taken from the lowest lane of MASK. [DEDUCED, log 37] -/
def onceArgs : Instr → List Nat
  | .aset _ | .qinit _ => [0, 1, 2]
  | .iwiden _ | .seal _ | .binit _ | .bexp _ | .lnch _ => [0, 1]
  | .ldu _ | .reclaim _ | .topk _ | .cncl _ | .dlread _ => [0]
  | .lbcast _ | .cpy _ | .cpym _ | .cpyw _ | .cpyf _ | .bgath _ | .bscat _ => [1]
  | .rinit _ => [1, 2]
  | _ => []

/-- The captured operands of an entry, as the re-issued word reads them. -/
def entryVals (i : Instr) (n : Nat) (present mask : List Nat) (m : NatMap DWord) : NatMap DWord :=
  if (onceArgs i).contains n then present.foldl (fun q l => NatMap.set 0 q l (NatMap.get 0 m (mask.headD 0))) [] else m

/-- The capture of a re-issued entry (R174, R177): it acts for the lanes in its MASK; σ of each source is the hull over
them. [DEDUCED, log 37] -/
def entryCap (s : State) (a : Agent) (i : Instr) (e : ReplayEntry) : Cap :=
  let present := match groupOf s a with
    | some g => g.members.map Prod.fst
    | none => [0]
  let mask := (maskLanes e.mask).filter (fun l => present.contains l)
  let v (n : Nat) : NatMap DWord := entryVals i n present mask (opField e n)
  let iv (m : NatMap DWord) : Iv := capturedIv mask (fun l => NatMap.get 0 m l)
  { agent := a, kind := a.kind, instr := i, word := e.word, pc := e.pc, present := mask, active := mask,
    v1 := v 0, v2 := v 1, v3 := v 2, dat := e.dat, i1 := iv e.op1, i2 := iv e.op2, i3 := iv e.op3, replay := true, reg := none, seq := s.nextSeq }

/-- How the re-issue of the entries ends: all have performed; the last has ended its run itself, as a mismatched run-ending word does
(R358); or one of them stops it. -/
inductive ReplayEnd where
  | all (s : State)
  | moved (s : State)
  | trap (s : State) (queue : List ReplayEntry) (entry : Bool) (cause xaddr : Nat) (xmask : Word)
  | hold (s : State) (queue : List ReplayEntry) (f : Nat) (x : XFault) (lanes : Word)
  | other (r : Res)

/-- Re-issue one entry: range-engine words act at once, behind the requests that TRET has waited for. [DEDUCED, log 37] -/
def runEntry (s : State) (a : Agent) (i : Instr) (e : ReplayEntry) : Res :=
  let c := entryCap s a i e
  match i, unitOf s a with
  | .rgrab o, some u =>
    (match grabFor c u (litField o.s1) o.d s with
     | .ok _ => grabFor c u (litField o.s1) o.d (clearMarks s c)
     | r => r)
  | .rinit o, some u =>
    if pmBad ((c.a3 c.lowP).setWidth 32) then .trap s 0x11 (litField o.s1) (laneMask c.present)
    else .ok (rangeInit s u.func u.launch (litField o.s1) ((c.a2 c.lowP).setWidth 32) ((c.a3 c.lowP).setWidth 32) (o.x == 1))
  | _, _ => perform (bodyOf i) c false s

/-- Does the entry raise its trap again: one of check 1 to 7 (R189)? Lanes that disagree on an s-register result are found
when the word performs (R57), and that is no such check. -/
def raisesAgain (e : ReplayEntry) : Bool :=
  let st := e.stat.toNat
  decide (1 ≤ st) && decide (st ≤ 7) && !(st == 7 && (match e.instr with
    | some i => sDestOf .vector i
    | none => false))

/-- The latch entry that a re-issued word still owes its run (R37). -/
def payLatch (s : State) (a : Agent) (i : Instr) (e : ReplayEntry) : State :=
  match e.keeps with
  | none => s
  | some j => modFront s a (fun f => { f with
      frame := { f.frame with latch := latchAfter f.frame.latch j (retained (entryCap s a i e)) } })

/-- The destinations of the words that act on more than registers, and whose values nothing bounds (R59). -/
def freeDests (i : Instr) : List Nat :=
  match i with
  | .ldx o | .ldy o => [o.d.toNat]
  | .aget o | .topk o | .bvmask o | .dlread o => [o.d.toNat]
  | .tread o => if o.x.getLsbD 1 then [] else [o.d.toNat]
  | .qpop o => if o.x = 0 then [o.d.toNat] else []
  | .rgrab o => [o.d.toNat, o.d.toNat + 1]
  | _ => []

/-- Re-issue the entries in order (R174). An entry of check 1 to 7 raises its trap again (R189). An entry whose MASK is empty
acts on no lane; the interval of a k destination still takes the hull (R177). [DEDUCED, log 37] -/
def replayFrom (a : Agent) : List ReplayEntry → State → ReplayEnd
  | [], s => .all s
  | e :: r, s =>
    let present := match groupOf s a with
      | some g => laneMask (g.members.map Prod.fst)
      | none => 1
    let st := e.stat.toNat
    if raisesAgain e then
      (match e.raised with
       | some v => .trap s (e :: r) true st v.1.toNat v.2
       | none => .trap s (e :: r) true st e.pc.toNat present)
    else
      match e.instr with
      | none => .trap s (e :: r) true 1 e.pc.toNat present
      | some i =>
        if e.mask = 0 ∧ (mayStand i || registersOnly i) = false then
          replayFrom a r ((freeDests i).foldl (fun st d => writeIv st (entryCap st a i e) d .top) s)
        else
          match runEntry (if i.ends then modFront s a (fun q => { q with priv := false }) else s) a i e with
          | .ok s1 => if i.ends then .moved (modFront s1 a (fun q => { q with pc := e.pc + 8 })) else replayFrom a r (payLatch s1 a i e)
          | .moved s1 => if i.ends then .moved s1 else replayFrom a r s1
          | .placed s1 => if i.ends then .moved s1 else replayFrom a r s1
          | .trap s1 n v m => .trap s1 ({ e with stat := BitVec.ofNat 8 n } :: r) true n v m
          | .late s1 n v m => .trap s1 r false n v m
          | .hold s1 f x l => .hold s1 (e :: r) f x l
          | .wait => .other .wait
          | .dead s1 n => .other (.dead s1 n)
          | .relaunch s1 => .other (.relaunch s1)

/-- Does an entry use the range engine while other requests stand before it? [DEDUCED, log 38] -/
def rangeBusy (s : State) (a : Agent) (q : List ReplayEntry) : Bool :=
  q.any (fun e => match e.instr with
    | some (.rgrab _) | some (.rinit _) => true
    | _ => false) &&
  (match unitOf s a with
   | some u => (s.die (rangeDie s u.func u.launch)).rangeReqs != []
   | none => false)

/-- TRET (R174): the entries are re-issued, then the interrupted run resumes, or a new one begins at XPC. An entry that
meets a translation fault holds the group at its TRET, with the entries from it on. [DEDUCED, log 38] -/
def bodyTret (_o : AOps) (c : Cap) (s : State) : Res :=
  let a := c.agent
  match frontOf s a with
  | none => .ok s
  | some fr =>
    if rangeBusy s a fr.replay then .wait
    else
      match replayFrom a fr.replay s with
      | .moved s1 =>
        .placed (boundary (setPaired (modFront (countRun s1 a (c.uid s)) a (fun q =>
          { q with j := 0, latch := [], priv := false, replay := [], hold := none })) a true) a)
      | .all s1 =>
        let s2 := setPaired (modFront (countRun s1 a (c.uid s)) a resumeRun) a true
        .placed (match frontOf s2 a with
          | some g => if g.j = 0 then boundary s2 a else s2
          | none => s2)
      | .trap s1 q entry n v m =>
        let s2 := retrap (countRun s1 a (c.uid s)) a q n v m
        .placed (if entry then s2 else modFront s2 a (fun f => { f with xcause := BitVec.ofNat 32 (0xFF * 256 + n) }))
      | .hold s1 q f x l =>
        let r := addFault s1 f x 0 a.site l false (.agent a false)
        .placed (modFront r.2 a (fun g => { g with replay := q, hold := some (.replayFault r.1) }))
      | .other r => r

def execTret (o : AOps) (s : State) : Host.Outcome State Fault Refusal := issue (.tret o) (bodyTret o) s

end Sys2Proof.Machine
end

