-- ==== Sys2Proof/Machine/Fetch.lean ====
section
/-! DEFINITION. Fetching a word (R56, R229, R232, R233, R356), what a step does around a word, and the state in which a
given word is the next one to be fetched. -/

namespace Sys2Proof.Machine

/-- What a fetch brings. -/
inductive Fetched where
  | word (w : BitVec 64) (s : State)
  | flt (x : XFault) (s : State)
  | err (s : State)

/-- A sector of code as a core's instruction cache holds it, or as its home does, which fills the cache: 2,048 sectors are 128 KiB
(R5, R56). The one filled first goes. [DESIGN CHOICE, log 71] -/
def codeSector (s : State) (k f sec key : Nat) : List Byte × State :=
  match (s.core k).icache.find? (fun l => l.sec == sec && l.key == key) with
  | some l => (l.data, s)
  | none =>
    let r := homeRead (useHome s f (64 * sec)) (64 * sec) 64 key
    (r.1, r.2.modCore k (fun c => { c with icache := (⟨sec, key, r.1⟩ :: c.icache).take 2048 }))

/-- The 8 bytes of code at a physical address: through the instruction cache of a vector core, at the home for a Quartz core (R5,
R56). [DEDUCED, log 16] -/
def codeAt (s : State) (a : Agent) (f pa key : Nat) : List Byte × State :=
  match a with
  | .group k _ =>
    let r := codeSector s k f (secOf pa) key
    ((r.1.drop (pa % 64)).take 8, r.2)
  | .quartz _ _ => homeRead (useHome s f pa) pa 8 key

/-- The error response of a fetch: a sector that the instruction cache holds is not read at its home (R355, R356). -/
def codeErr (s : State) (a : Agent) (pa key : Nat) : Option AccErr × State :=
  match a with
  | .group k _ =>
    if (s.core k).icache.any (fun l => l.sec == secOf pa && l.key == key) then (copyErr s pa key false, s) else homeErr s pa key
  | .quartz _ _ => homeErr s pa key

/-- The TLBs that an agent looks up (R231). -/
def Agent.tlbs : Agent → List Nat
  | .group k _ => coreTlbs k
  | .quartz cl _ => quartzTlbs cl

/-- The word at the program counter (R56, R229, R233). [DEDUCED, log 16] -/
def fetchWord (s : State) (a : Agent) (f : Nat) (pc : Pc) : Fetched :=
  match translate s a.tlbs f pc.toNat .fetch with
  | (.flt x, s1) => .flt x s1
  | (.ok t, s1) =>
    match codeErr s1 a t.pa t.key with
    | (some e, s2) => .err (reportErr s2 e f pc.toNat t.pa t.key a.site 5 0)
    | (none, s2) =>
      let r := codeAt s2 a f t.pa t.key
      .word (wordOfBytes r.1) r.2

/-- The lanes present in an agent. -/
def presentMask (s : State) (a : Agent) : Word :=
  match groupOf s a with
  | some g => laneMask (g.members.map Prod.fst)
  | none => 1

-- Words that finish after they issued (R171, R322).

/-- The capture of an unfinished word: what it read when it issued. -/
def standingCap (s : State) (a : Agent) (i : Instr) (u : Unfinished) : Cap :=
  { entryCap s a i u.entry with
    v1 := u.entry.op1, v2 := u.entry.op2, v3 := u.entry.op3, i1 := u.iv, replay := false, reg := some u.reg }

/-- The oldest unfinished word of a group finishes. A fault that it meets holds the group, or traps it, with the younger words
in the queue. [DEDUCED, log 14] -/
def finishOldest (a : Agent) (s : State) : Host.Outcome State Fault Refusal :=
  match frontOf s a, agentLaunch s a with
  | some fr, some (f, _) =>
    (match fr.unfinished with
     | [] => .refused (.notEnabled "FINISH")
     | u :: rest =>
       match fr.hold, u.entry.instr with
       | some _, _ | _, none => .refused (.notEnabled "FINISH")
       | none, some i =>
         let c := standingCap s a i u
         let young := rest.map (·.entry)
         let shed (st : State) : State := modFront st a (fun q => { q with unfinished := rest })
         let r := perform (bodyOf i) c fr.priv s
         match r with
         | .ok s1 => .next (flushReports (shed s1))
         | .trap s1 n v m => .next (flushReports (takeTrap s1 a []
             ⟨n, v, m, some { u.entry with stat := BitVec.ofNat 8 n }, young, fr.pc, fr.j, true⟩))
         | .late s1 n v m => .next (flushReports (takeTrap s1 a [] ⟨n, v, m, none, young, fr.pc, fr.j, true⟩))
         | .hold s1 g x lanes =>
           let h := addFault s1 g x 0 a.site lanes false (.agent a false)
           .next (flushReports (modFront h.2 a (fun q => { q with
             hold := some (.standing h.1), unfinished := ⟨{ u.entry with stat := 0x18 }, u.iv, u.reg⟩ :: rest })))
         | r => finish s a c (c.uid s) f r)
  | _, _ => .refused (.notEnabled "no agent")

-- Whose turn it is (R28, R149, R199).

/-- Does the agent wait: a hold, or a stand at its run boundary? [DEDUCED, log 13] -/
def waits (s : State) (a : Agent) : Bool :=
  match frontOf s a with
  | some fr => fr.hold.isSome || standing s a fr
  | none => true

/-- Has the group's run begun and not ended: it stands within a run, waits for a range, or is at the entry of its handler
after a trap (R28, R199)? A group held by a fault leaves its quadrant to the others (R233). [DEDUCED, log 13] -/
def withinRun (s : State) (k sl : Nat) : Bool :=
  match s.group? k sl, unitOf s (.group k sl) with
  | some g, some u =>
    (match g.front.hold with
     | some (.range _) => true
     | some _ => false
     | none => g.front.j != 0 || (g.front.priv && g.front.pc == (recOf s u.func u.launch).trapentry))
  | _, _ => false

/-- The slot that a quadrant chose last. [DESIGN CHOICE, log 7] -/
def lastSlotOf (s : State) (k q : Nat) : Nat := 8 * q + NatMap.get 7 (s.core k).lastSlot q % 8

/-- The places from the one after `last` to the one before `n`, going round eight. -/
def passedOver (last n : Nat) : List Nat := (List.range ((n + 7 - last % 8) % 8)).map (fun d => (last + 1 + d) % 8)

/-- May the agent issue at this clock, while the slots or contexts of `stalls` stall? A run holds its quadrant; at a boundary
the choice goes round the slots. A Quartz core goes round its contexts at every word (R149, R199). [DEDUCED, log 13] -/
def mayIssue (s : State) (a : Agent) (stalls : List Nat) : Bool :=
  match a with
  | .group k sl =>
    let x := lastSlotOf s k (sl / 8)
    if withinRun s k x then x == sl
    else (passedOver x (sl % 8)).all (fun n => waits s (.group k (8 * (sl / 8) + n)) || stalls.contains (8 * (sl / 8) + n))
  | .quartz cl c => (passedOver (s.cluster cl).lastCtx c).all (fun n => waits s (.quartz cl n) || stalls.contains n)

/-- The agent is the one chosen last, and its quadrant or Quartz core has issued at this clock. [DEDUCED, log 13] -/
def takeTurn (s : State) (a : Agent) : State :=
  match a with
  | .group k sl => s.modCore k (fun c => { c with
      lastSlot := NatMap.set 7 c.lastSlot (sl / 8) (sl % 8)
      issued := NatMap.set 0 c.issued (sl / 8) (s.clock + 1) })
  | .quartz cl c => s.modCluster cl (fun x => { x with lastCtx := c % 8, issued := s.clock + 1 })

/-- Has the quadrant, or the Quartz core, issued a word at this clock (R149, R199)? -/
def issuedNow (s : State) (a : Agent) : Bool :=
  match a with
  | .group k sl => NatMap.get 0 (s.core k).issued (sl / 8) == s.clock + 1
  | .quartz cl _ => (s.cluster cl).issued == s.clock + 1

/-- An agent's place among what happens in one clock: quadrants in ascending die, cluster, core and quadrant, then Quartz
contexts (R58, R140, R178, R235, R239, R250). [DEDUCED, log 69] -/
def agentRank : Agent → Nat
  | .group k sl => 2 ^ 20 + 4 * k + sl / 8
  | .quartz cl _ => 2 * 2 ^ 20 + cl

/-- A BWAIT sees the credits of its clock, so it comes after the engines (R137). [DEDUCED, log 69] -/
def issueRank (a : Agent) (i : Instr) : Nat :=
  match i with
  | .bwait _ => 3 * 2 ^ 20 + agentRank a
  | _ => agentRank a

/-- Does the word stall at this clock, for what the state shows: an operand it waits for, or a wait of its meaning (R199)? -/
def stallsNow (s : State) (a : Agent) (i : Instr) : Bool :=
  match frontOf s a, agentLaunch s a with
  | some fr, some (f, l) =>
    (match capture s a i ((encode i).getD 0) fr with
     | none => false
     | some c =>
       behind fr i || ((checkWord s a fr (recOf s f l) i).isNone && (scoreboard s a i ||
         (match perform (match i with
            | .tret o => bodyTret o
            | _ => bodyOf i) c fr.priv s with
          | .wait => true
          | _ => false))))
  | _, _ => false

/-- The next word of an agent: it is fetched, decoded and run, in its place among the actions of the clock. A word that stalls
leaves the choice of the quadrant, or of the Quartz core, where it was (R149, R199). A fetch fault holds the agent (R233); an
error response to a fetch is fatal to the context (R331, R356). -/
def issueNext (run : Instr → State → Host.Outcome State Fault Refusal) (a : Agent) (s : State) :
    Host.Outcome State Fault Refusal :=
  match frontOf s a, agentLaunch s a with
  | some fr, some (f, _) =>
    if fr.hold.isSome || standing s a fr then .next s
    else
      match fetchWord s a f fr.pc with
      | .flt x s1 =>
        let r := addFault s1 f x 1 a.site 0 false (.agent a true)
        .next (flushReports (modFront r.2 a (fun q => { q with hold := some (.fault r.1 none) })))
      | .err s1 => .next (flushReports (fatal s1 f 6 a.site))
      | .word w s1 =>
        match decode w with
        | .word i =>
          if s1.rank ≤ issueRank a i then
            run i (if stallsNow s1 a i then s1 else takeTurn { s1 with rank := issueRank a i } a)
          else .refused (.notEnabled "ORDER")
        | .unassigned _ =>
          if s1.rank ≤ agentRank a then
            issueUnassigned a w (if unassignedWaits fr w then s1 else takeTurn { s1 with rank := agentRank a } a)
          else .refused (.notEnabled "ORDER")
  | _, _ => .refused (.notEnabled "no agent")

/-- A `finish` of the agenda, in its group's place in the clock. [DESIGN CHOICE, log 1] -/
def finishTurn (a : Agent) (s : State) : Host.Outcome State Fault Refusal :=
  if s.rank ≤ agentRank a then finishOldest a { s with rank := agentRank a, upset := 0 } else .refused (.notEnabled "ORDER")

/-- An issue of the agenda: an agent that waits goes on waiting; another issues when it is its turn.
[DESIGN CHOICE, log 1; DESIGN CHOICE, log 12] -/
def issueTurn (run : Instr → State → Host.Outcome State Fault Refusal) (a : Agent) (stalls : List Nat) (s : State) :
    Host.Outcome State Fault Refusal :=
  if (frontOf s a).isSome && waits s a then .next s
  else if mayIssue s a stalls && !issuedNow s a then issueNext run a s
  else .refused (.notEnabled "ISSUE")

-- Placing a word.

/-- Write a byte of HBM4E where its home holds it, unpoisoned. -/
def pokeByte (s : State) (pa : Nat) (b : Byte) : State :=
  let s1 := { s with poison := s.poison.filter (fun k => k != secOf pa) }
  if (dirOf s1 (secOf pa)).st = .i then { s1 with mem := NatMap.set 0 s1.mem pa b }
  else { (merge s1 (secOf pa)) with home := NatMap.set 0 (merge s1 (secOf pa)).home pa b }

def pokeBytes : State → Nat → List Byte → State
  | s, _, [] => s
  | s, pa, b :: r => pokeBytes (pokeByte s pa b) (pa + 1) r

/-- Where placeWord puts the word: virtual and physical address. -/
def placeAt : Nat := 0x8000

/-- Page tables of the physical function at 0x1000 to 0x4FFF that map [0, 2 MiB) to itself, readable, writable and
executable (R229), and the word. [DESIGN CHOICE, log 11] -/
def placeMemory (s : State) (bytes : List Byte) : State :=
  let link (n : Nat) : List Byte := leBytes 8 (n + 1)
  pokeBytes (pokeBytes (pokeBytes (pokeBytes (pokeBytes s 0x1000 (link 0x2000)) 0x2000 (link 0x3000)) 0x3000 (link 0x4000))
    0x4000 (leBytes 8 0x33)) placeAt bytes

/-- A launch slot that runs as the placed word's launch: one unit of 32 threads with every register.
[DESIGN CHOICE, log 11] -/
def placeLaunch : LaunchSlot :=
  { obj := ⟨1, .running, 0, false, none, 0, none, false, false, 0, 0, 0, none, false, false, [], false, none⟩
    rcd := { LaunchRec.empty with entry := BitVec.ofNat 57 placeAt, trapentry := 0x9000, regs := 480, xbytes := 4096, slotset := 0xFF }
    regions := [], devlnch := false, arg := none, preds := [], readyAt := none, cohorts := 1, home := some 0,
    unitsDone := 0, runsDone := 0, ranges := [], relaunch := [] }

/-- The unit of the placed word. [DESIGN CHOICE, log 11] -/
def placeUnit : Unit_ :=
  { func := 0, launch := 0, index := 0, cohort := 0, core := 0, xoff := 0, xbytes := 4096, nthreads := 32, regs := 480,
    started := 0, s := [], a := [], threads := [], bins := [], parked := [], arrived := [], tl := [], tokens := [],
    runs := 0, redundant := false, contain := false, relaunchable := false, relaunched := false, buffer := [],
    drain := none, saveBy := none, stopping := false, relaunchDue := false, restarts := false, atFault := false, idleAt := none, bySwitch := false,
    wroteAt := 0, sWas := [], aWas := [] }

/-- [DESIGN CHOICE, log 11] -/
def placeGroup (uid : Nat) : Group :=
  { front := .start (BitVec.ofNat 57 placeAt), uid := uid, lanes := (List.range 32).map (fun i => (i, some i)), iv := [],
    drawn := 0, marked := false, shadow := none, paired := false }

/-- [DESIGN CHOICE, log 11] -/
def placeCtx : Ctx :=
  { front := .start (BitVec.ofNat 57 placeAt), func := 0, launch := 0, cohort := 0, s := [], m := [], ebud := 0, prio := 0,
    sca := 0, scb := 0, chkst := 0, failed := none, tl := .start, park := none, exiting := false, ended := false,
    saveBy := none, bySwitch := false }

/-- The agent that a word is placed for: a Quartz context for a word that only a Quartz core runs.
[DESIGN CHOICE, log 11] -/
def placeAgent (w : BitVec 64) : Agent :=
  match decode w with
  | .word i => if i.classOk .vector then .group 0 0 else .quartz 0 0
  | .unassigned _ => .group 0 0

/-- `s` with the word as the next one that a step fetches: in the memory of the physical function, on its own page
tables, in the key slot that bring-up fills (R367), under a launch, with the unit and the group, or the context, that issues next.
[DESIGN CHOICE, log 11] -/
def placeWord (s : State) (w : BitVec 64) : State :=
  let uid := s.nextUid
  let a := placeAgent w
  let s1 := (keepTlbs (placeMemory s (leBytes 8 w.toNat)) (fun e => e.func != 0)).modCore 0 (fun c => { c with icache := [] })
  let s2 := { s1 with
    nextUid := uid + 1, cur := some a, agenda := [], upset := 0, later := false, rank := 0
    keys := NatMap.set none s1.keys 0 (some .boot)
    secKey := NatMap.clearRange s1.secKey 0 0x10000 }
  let s3 := s2.modFunc 0 (fun x => { x with
    s1root := 0x1000, launches := NatMap.set none x.launches 0 (some placeLaunch) })
  let s4 := takeTurn s3 a
  match a with
  | .group _ _ => (s4.setUnit uid (some placeUnit)).setGroup 0 0 (some (placeGroup uid))
  | .quartz _ _ => s4.setCtx 0 0 (some placeCtx)

end Sys2Proof.Machine
end

