-- ==== Sys2Proof/Machine/Power.lean ====
section
/-! DEFINITION. What collapse gates: clusters, channels and dies (R348, R349), and wake writes (R300, R350). -/

namespace Sys2Proof.Machine

/-- The enabled functions of a partition. -/
def funcsOfPart (s : State) (p : Nat) : List Nat := (s.fcfg.filter (fun x => x.2.en && x.2.part == p)).map Prod.fst

def isCollapsed (s : State) (f : Nat) : Bool :=
  match (s.func f).wake with
  | .collapsed => true
  | _ => false

/-- Is every enabled function of the partition collapsed, and is there one? -/
def allCollapsed (s : State) (p : Nat) : Bool := funcsOfPart s p != [] && (funcsOfPart s p).all (isCollapsed s)

/-- The gate of a cluster (R349, step 4). -/
def gateOf (s : State) (cl : Nat) : Gate :=
  match partOfCluster s cl with
  | none => .running
  | some p =>
    if !allCollapsed s p || holdsOn s 0 cl then .running
    else if (funcsOfPart s p).all (fun f => decide (1 ≤ (s.fcfgOf f).wclass)) then .powerGated
    else .clockGated

/-- Does a channel stand in self-refresh (R349, step 5)? One that a soft repair quiesces does not (R354). -/
def channelRests (s : State) (c : Nat) : Bool :=
  (s.softRow.map (fun t => (bits t 0 8).toNat)) != some c && (List.range 20).any (fun p =>
    let fs := (funcsOfPart s p).filter (fun f => (s.fcfgOf f).cchan.getLsbD c)
    (s.part p).en && (s.part p).chan.getLsbD c && allCollapsed s p && fs != []
      && fs.all (fun f => decide (2 ≤ (s.fcfgOf f).wclass)))

/-- Is the cluster power domain of a die off (R349, step 6)? -/
def dieRests (s : State) (d : Nat) : Bool :=
  (List.range 16).all (fun i =>
    let cl := 16 * d + i
    gateOf s cl == .powerGated && (match partOfCluster s cl with
      | some p => (funcsOfPart s p).all (fun f => (s.fcfgOf f).wclass == 3)
      | none => false) && !holdsOn s 0 cl)

/-- Steps 4 to 6 of R349 as their conditions stand now: taken where they hold, undone where they fail. What stands in a
cluster or a die that loses power is merged first (R295). [DEDUCED, log 60] -/
def updatePower (s : State) : State :=
  let offCluster (cl : Nat) : Bool := gateOf s cl == .powerGated && (s.cluster cl).gate != .powerGated
  let offDie (d : Nat) : Bool := dieRests s d && !(s.die d).powerOff
  let s0 := mergePlaces s offCluster offDie
  let s1 := (List.range 64).foldl (fun st cl => st.modCluster cl (fun c => { c with gate := gateOf s cl })) s0
  let s2 := (List.range 4).foldl (fun st d => st.modDie d (fun x => { x with powerOff := dieRests s d })) s1
  { s2 with selfRefresh := (List.range 256).filter (channelRests s) }

-- Collapse and wake (R300, R349, R350).

/-- Clusters that a function last served. -/
def lastServedBy (s : State) (f : Nat) : List Nat := (List.range 64).filter (fun cl => (s.cluster cl).lastServed == some f)

/-- Step 3 of R349 on one cluster: the image is saved, and the cluster no longer holds it. [DEDUCED, log 60] -/
def collapseCluster (s : State) (f cl : Nat) : State :=
  let s1 := saveCluster s f cl
  if (s1.func f).torn then s1
  else (clearCluster s1 cl).modCluster cl (fun c => { c with
    lastServed := none, serving := if c.serving = some f then none else c.serving })

/-- The clusters whose images a collapse has still to save; a WC0 function saves none (R349). -/
def collapseLeft (s : State) (f : Nat) : List Nat := if (s.fcfgOf f).wclass = 0 then [] else lastServedBy s f

/-- The end of the collapse step in progress: the merge of the function's partials, or the save of one cluster's state (R300, R349);
none where every step is done. [DEDUCED, log 60] -/
def collapseStep (s : State) (f : Nat) : Option State :=
  if (s.func f).merging then
    some (mergeFunction (s.modFunc f (fun x => { x with merging := false })) f (fun cl => (lastServedBy s f).contains cl))
  else match collapseLeft s f with
    | cl :: _ => some (collapseCluster s f cl)
    | [] => none

/-- A wake write of a function (R300, R350): a collapse, finished or under way, is undone. One under way finishes the step in
progress first. -/
def wakeFunc (s : State) (f : Nat) : State :=
  let wake (st : State) : State :=
    if (st.func f).torn then st else updatePower (st.modFunc f (fun x => { x with wake := .waking, wakeAt := s.clock }))
  match (s.func f).wake with
  | .collapsing => wake ((collapseStep s f).getD s)
  | .collapsed => wake s
  | _ => s

end Sys2Proof.Machine
end

