-- ==== Sys2Proof/Machine/Commands.lean ====
section
/-! DEFINITION. The command queue (R301 to R306), its commands but for CTXSW (R304), graph records and derived edges
(R308 to R311), and invalidations (R231). -/

namespace Sys2Proof.Machine

/-- Acceptance of the entry at HEAD when its opcode is `opc`. `k` gets the entry's address, its bytes and IRQ; none means
that the command waits (R306): the device has begun to read it (R302). An entry that by now bears no assigned opcode is
answered. -/
def command (row : String) (opc f : Nat) (s : State) (k : Nat → List Byte → Bool → State → Option State) :
    Host.Outcome State Fault Refusal :=
  if !accepts s f then notNow row
  else
    match readHead s f with
    | (none, _) => notNow row
    | (some (e, b), s1) =>
      if fld b 0 1 < 1 ∨ 8 < fld b 0 1 then done (acceptRest s1 f)
      else if fld b 0 1 ≠ opc then notNow row
      else
        let irq := fld b 1 1 % 2 == 1
        if !entryOk b then done (acceptRest (answerCmd s1 f e irq badCommand 0) f)
        else
          match k e b irq s1 with
          | some s2 => done (acceptRest s2 f)
          | none =>
            if (s.func f).begun.isSome then notNow row
            else done (s1.modFunc f (fun x => { x with begun := some (e, b) }))

/-- A register write before bring-up has ended is ignored; one to the window of a function that does not exist has no
place to go (R337, R368). -/
def regWrite (row : String) (f : Nat) (s : State) (k : Host.Outcome State Fault Refusal) : Host.Outcome State Fault Refusal :=
  if s.boot.state ≠ 1 then done s else if funcExists s f then k else notNow row

/-- CQTAIL_WRITE (R301, R302, R350): the doorbell sets TAIL and is a wake write; unassigned opcodes at HEAD are answered.
Entries of the other opcodes are accepted by the steps that bear their names. -/
def execCqtailWrite (f : Nat) (value : BitVec 32) (s : State) : Host.Outcome State Fault Refusal :=
  regWrite "CQTAIL_WRITE" f s (
    let s0 := hostDoorbell s
    let s1 := s0.modFunc f (fun x => { x with
      cqtail := (bits value 0 16).toNat, idleSince := s.clock
      drained := x.begun.isSome && (bits value 0 16).toNat % queueLen x == x.cqhead % queueLen x })
    done (acceptRest (wakeFunc s1 f) f))

-- Objects.

/-- A handle of a command: the live object, of an allowed level and not ended; with `open_` also neither closed nor
cancelled (R305). [DEDUCED, log 43] -/
def handleFor (s : State) (f : Nat) (h : DWord) (levels : List Level) (open_ : Bool) : Option (Level × Nat × Obj) :=
  match lookupHandle s f h with
  | .live lv i o => if levels.contains lv && !o.ended && !(open_ && (o.closed || o.cancelAt.isSome)) then some (lv, i, o) else none
  | _ => none

/-- JOB (R304). -/
def execJob (f : Nat) (s : State) : Host.Outcome State Fault Refusal :=
  command "JOB" 1 f s (fun e _ irq s1 =>
    (firstFree s1 f .job).map (fun i =>
      let o : Obj := { newObj s1 f .job i 0 (some e) irq with st := .running }
      acceptCmd (s1.modFunc f (fun x => { x with jobs := NatMap.set none x.jobs i (some o) })) f e (handleOf .job o.gen i)))

/-- PHASE (R304, R317): the deadline counter starts. -/
def execPhase (f : Nat) (s : State) : Host.Outcome State Fault Refusal :=
  command "PHASE" 2 f s (fun e b irq s1 =>
    match handleFor s1 f (argOf b 0) [.job] true with
    | none => some (answerCmd s1 f e irq badHandle 0)
    | some (_, j, _) => (firstFree s1 f .phase).map (fun i =>
      let a := argOf b 1
      let o : Obj := { newObj s1 f .phase i j (some e) irq with
        st := .running, deadline := (bits a 0 32).toNat, dlStart := some s.clock, dlCancel := a.getLsbD 34 }
      acceptCmd (s1.modFunc f (fun x => { x with
        phases := NatMap.set none x.phases i (some ⟨o, (bits a 32 2).toNat⟩) })) f e (handleOf .phase o.gen i)))

/-- CLOSE (R304): done at acceptance. -/
def execClose (f : Nat) (s : State) : Host.Outcome State Fault Refusal :=
  command "CLOSE" 4 f s (fun e b irq s1 =>
    match handleFor s1 f (argOf b 0) [.job, .phase] true with
    | none => some (answerCmd s1 f e irq badHandle 0)
    | some (lv, i, _) => some (answerCmd (modObj s1 f lv i (fun o => { o with closed := true })) f e irq 0 0))

def anyLevel : List Level := [.launch, .graph, .phase, .job]

/-- Note a command that waits for its object's end. -/
def pendCmd (s : State) (f opc entry : Nat) (irq : Bool) (h : DWord) (total : Nat) : State :=
  s.modFunc f (fun x => { x with cmds := x.cmds ++ [⟨opc, entry, irq, h, total, 0, none, none⟩] })

/-- CANCEL (R316). -/
def execCancel (f : Nat) (s : State) : Host.Outcome State Fault Refusal :=
  command "CANCEL" 5 f s (fun e b irq s1 =>
    match handleFor s1 f (argOf b 0) anyLevel false with
    | none => some (answerCmd s1 f e irq badHandle 0)
    | some (lv, i, _) => some (requestCancel (pendCmd (acceptCmd s1 f e 0) f 5 e irq (argOf b 0) 0) f lv i))

/-- WAIT (R304). -/
def execWait (f : Nat) (s : State) : Host.Outcome State Fault Refusal :=
  command "WAIT" 6 f s (fun e b irq s1 =>
    match handleFor s1 f (argOf b 0) anyLevel false with
    | none => some (answerCmd s1 f e irq badHandle 0)
    | some _ => some (pendCmd (acceptCmd s1 f e 0) f 6 e irq (argOf b 0) 0))

-- Graph records (R308, R309).

/-- A node entry as read. -/
structure NodeEnt where
  lrec : Nat
  deadline : Nat
  nflags : Nat
  nref : Nat
  bytes : List Byte
  regions : List Region
deriving DecidableEq, Repr

def NodeEnt.sref (n : NodeEnt) : Nat := n.nref % 65536
def NodeEnt.qref (n : NodeEnt) : Nat := n.nref / 65536 % 65536
def NodeEnt.refnode (n : NodeEnt) : Nat := n.nref / 2 ^ 32 % 256

/-- Why a GRAPH is refused: code and detail (R305, R309). -/
structure Refused where
  code : Nat
  detail : Nat
deriving DecidableEq, Repr

/-- Read the region list of a record; none where it breaks R310. -/
def readRegions (f : Nat) (b : List Byte) (s : State) : Option (List Region) × State :=
  let n := fld b 0x40 4
  if n = 0 then (some [], s)
  else if 64 < n then (none, s)
  else
    match deviceRead f (32 * n) s (fld b 0x38 8) with
    | (none, s1) => (none, s1)
    | (some l, s1) =>
      let rs := (List.range n).map (fun i => regionOf ((l.drop (32 * i)).take 32))
      (if rs.all Option.isSome then some (rs.filterMap id) else none, s1)

/-- Clusters of a function (R204, R208). -/
def functionClusters (s : State) (f : Nat) : Nat := ((List.range 64).filter (clusterAllowed s f)).length

/-- Is a submitted record good (R204)? -/
def submittedOk (s : State) (f : Nat) (b : List Byte) : Bool :=
  let r := recordOf b
  recordOk false b && (r.qentry == 0 || decide (r.cohortCount ≤ functionClusters s f))

/-- Read every node entry and its record, region list aside; the entries' own form comes first. -/
def readNodes (f : Nat) (g : List Byte) : Nat → Nat → State → Sum Refused (List NodeEnt) × State
  | 0, _, s => (.inr [], s)
  | n + 1, i, s =>
    let e := (g.drop (32 * i)).take 32
    let lrec := fld e 0 8
    if lrec % 256 ≠ 0 ∨ 4 ≤ fld e 12 4 ∨ 2 ^ 40 ≤ fld e 24 8 then (.inl ⟨badGraph, i⟩, s)
    else
      match deviceRead f 768 s lrec with
      | (none, s1) => (.inl ⟨badLaunch, i⟩, s1)
      | (some b, s1) =>
        match readNodes f g n (i + 1) s1 with
        | (.inl x, s2) => (.inl x, s2)
        | (.inr l, s2) => (.inr (⟨lrec, fld e 8 4, fld e 12 4, fld e 24 8, b, []⟩ :: l), s2)

/-- Read the region lists. -/
def readLists (f : Nat) : Nat → List NodeEnt → State → Sum Refused (List NodeEnt) × State
  | _, [], s => (.inr [], s)
  | i, n :: r, s =>
    match readRegions f n.bytes s with
    | (none, s1) => (.inl ⟨badGraph, i⟩, s1)
    | (some rs, s1) =>
      match readLists f (i + 1) r s1 with
      | (.inl x, s2) => (.inl x, s2)
      | (.inr l, s2) => (.inr ({ n with regions := rs } :: l), s2)

/-- Does an NREF name a node of the record, and only entries that the record sets (R309)? -/
def nrefOk (count : Nat) (n : NodeEnt) : Bool :=
  let r := recordOf n.bytes
  n.nref == 0 || (decide (n.refnode < count) && (BitVec.ofNat 16 n.sref &&& ~~~r.smask) == 0
    && (BitVec.ofNat 16 n.qref &&& ~~~r.qsmask) == 0)

/-- The checks of R309 on a record at an address, in the order of its list. [DESIGN CHOICE, log 44] -/
def readGraph (f addr : Nat) (s : State) : Sum Refused (List NodeEnt) × State :=
  match deviceRead f 32 s addr with
  | (none, s1) => (.inl ⟨badGraph, 0xFFFF⟩, s1)
  | (some h, s1) =>
    let n := fld h 0 4
    if n = 0 ∨ 256 < n ∨ !zeros h 4 28 then (.inl ⟨badGraph, 0xFFFF⟩, s1)
    else
      match deviceRead f (32 * n) s1 (addr + 32) with
      | (none, s2) => (.inl ⟨badGraph, 0xFFFF⟩, s2)
      | (some g, s2) =>
        match readNodes f g n 0 s2 with
        | (.inl x, s3) => (.inl x, s3)
        | (.inr l, s3) =>
          match (l.zipIdx).find? (fun p => !submittedOk s3 f p.1.bytes) with
          | some p => (.inl ⟨badLaunch, p.2⟩, s3)
          | none =>
            match readLists f 0 l s3 with
            | (.inl x, s4) => (.inl x, s4)
            | (.inr m, s4) =>
              match (m.zipIdx).find? (fun p => !nrefOk n p.1) with
              | some p => (.inl ⟨badGraph, p.2⟩, s4)
              | none => (.inr m, s4)

-- Edges (R311).

def hullsMeet (e : RegionEnt) (r : Region) : Bool := decide (e.lo ≤ r.hi) && decide (r.lo ≤ e.hi)

/-- Edges into a node from the live entries. -/
def deriveEdges (live : List RegionEnt) (n : Nat × Nat) (rs : List Region) : List (Nat × Nat) :=
  ((rs.foldl (fun acc r => live.foldl (fun acc2 e =>
    if !e.replaced && hullsMeet e r then acc2 ++ e.writer.toList ++ (if r.writes then e.readers else []) else acc2) acc)
    []).filter (fun m => m != n)).eraseDups

/-- The entries that a node records; a write replaces the entries that its hull contains. -/
def recordRegions (live : List RegionEnt) (n : Nat × Nat) (rs : List Region) : List RegionEnt :=
  rs.foldl (fun l r =>
    let l1 := if r.writes then l.map (fun e => if r.lo ≤ e.lo ∧ e.hi ≤ r.hi then { e with replaced := true } else e) else l
    l1 ++ [⟨r.lo, r.hi, if r.writes then some n else none, if r.reads then [n] else [], false⟩]) live

/-- Has the node ended? -/
def nodeEnded (s : State) (f : Nat) (n : Nat × Nat) : Bool :=
  match nodeState s f n with
  | .complete | .cancelled => true
  | _ => false

/-- Has the graph of a node ended? A node whose slot has been reused belongs to a graph that has. -/
def graphEnded (s : State) (f : Nat) (n : Nat × Nat) : Bool :=
  match objOf s f .launch n.1 with
  | none => true
  | some o => o.gen != n.2 || (match objOf s f .graph o.parent with
    | some g => g.gen != o.parentGen || g.ended
    | none => true)

/-- Free the region entries that R311 frees. -/
def sweepRegions (s : State) (f : Nat) : State :=
  s.modFunc f (fun x => { x with regions := x.regions.filter (fun e =>
    let ns := e.writer.toList ++ e.readers
    !(ns.all (nodeEnded s f) && (e.replaced || ns.all (graphEnded s f)))) })

/-- Apply NREF (R308). -/
def applyRef (n : NodeEnt) (handles : List DWord) (r : LaunchRec) : LaunchRec :=
  let h := handles.getD n.refnode 0
  let put (mask : Nat) (m : NatMap DWord) : NatMap DWord :=
    (List.range 16).foldl (fun m i => if mask / 2 ^ i % 2 = 1 then NatMap.set 0 m i h else m) m
  { r with sinit := put n.sref r.sinit, qsinit := put n.qref r.qsinit }

/-- Create the nodes of a graph in their slots, with their edges, in node order (R308, R311). -/
def createNodes (f g addr : Nat) (handles : List DWord) : List (NodeEnt × Nat) → Nat → State → State
  | [], _, s => s
  | (n, slot) :: r, i, s =>
    let o : Obj := { newObj s f .launch slot g none false with deadline := n.deadline, dlCancel := n.nflags / 2 % 2 == 1 }
    let me : Nat × Nat := (slot, o.gen)
    let x := s.func f
    let l : LaunchSlot :=
      { obj := o, rcd := applyRef n handles (recordOf n.bytes), regions := n.regions, devlnch := n.nflags % 2 == 1,
        arg := none, preds := deriveEdges x.regions me n.regions, readyAt := none, cohorts := 0, home := none,
        unitsDone := 0, runsDone := 0, ranges := [], relaunch := [] }
    let s1 := s.setFunc f { x with
      launches := NatMap.set none x.launches slot (some l), regions := recordRegions x.regions me n.regions }
    let s2 := (deviceWriteOr s1 f (addr + 48 + 32 * i) 2 (leBytes 8 (handles.getD i 0).toNat)).2
    createNodes f g addr handles r (i + 1) s2

/-- A node with an edge from a cancelled node is cancelled in turn (R316). -/
def spreadCancel (s : State) (f : Nat) : State :=
  (s.func f).launches.foldl (fun st p => match p.2 with
    | some l => if !l.obj.ended && l.obj.cancelAt.isNone && l.readyAt.isNone && edgeCancelled st f l then
        markCancel st f (.launch, p.1) else st
    | none => st) s

/-- Create a checked graph; none where it must wait for slots or region entries (R306). -/
def createGraph (s : State) (f phase entry addr : Nat) (irq : Bool) (nodes : List NodeEnt) : Option State :=
  let need := nodes.foldl (fun n x => n + x.regions.length) 0
  let s0 := sweepRegions s f
  match firstFree s0 f .graph with
  | none => none
  | some g =>
    let o : Obj := { newObj s0 f .graph g phase (some entry) irq with st := .running }
    let s1 := s0.modFunc f (fun x => { x with graphs := NatMap.set none x.graphs g (some ⟨o, []⟩) })
    let slots := (freeSlots s1 f .launch).take nodes.length
    if slots.length < nodes.length ∨ 4096 < (s1.func f).regions.length + need then none
    else
      let handles := slots.map (fun i => handleOf .launch (newObj s1 f .launch i g none false).gen i)
      let s2 := s1.modFunc f (fun x => { x with graphs := NatMap.set none x.graphs g (some ⟨o, slots⟩) })
      let s3 := createNodes f g addr handles (nodes.zip slots) 0 s2
      some (spreadCancel (acceptCmd s3 f entry (handleOf .graph o.gen g)) f)

/-- GRAPH (R308, R309). -/
def execGraph (f : Nat) (s : State) : Host.Outcome State Fault Refusal :=
  command "GRAPH" 3 f s (fun e b irq s1 =>
    let addr := (argOf b 1).toNat
    if addr % 64 ≠ 0 then some (answerCmd s1 f e irq badCommand 0)
    else
      match handleFor s1 f (argOf b 0) [.phase] true with
      | none => some (answerCmd s1 f e irq badHandle 0)
      | some (_, p, _) =>
        match readGraph f addr s1 with
        | (.inl x, s2) => some (answerCmd s2 f e irq x.code x.detail)
        | (.inr nodes, s2) =>
          if 4096 < nodes.foldl (fun n x => n + x.regions.length) 0 then some (answerCmd s2 f e irq noSpace 0)
          else createGraph s2 f p e addr irq nodes)

-- Invalidations (R231).

/-- Does an entry's page meet the range? Stage-2 ranges are guest physical: every entry of the function is dropped for them.
[DEDUCED, log 45] -/
def invalHits (i : InvalOp) (e : TlbEntry) : Bool :=
  e.func == i.func && (i.stage == 1 || (decide (i.lo < 4096 * (e.vpn + e.pages)) && decide (4096 * e.vpn < i.hi)))

/-- [DEDUCED, log 45] -/
def dropTlb (s : State) (i : InvalOp) : State := keepTlbs s (fun e => !invalHits i e)

def vaHits (i : InvalOp) (f va : Nat) : Bool := f == i.func && (i.stage == 1 || (decide (i.lo ≤ va) && decide (va < i.hi)))

/-- INVAL (R231, R304): the invalidation starts, and waits for the accesses under way. -/
def execInval (f : Nat) (s : State) : Host.Outcome State Fault Refusal :=
  command "INVAL" 7 f s (fun e b irq s1 =>
    let lo := (argOf b 0).toNat
    let len := (argOf b 1).toNat
    let stage := (argOf b 2).toNat % 2
    let named := (bits (argOf b 2) 32 16).toNat
    let target := if f = 0 then named else f
    if lo % 4096 ≠ 0 ∨ len % 4096 ≠ 0 ∨ len = 0 ∨ (f ≠ 0 ∧ (stage = 1 ∨ (named ≠ 0 ∧ named ≠ f))) ∨ !funcExists s1 target then
      some (answerCmd s1 f e irq badCommand 0)
    else
      let id := s1.nextSeq
      let i0 : InvalOp := ⟨id, target, stage, lo, lo + len, [], f, e, irq⟩
      let hit := (s1.tlbs.flatMap Prod.snd).filter (invalHits i0)
      let i : InvalOp := { i0 with
        waits := (s1.sent.filter (fun q => vaHits i0 q.func q.va || hit.any (fun e => e.covers q.func q.va))).map (·.id) }
      let s2 := dropTlb { s1 with nextSeq := id + 1, invals := s1.invals ++ [i] } i
      some (acceptCmd s2 f e 0))

/-- Has the operation still bytes to move by a translation that the range covers (R231)? -/
def usesPin (s : State) (i : InvalOp) (o : EngineOp) : Bool :=
  match s.unit? o.uid with
  | some u => o.pins.any (fun e => invalHits i e && pinNeeded o u e)
  | none => false

/-- Has every access that the invalidation waits for been performed, those of store buffers and of copies included?
[DEDUCED, log 45] -/
def invalDone (s : State) (i : InvalOp) : Bool :=
  !s.sent.any (fun q => i.waits.contains q.id) && !s.engineOps.any (usesPin s i)
    && s.units.all (fun p => match p.2 with
      | some u => u.buffer.all (fun w => !vaHits i u.func w.va)
      | none => true)

/-- INVAL_COMPLETE (R231): DONE is written, and waiting fault records are tried again (R372). -/
def execInvalComplete (id : Nat) (s : State) : Host.Outcome State Fault Refusal :=
  match s.invals.find? (fun i => i.id == id) with
  | none => notNow "INVAL_COMPLETE"
  | some i =>
    if invalDone s i then
      let s1 := dropTlb { s with invals := s.invals.filter (fun j => j.id != id) } i
      done (retryFaults (writeStatus s1 i.issuer i.entry i.irq true 0 0) i.func)
    else notNow "INVAL_COMPLETE"

end Sys2Proof.Machine
end

