-- ==== Sys2Proof/Machine/Sequencer.lean ====
section
/-! DEFINITION. The graph sequencer's events (R298, R312, R314 to R317, R331) and answers to faults (R234, R297). -/

namespace Sys2Proof.Machine

/-- NODE_START (R312, R314): every edge is met, an LNCH has arrived where the node waits for one, and the node is not
cancelled. HOST regions that it reads are cleaned; then its cohorts may start. -/
def execNodeStart (f idx : Nat) (s : State) : Host.Outcome State Fault Refusal :=
  match launchOf s f idx with
  | none => notNow "NODE_START"
  | some l =>
    if l.readyAt.isSome || l.obj.ended || l.obj.cancelAt.isSome || !edgesMet s f l || (l.devlnch && l.arg.isNone) then
      notNow "NODE_START"
    else done (modLaunch (readerClean s f l) f idx (fun x => { x with readyAt := some s.clock }))

/-- May a cancelled launch's context stop: it stands at a run boundary with C equal to I? -/
def ctxStopped (c : Ctx) : Bool := (c.front.j == 0 || c.exiting) && c.tl.c == c.tl.i

/-- Does a group stand at its run boundary, with every word that it has issued done (R184)? -/
def groupStopped (g : Group) : Bool :=
  g.front.j == 0 && g.front.unfinished == [] && (match g.front.hold with
    | some (.replayFault _) | some (.range _) => false
    | _ => true)

/-- Have the units and contexts of a cancelled launch stopped (R184)? -/
def launchStopped (s : State) (f idx : Nat) : Bool :=
  (unitsOfLaunch s f idx).all (fun p => (unitSlots s p.1).all (fun sl => match s.group? p.2.core sl with
      | some g => groupStopped g
      | none => true) && enginesIdle s p.1 p.2 && !unitSends s p.1)
    && (ctxsOfLaunch s f idx).all (fun p => ctxStopped p.2)

/-- Take away the units and contexts of a cancelled launch, with its saved images. What they have issued is performed. -/
def removeLaunch (s : State) (f idx : Nat) : State :=
  let stop (st : State) (p : Nat × Unit_) : State := freeUnit (performUnit (performBuffer st p.1) p.1 p.2) p.1
  let s1 := (unitsOfLaunch s f idx).foldl stop s
  let stopCtx (st : State) (p : Nat × Ctx) : State :=
    ({ st with faults := st.faults.filter (fun r => match r.src with
      | .agent (.quartz cl c) _ => 8 * cl + c != p.1
      | _ => true) }).modCtx (p.1 / 8) (p.1 % 8) (fun c => { c with ended := true })
  let s2 := (ctxsOfLaunch s1 f idx).foldl stopCtx s1
  let imgs := ((s2.func f).saved.filter (fun i => i.launch == idx)).map (·.id)
  let s3 := { s2 with faults := s2.faults.filter (fun r => match r.src with
    | .saved g k _ => !(g == f && imgs.contains k)
    | _ => true) }
  s3.modFunc f (fun x => { x with
    saved := x.saved.filter (fun i => i.launch != idx)
    savedCtxs := x.savedCtxs.filter (fun c => c.st.launch != idx) })

/-- Clusters on which a launch stands. -/
def launchClusters (s : State) (f idx : Nat) : List Nat :=
  ((unitsOfLaunch s f idx).map (fun (p : Nat × Unit_) => p.2.core / 4)
    ++ (ctxsOfLaunch s f idx).map (fun (p : Nat × Ctx) => p.1 / 8)).eraseDups

/-- A cancelled launch ends (R184, R316). -/
def endCancelled (s : State) (f idx : Nat) : State :=
  let cls := launchClusters s f idx
  let s1 := freeLaunch (removeLaunch s f idx) f idx
  let s2 := spreadCancel (endObj s1 f .launch idx true) f
  cls.foldl settleTurn s2

/-- How the children of an object stand: none while one has not ended, else whether every one completed, those whose slots have
been taken again included (R315). -/
def childrenEnded (s : State) (f : Nat) (lv : Level) (i : Nat) : Option Bool :=
  let cs := (childrenOf s f lv i).filterMap (fun c => objOf s f c.1 c.2)
  if cs.all Obj.ended then some (cs.all (fun o => !o.isCancelled) && !((objOf s f lv i).any (·.lost))) else none

/-- WORK_OBJECT_END (R184, R304, R315): a cancelled launch whose units have stopped, a graph whose nodes have ended, or a
closed phase or job whose children have ended. -/
def execWorkObjectEnd (f : Nat) (level : Level) (idx : Nat) (s : State) : Host.Outcome State Fault Refusal :=
  match objOf s f level idx with
  | none => notNow "WORK_OBJECT_END"
  | some o =>
    if o.ended then notNow "WORK_OBJECT_END"
    else
      match level with
      | .launch => if o.cancelAt.isSome && launchStopped s f idx then done (acceptRest (endCancelled s f idx) f)
        else notNow "WORK_OBJECT_END"
      | lv =>
        let needClosed : Bool := match lv with
          | .graph => false
          | _ => !o.closed
        match childrenEnded s f lv idx with
        | none => notNow "WORK_OBJECT_END"
        | some all =>
          if needClosed then notNow "WORK_OBJECT_END"
          else
            let cancelled := !all || (o.cancelAt.isSome && childrenOf s f lv idx == [] && o.count == 0)
            let s1 := match levelAbove lv with
              | some up => if cancelled then s else countChild s f up o.parent
              | none => s
            done (acceptRest (endObj s1 f lv idx cancelled) f)

/-- A deadline expires (R298, R317): one event, bit 4 of .st, and a cancellation when asked for. -/
def expire (s : State) (f : Nat) (lv : Level) (idx : Nat) (row : String) : Host.Outcome State Fault Refusal :=
  match objOf s f lv idx with
  | none => notNow row
  | some o =>
    match o.expiry with
    | none => notNow row
    | some c =>
      if o.ended || o.expired || decide (s.clock < c) then notNow row
      else
        let s1 := modObj s f lv idx (fun q => { q with events := q.events + 1, expired := true })
        done (if o.dlCancel then cancelObj s1 f lv idx else s1)

/-- NODE_DEADLINE_EXPIRE (R317). -/
def execNodeDeadlineExpire (f idx : Nat) (s : State) : Host.Outcome State Fault Refusal :=
  expire s f .launch idx "NODE_DEADLINE_EXPIRE"

/-- PHASE_DEADLINE_EXPIRE (R317). -/
def execPhaseDeadlineExpire (f idx : Nat) (s : State) : Host.Outcome State Fault Refusal :=
  expire s f .phase idx "PHASE_DEADLINE_EXPIRE"

/-- CANCEL_HANG (R331): 100 ms after a CNCL or a CANCEL of it the object has not ended. -/
def execCancelHang (f : Nat) (level : Level) (idx : Nat) (s : State) : Host.Outcome State Fault Refusal :=
  match objOf s f level idx with
  | some o => (match o.asked with
    | some c => if !o.ended && decide (140000000 ≤ s.clock - c) then done (fatal s f 5 0) else notNow "CANCEL_HANG"
    | none => notNow "CANCEL_HANG")
  | none => notNow "CANCEL_HANG"

-- Answers (R234).

/-- The unanswered fault that a TAG names in the log of a function. -/
def answered (s : State) (f : Nat) (tag : BitVec 32) : Option FaultRec :=
  s.faults.find? (fun r => r.log == f && r.written && !r.info && r.held.isNone && r.tag == tag.toNat)

def dropFault (s : State) (r : FaultRec) : State :=
  let s1 := { s with faults := s.faults.filter (fun q => q.id != r.id) }
  s1.modFunc r.func (fun x => { x with idleSince := s.clock })

/-- A group's held word is issued again, with its captured operands (R234, R323); behind older unfinished words it stands
with them. [DEDUCED, log 38] -/
def retryWord (s : State) (a : Agent) (e : ReplayEntry) : Host.Outcome State Fault Refusal :=
  let s1 := modFront s a (fun fr => { fr with hold := none })
  match e.instr, agentLaunch s1 a with
  | some i, some (f, _) =>
    let c := entryCap s1 a i e
    if (frontOf s1 a).any (fun fr => fr.unfinished != []) then done (standBy s1 a i { e with stat := 0 } c.i1)
    else finish s1 a c (c.uid s1) f (runEntry s1 a i e)
  | _, _ => done s1

/-- DELIVER to a group: the translation trap 0x18 with the word as its entry, or the fetch trap 0x19 (R234, R319).
[DEDUCED, log 38] -/
def deliver (s : State) (a : Agent) (r : FaultRec) : State :=
  match frontOf s a with
  | none => s
  | some fr =>
    let s1 := modFront s a (fun q => { q with hold := none })
    let uid := ((groupOf s a).map (·.uid)).getD 0
    match fr.hold with
    | some (.fault _ (some e)) => (match e.instr with
      | some i => trapWord s1 a (entryCap s1 a i e) ((entryCap s1 a i e).uid s1) 0x18 r.va r.lanes
      | none => s1)
    | some (.fault _ none) =>
      takeTrap s1 a (standingEntries fr) ⟨0x19, r.va, presentMask s a, none, [], fr.pc, fr.j, true⟩
    | some (.standing _) => (match standingEntries fr with
      | e :: q => takeTrap s1 a [] ⟨0x18, r.va, r.lanes, some { e with stat := 0x18 }, q, fr.pc, fr.j, true⟩
      | [] => s1)
    | some (.replayFault _) => (match fr.replay with
      | e :: q => retrap (countRun s1 a uid) a ({ e with stat := 0x18 } :: q) 0x18 r.va r.lanes
      | [] => s1)
    | _ => s1

/-- The end of an operation in error, or its continuation (R130, R234). -/
def answerOp (s : State) (id : Nat) (err : Bool) : State :=
  modOp s id (fun o => { o with waiting := none, err := o.err || err })

/-- The answer is held for a saved unit or operation (R297): 0 RETRY, 1 DELIVER, 2 ABORT. -/
def holdAnswer (s : State) (r : FaultRec) (act : Nat) : State :=
  let s1 : State := { s with faults := s.faults.map (fun q => if q.id = r.id then { q with held := some act } else q) }
  s1.modFunc r.func (fun x => { x with idleSince := s.clock })

/-- Does the answer to a fault wait: the unit or context that met it is saved (R297)? -/
def answerWaits (s : State) (r : FaultRec) : Bool :=
  match r.src with
  | .saved g n _ => (s.func g).saved.any (fun i => i.id == n)
    || (s.func g).savedCtxs.any (fun c => decide (2 ^ 32 + 8 * c.cluster + c.ctx = n))
  | _ => false

/-- The register's fields after a write that names an unanswered fault. -/
def setFanswer (s : State) (f act : Nat) (tag : BitVec 32) : State :=
  s.modFunc f (fun x => { x with fanswer := BitVec.ofNat 64 (act * 2 ^ 34 + tag.toNat) })

/-- An answer: the write is ignored when the TAG names no unanswered fault whose record has been written. -/
def answer (row : String) (f act : Nat) (tag : BitVec 32) (s : State)
    (k : State → FaultRec → Host.Outcome State Fault Refusal) : Host.Outcome State Fault Refusal :=
  regWrite row f s (match answered s f tag with
    | none => done s
    | some r =>
      let s1 := setFanswer s f act tag
      if answerWaits s r then done (holdAnswer s1 r act) else k (dropFault s1 r) r)

/-- FANSWER_RETRY (R234). -/
def execFanswerRetry (f : Nat) (tag : BitVec 32) (s : State) : Host.Outcome State Fault Refusal :=
  answer "FANSWER_RETRY" f 0 tag s (fun s1 r =>
    match r.src with
    | .op id => done (answerOp s1 id false)
    | .agent a _ => (match (frontOf s1 a).bind (·.hold) with
      | some (.fault _ (some e)) => retryWord s1 a e
      | _ => done (modFront s1 a (fun fr => { fr with hold := none })))
    | .saved _ _ _ => done s1)

/-- FANSWER_DELIVER (R234). -/
def execFanswerDeliver (f : Nat) (tag : BitVec 32) (s : State) : Host.Outcome State Fault Refusal :=
  answer "FANSWER_DELIVER" f 1 tag s (fun s1 r =>
    match r.src with
    | .op id => done (answerOp s1 id true)
    | .agent a _ => done (deliver s1 a r)
    | .saved _ _ _ => done s1)

/-- FANSWER_ABORT (R234, R331). The threads of a group that a save dissolved at its fault fetch again: of the answers, only this one
acts on them. [DEDUCED, log 53] -/
def execFanswerAbort (f : Nat) (tag : BitVec 32) (s : State) : Host.Outcome State Fault Refusal :=
  answer "FANSWER_ABORT" f 2 tag s (fun s1 r =>
    match r.src with
    | .op id => done (answerOp s1 id true)
    | .agent a _ => done (fatal s1 r.func 3 a.site)
    | .saved _ _ _ => done (fatal s1 r.func 3 r.site))

end Sys2Proof.Machine
end

