-- ==== Sys2Proof/Machine/Clock.lean ====
section
/-! DEFINITION. The clock (R18, R90): in what order the turns of one clock stand, and which clocks cannot pass before what
falls in them has happened. -/

namespace Sys2Proof.Machine

/-- Place of a sent request: that of the quadrant that sent it, or behind all agents for an engine (R235, R239). -/
def sentRank (q : Sent) : Option Nat :=
  match q.by_ with
  | .thread _ _ => some (2 ^ 20 + 4 * q.core + q.quad)
  | .engine _ => some (3 * 2 ^ 20 + q.core / 4)
  | .device | .host | .fabric => none

/-- A place among the `n` from `lo` on, no earlier than the present one where that is among them. -/
def within (s : State) (lo n : Nat) : Nat := if lo ≤ s.rank ∧ s.rank < lo + n then s.rank else lo

/-- The place of a read at its home: of some quadrant of the core, or of some engine of the die (R239). -/
def readRank (s : State) : Requester → Option Nat
  | .core c => some (within s (2 ^ 20 + 4 * c) 4)
  | .die d => some (within s (3 * 2 ^ 20 + 16 * d) 16)
  | .host => none

/-- The place of an event among what happens in one clock: completions (R312), then quadrants and Quartz contexts, then
engines by cluster (R239, R250), then BWAIT (R137), then host commands, doorbells and deadlines (R298, R312), then start decisions and
the end of an idle time (R312, R350). Other events have no fixed place. [DEDUCED, log 69] -/
def eventRank (s : State) (i : Instr) : Option Nat :=
  let ofSent (id : Nat) : Option Nat := (s.sent.find? (fun q => q.id == id)).bind sentRank
  let engine (cl : Nat) : Option Nat := some (3 * 2 ^ 20 + cl)
  let ofOp (id : Nat) : Option Nat := engine (((s.engineOps.find? (fun o => o.id == id)).map (fun o => o.core / 4)).getD 0)
  match i with
  | .unitComplete uid => (match s.unit? uid with
    | some u => if u.buffer = [] then some 0 else some (within s (2 ^ 20 + 4 * u.core) 4)
    | none => some 0)
  | .quartzContextEnd _ _ | .launchComplete _ _ | .workObjectEnd _ _ _ => some 0
  | .homeWriteRequest id | .homeAtomic id | .updRegistration id | .homeCwb id => ofSent id
  | .homeReadRequest _ who => readRank s who
  | .copyBytesLand op _ _ | .copyComplete op | .gatherComplete op => ofOp op
  | .topkComplete core => engine (core / 4)
  | .matrixGrant cl _ | .matrixOperationComplete cl _ | .prefetchHintFill cl => engine cl
  | .job _ | .phase _ | .graph _ | .close _ | .cancel _ | .wait _ | .inval _ | .ctxswSave _ | .ctxswResume _
  | .cqtailWrite _ _ | .nodeDeadlineExpire _ _ | .phaseDeadlineExpire _ _ => some (6 * 2 ^ 20)
  | .nodeStart _ _ | .cohortStart _ | .unitRestore _ _ _ | .collapseBegin _ => some (7 * 2 ^ 20)
  | _ => none

/-- Is the constructor an instruction word, and no event? -/
def isWord (i : Instr) : Bool := (encode i).isSome

/-- An event of the agenda, in its place in the clock; an instruction word is none.
[DESIGN CHOICE, log 1; DESIGN CHOICE, log 12] -/
def runEvent (run : Instr → State → Host.Outcome State Fault Refusal) (i : Instr) (s : State) :
    Host.Outcome State Fault Refusal :=
  if isWord i then .refused (.notEnabled "no agent")
  else
    match eventRank s i with
    | none => run i { s with upset := 0 }
    | some r => if s.rank ≤ r then run i { s with upset := 0, rank := r } else .refused (.notEnabled "ORDER")

-- Clocks that hold something (R157, R251, R298, R317).

/-- The deadline of an object that has neither ended nor expired falls before clock `now`. -/
def deadlineDue (now : Nat) (o : Obj) : Bool :=
  match o.expiry with
  | some c => !o.ended && !o.expired && decide (c < now)
  | none => false

/-- Would the clock `now` come while a deadline of an earlier clock has still to act (R298, R317)? -/
def deadlinesHold (s : State) (now : Nat) : Bool :=
  s.funcs.any (fun p =>
    p.2.launches.any (fun q => q.2.any (fun l => deadlineDue now l.obj))
      || p.2.phases.any (fun q => q.2.any (fun x => deadlineDue now x.obj)))

/-- Would the clock `now` come while a die that holds a line has still to apply a write to it that was performed more than 20
microseconds before (R251)? The bound does not run while a fault is unanswered. -/
def writesHold (s : State) (now : Nat) : Bool :=
  s.faults == [] && s.performed.any (fun w => decide (w.at_ + 28000 < now)
    && w.pending.any (fun h => decide (h < 4) && holds s h (secOf w.pa)))

/-- The first microsecond boundary from now on whose refill has not been made (R157). -/
def nextRefill (s : State) : Nat :=
  if s.clock ≠ 0 ∧ s.clock % 1400 = 0 ∧ s.refilled ≠ micros s + 1 then s.clock else (s.clock / 1400 + 1) * 1400

/-- Would the clock `now` come before a refill that contexts in service are due (R157)? -/
def refillHolds (s : State) (now : Nat) : Bool :=
  s.ctxs.any (fun p => p.2.any (fun c => !c.ended)) && decide (nextRefill s < now)

/-- May the clock advance to `now`? -/
def clockFree (s : State) (now : Nat) : Bool := !deadlinesHold s now && !writesHold s now && !refillHolds s now

/-- Clocks pass. -/
def passClock (s : State) (n : Nat) : State := if n = 0 then s else { s with clock := s.clock + n, rank := 0 }

/-- With nothing on the agenda one clock passes, and the current agent, when there is one, issues, unless another run holds
its quadrant; everything else stalls. [DESIGN CHOICE, log 1] -/
def idleStep (run : Instr → State → Host.Outcome State Fault Refusal) (s : State) : Host.Outcome State Fault Refusal :=
  if !clockFree s (s.clock + 1) then .refused (.notEnabled "CLOCK")
  else
    let s1 := { passClock s 1 with upset := 0, later := false }
    match s.cur with
    | some a =>
      if (frontOf s1 a).isSome && mayIssue s1 a (List.range 32) then issueTurn run a (List.range 32) s1 else .next s1
    | none => .next s1

/-- While a function stands collapsed, steps 4 to 6 of R349 stand after each step as their conditions do. -/
def settlePower (s : State) : State :=
  if s.fcfg.any (fun p => p.2.en && isCollapsed s p.1) then flushReports (updatePower s) else s

/-- What a step leaves, once its error records are in their logs (R361), the bins that it spilled lie in the save area (R197), the gates of collapsed functions stand as
their conditions do (R349), and it is noted which units stand in no slot (R195). -/
def settled (o : Host.Outcome State Fault Refusal) : Host.Outcome State Fault Refusal :=
  match o with
  | .next s => .next (noteIdle (settlePower (settleSpills (flushReports s))))
  | o => o

/-- The clocks of a turn pass, then its issue, its finish or its event happens.
[DESIGN CHOICE, log 1; DESIGN CHOICE, log 15] -/
def takeStep (run : Instr → State → Host.Outcome State Fault Refusal) (s : State) : Host.Outcome State Fault Refusal :=
  match s.agenda with
  | [] => settled (idleStep run s)
  | t :: r =>
    if t.dt ≠ 0 ∧ clockFree s (s.clock + t.dt) = false then .refused (.notEnabled "CLOCK")
    else
      let s1 := passClock { s with agenda := r } t.dt
      settled (match t.act with
        | .issue a upset stalls later => issueTurn run a stalls { s1 with cur := some a, upset := upset, later := later }
        | .finish a => finishTurn a s1
        | .event i => runEvent run i s1)

end Sys2Proof.Machine
end

