-- ==== Sys2Proof/Machine/Homes.lean ====
section
/-! DEFINITION. What happens at homes and in views (R240, R251, R283 to R294), host accesses (R249, R293), fabric messages
(R343, R350) and errors in data (R299, R355). -/

namespace Sys2Proof.Machine

/-- An access within one sector: its address and its length. -/
structure Piece where
  at_ : Nat
  len : Nat
deriving DecidableEq, Repr

/-- A run of bytes, sector by sector. -/
def sectorPieces : Nat → Nat → Nat → List Piece
  | 0, _, _ => []
  | n + 1, pa, len =>
    if len = 0 then []
    else
      let k := min len (64 - pa % 64)
      ⟨pa, k⟩ :: sectorPieces n (pa + k) (len - k)

def piecesOf (pa len : Nat) : List Piece := sectorPieces (len / 64 + 2) pa len

/-- The host's copy of a sector: a visitor copy of a fifth view holder (R249, R293). -/
def hostFill (s : State) (sec : Nat) : State :=
  let s1 := readReq s sec (some 4)
  let old := (predsOf s1 (64 * sec) 64).filter (fun i => !s1.performed.any (fun w => w.id == i && secOf w.pa == sec))
  let s2 := strikeSector (catchUp s1 4 old) 4 sec
  { s2 with hostView := NatMap.setRange 0 s2.hostView (64 * sec) (homeBytes s2 (64 * sec) 64) }

/-- The whole line into the host's cache. -/
def hostLine (s : State) (pa : Nat) : State :=
  (List.range 4).foldl (fun st i => hostFill st (4 * lineOf pa + i)) s

/-- The function whose request a read of a line is, for the line's count (R226): the one that the core's cluster serves, or the first
that maps it. [DESIGN CHOICE, log 28] -/
def readerFunc (s : State) (pa : Nat) : Requester → Nat
  | .core c => ((s.cluster (c / 4)).serving).getD 0
  | _ => ((mappedBy s pa).map (fun p => p.1)).getD 0

/-- HOME_READ_REQUEST (R284): a read of a sector is served: merge, fill from memory, state; a visitor's fill is queued. A merge that
poisons the line gives the read nothing (R294). -/
def execHomeReadRequest (pa : Nat) (who : Requester) (s : State) : Host.Outcome State Fault Refusal :=
  let sec := secOf pa
  if !populated pa || homeOf s pa == 4 || poisoned s pa then notNow "HOME_READ_REQUEST"
  else
    let f := readerFunc s pa who
    let s1 := merge s sec
    let visit (d : Nat) : State :=
      if d = homeOf s pa then readReq (useView s1 d f pa) sec none
      else if holds s d sec then s
      else queueFill (readReq (useView s1 d f pa) sec (some d)) d sec
    let read : Option State := match who with
      | .core c => some (visit (dieOfCore c))
      | .die d => if d < 4 then some (visit d) else none
      | .host => some (if s.boot.h1c then hostLine (useHome s1 0 pa) pa else readReq (useHome s1 0 pa) sec none)
    match read with
    | some t => done (if poisoned s1 pa then s1 else t)
    | none => notNow "HOME_READ_REQUEST"

/-- A request in flight that may be performed next, of a kind. [DEDUCED, log 55] -/
def nextSent (s : State) (id : Nat) (p : SentKind → Bool) : Option Sent :=
  match s.sent.find? (fun q => q.id == id) with
  | some q => if p q.kind && sentReady s q then some q else none
  | none => none

/-- Perform one request of `sent`. [DEDUCED, log 55] -/
def serveSent (row : String) (s : State) (id : Nat) (p : SentKind → Bool) : Host.Outcome State Fault Refusal :=
  match nextSent s id p with
  | some q => done (perform1 s q.id)
  | none => notNow row

def kindWrite : SentKind → Bool
  | .write _ => true
  | _ => false
def kindAtomic : SentKind → Bool
  | .red _ _ _ | .upd _ _ => true
  | _ => false
def kindRegister : SentKind → Bool
  | .register _ _ => true
  | _ => false
def kindClean : SentKind → Bool
  | .clean _ => true
  | _ => false

/-- HOME_WRITE_REQUEST (R284). -/
def execHomeWriteRequest (id : Nat) (s : State) : Host.Outcome State Fault Refusal :=
  serveSent "HOME_WRITE_REQUEST" s id kindWrite

/-- HOME_ATOMIC (R292): a RED, or a UPD that is performed at its home. -/
def execHomeAtomic (id : Nat) (s : State) : Host.Outcome State Fault Refusal :=
  serveSent "HOME_ATOMIC" s id kindAtomic

/-- UPD_REGISTRATION (R284, R285). -/
def execUpdRegistration (id : Nat) (s : State) : Host.Outcome State Fault Refusal :=
  serveSent "UPD_REGISTRATION" s id kindRegister

/-- HOME_CWB (R116, R284). -/
def execHomeCwb (id : Nat) (s : State) : Host.Outcome State Fault Refusal :=
  serveSent "HOME_CWB" s id kindClean

/-- The host home learns that a die has dropped a line (R283, R293). -/
def hostHomeNotice (s : State) (die line : Nat) : State :=
  let s1 := (List.range 4).foldl (fun st i => strikeSector st die (4 * line + i)) s
  { s1 with hostHeld := NatMap.set 0 s1.hostHeld line (NatMap.get 0 s1.hostHeld line &&& ~~~(1#4 <<< die)) }

/-- DROP_NOTICE (R283, R293): the die holds a sector of the line no longer, while the home still names it. -/
def execDropNotice (die line : Nat) (s : State) : Host.Outcome State Fault Refusal :=
  let gone (sec : Nat) : Bool :=
    let e := dirOf s sec
    e.st == .s && decide (die < 4) && e.dies.getLsbD die && !holds s die sec && !(s.die die).fills.contains sec
  if homeOf s (256 * line) = 4 then
    (if die < 4 ∧ (NatMap.get 0 s.hostHeld line).getLsbD die = true ∧ (List.range 4).all (fun i =>
        !holds s die (4 * line + i) && !(s.die die).fills.contains (4 * line + i)) = true
     then done (hostHomeNotice s die line) else notNow "DROP_NOTICE")
  else if (List.range 4).any (fun i => gone (4 * line + i)) && (List.range 4).all (fun i => !(s.die die).fills.contains (4 * line + i))
  then done (dropNotice s die line) else notNow "DROP_NOTICE"

/-- WRITE_APPLY (R240): the next write from a home on a die to a holder of copies (4 is the coherent host) is applied, when its
predecessors have been. The host home's come as HOST_HOME_UPDATE. -/
def execWriteApply (die home : Nat) (s : State) : Host.Outcome State Fault Refusal :=
  match s.performed.find? (fun w => w.pending.contains die && decide (home < 4) && homeOf s w.pa == home) with
  | some w => if appliedAt s die (w.preds.filter (fun i => i != w.id)) then done (applyOne die s w) else notNow "WRITE_APPLY"
  | none => notNow "WRITE_APPLY"

/-- LINE_FILL (R240): the queued fills of a line enter the die's view, when the predecessors of what they hold have been
applied there. -/
def execLineFill (die line : Nat) (s : State) : Host.Outcome State Fault Refusal :=
  let secs := (s.die die).fills.filter (fun q => q / 4 == line)
  let waits (sec : Nat) : List Nat :=
    (predsOf s (64 * sec) 64).filter (fun i => !s.performed.any (fun w => w.id == i && secOf w.pa == sec))
  if secs = [] ∨ secs.any (fun q => !appliedAt s die (waits q)) = true then notNow "LINE_FILL"
  else done (secs.foldl (fun st q =>
    completeFill st die q (if homeOf st (64 * q) = 4 then NatMap.getRange 0 st.mem (64 * q) 64 else homeBytes st (64 * q) 64)) s)

/-- L1_COPY_EXPIRE (R251): an L1 drops an S copy, at the latest 65,536 clocks after its fill. -/
def execL1CopyExpire (core sector : Nat) (s : State) : Host.Outcome State Fault Refusal :=
  match NatMap.get none (s.core core).l1 sector with
  | some _ => done (dropL1Sec s core sector)
  | none => notNow "L1_COPY_EXPIRE"

/-- PARTIAL_EVICT (R287): a core's registered partial moves to its die's collector. -/
def execPartialEvict (core sector : Nat) (s : State) : Host.Outcome State Fault Refusal :=
  if (partialOf s core sector).isNone || s.sent.any (isRegister core sector) then notNow "PARTIAL_EVICT"
  else done (partialOut s core sector)

/-- COLLECTOR_EVICT (R287): the die's partial is combined into the base, and the die's tracking goes. -/
def execCollectorEvict (die sector : Nat) (s : State) : Host.Outcome State Fault Refusal :=
  if (collectorOf s die sector).isNone || (dirOf s sector).st != .u then notNow "COLLECTOR_EVICT"
  else done (collectorOut s die sector)

-- Directory errors (R294).

/-- The enabled partition that owns the memory of a line (R294, R340): none for the second tier and for host memory. -/
def lineOwner (s : State) (line : Nat) : Option Nat :=
  if isHbm (256 * line) then
    (List.range 20).find? (fun p => (s.part p).en && (s.part p).chan.getLsbD (channelOf (256 * line)))
  else none

/-- The cores, and the dies, to which a recall of a line goes (R294). -/
def recalledCores (s : State) (line : Nat) : List Nat :=
  match lineOwner s line with
  | some p => s.coreKeys.filter (fun c => (s.part p).clus.getLsbD (c / 4))
  | none => s.coreKeys
def recalledDies (s : State) (line : Nat) : List Nat :=
  match lineOwner s line with
  | some p => (List.range 4).filter (fun d => (List.range 16).any (fun i => (s.part p).clus.getLsbD (16 * d + i)))
  | none => List.range 4

/-- The cores whose partial of a sector the recall meets: not one whose registration is on its way, which waits behind it (R288). -/
def partialCores (s : State) (sec : Nat) : List Nat :=
  (recalledCores s (sec / 4)).filter (fun c => !s.sent.any (isRegister c sec))

/-- Every partial of a sector that the recall meets, at cores and collectors. -/
def allPartials (s : State) (sec : Nat) : List Partial :=
  (partialCores s sec).filterMap (fun c => partialOf s c sec)
    ++ (recalledDies s (sec / 4)).filterMap (fun d => (collectorOf s d sec).bind (·.part))

/-- Does every S copy of a sector that the recall meets equal the home's data? -/
def copiesEqual (s : State) (sec : Nat) : Bool :=
  let here := homeBytes s (64 * sec) 64
  (recalledDies s (sec / 4)).all (fun d => !holds s d sec || NatMap.getRange 0 (s.die d).view (64 * sec) 64 == here)
    && (!(dirOf s sec).host || NatMap.getRange 0 s.hostView (64 * sec) 64 == here)
    && (recalledCores s (sec / 4)).all (fun c => match l1Copy s c sec with
      | some x => x.data == here
      | none => true)

/-- The holders that the recall meets drop a sector's copies. -/
def dropCopies (s : State) (sec : Nat) : State :=
  let s1 := (recalledCores s (sec / 4)).foldl (fun st c => dropL1Sec st c sec) s
  let s2 := (recalledDies s (sec / 4)).foldl (fun st k => dropCopy st k sec) s1
  let s3 := setPerformed s2 (s2.performed.filter (fun w => secOf w.pa != sec))
  if (dirOf s3 sec).host then dropHostLine s3 (sec / 4) else s3

/-- They drop their partials of it. -/
def dropAllPartials (s : State) (sec : Nat) : State :=
  let s1 := (partialCores s sec).foldl (fun st c => if (partialOf st c sec).isSome then setPartial st c sec none else st) s
  (recalledDies s (sec / 4)).foldl (fun st d => if (collectorOf st d sec).isSome then setCollector st d sec none else st) s1

/-- Can the sector be rebuilt: one tag, equal copies, and no error in a partial? -/
def rebuildable (s : State) (sec : Nat) : Bool :=
  decide (((allPartials s sec).map (·.tag)).eraseDups.length ≤ 1) && copiesEqual s sec
    && (allPartials s sec).all (fun p => !p.bad)

/-- A sector rebuilt from the answers: merged under the one tag, and M. -/
def rebuildSector (s : State) (sec : Nat) : State :=
  if (dirOf s sec).st = .i then s
  else
    let s1 := dropCopies s sec
    match allPartials s sec with
    | [] => setDir s1 sec ⟨.m, false, 0, 0, 0, false⟩
    | p :: _ =>
      let ds := (List.range 4).map (fun k => if (recalledDies s (sec / 4)).contains k then
          ((partialCores s sec).filter (fun c => dieOfCore c == k)).foldl (fun P c => match partialOf s c sec with
            | some q => some (Partial.join P q)
            | none => P) ((collectorOf s k sec).bind (·.part))
        else none)
      setDir (ds.foldl (fun st d => combineBase st sec d) (setDir (dropAllPartials s1 sec) sec ⟨.u, true, p.tag, 0, 0, false⟩)) sec
        ⟨.m, false, 0, 0, 0, false⟩

/-- A sector poisoned after a recall: M, with the mark (R294). [DEDUCED, log 55] -/
def poisonRecalled (s : State) (sec : Nat) : State :=
  markSector (setDir (fillHome (dropAllPartials (dropCopies s sec) sec) sec) sec ⟨.m, false, 0, 0, 0, false⟩) sec

/-- DIRECTORY_ERROR (R294). -/
def execDirectoryError (line : Nat) (dataCorrect : Bool) (s : State) : Host.Outcome State Fault Refusal :=
  let secs := (List.range 4).map (fun i => 4 * line + i)
  if !populated (256 * line) || homeOf s (256 * line) == 4 || secs.all (fun q => (dirOf s q).st == .i) then
    notNow "DIRECTORY_ERROR"
  else if dataCorrect && secs.all (fun q => (dirOf s q).st == .i || rebuildable s q) then
    done ((secs.foldl rebuildSector s).report (directoryReport s line 2 0xFF))
  else
    let tag := match secs.flatMap (allPartials s) with
      | p :: _ => p.tag
      | [] => 0xFF
    done ((poisonLine poisonRecalled s line).report (directoryReport s line 3 tag))

-- The host (R249, R293).

/-- The host's accesses name no key slot (R346 has 1,024): they read and write a sector's data under the key in which it
stands. [DESIGN CHOICE, log 56] -/
def hostKey : Nat := 1024

/-- A sector under the boot key that the host writes takes the key of the next access. [DESIGN CHOICE, log 56] -/
def unbind (s : State) (sec : Nat) : State :=
  if isHost (64 * sec) ∨ NatMap.get .boot s.secKey sec ≠ .boot then s
  else { s with secKey := NatMap.set .boot s.secKey sec .unbound }

/-- Poison alone makes a host access fail. -/
def hostErr (s : State) (pa : Nat) : Option AccErr := if poisoned s pa then some .poison else none

/-- The record of an access by the host that gets an error response: consumer 4 (R356). -/
def hostError (s : State) (e : AccErr) (pa : Nat) : State :=
  let m := mappedBy s pa
  reportErr s e ((m.map (fun p => p.1)).getD 0) ((m.map (fun p => p.2)).getD 0) pa 0 (homeOf s pa) 4 0

/-- Before the host reads or writes its own memory over H0, a sector in U is merged, and stands in memory (R279, R289). -/
def hostMerge (s : State) (pa : Nat) : State :=
  if (dirOf s (secOf pa)).st = .u then throughSec (merge s (secOf pa)) (secOf pa) else s

/-- One piece of a host read: none where it meets an error. A line with a poisoned sector is not filled.
[DESIGN CHOICE, log 56; DESIGN CHOICE, log 57; DESIGN CHOICE, log 66] -/
def hostReadPiece (s : State) (p : Piece) : Option (List Byte) × State :=
  let sec := secOf p.at_
  if homeOf s p.at_ = 4 then (some (NatMap.getRange 0 s.mem p.at_ p.len), s)
  else if s.boot.h1c ∧ holds s 4 sec = true then (some (NatMap.getRange 0 s.hostView p.at_ p.len), s)
  else
    let s0 := hostMerge s p.at_
    let s1 := if isHost p.at_ then s0 else merge s0 sec
    match hostErr s1 p.at_ with
    | some e => (none, hostError s1 e p.at_)
    | none =>
      if isHost p.at_ then (some (NatMap.getRange 0 s1.mem p.at_ p.len), s1)
      else if s.boot.h1c ∧ (List.range 4).all (fun i => !s1.poison.contains (4 * lineOf p.at_ + i)) = true then
        let s2 := hostLine (useHome s1 0 p.at_) p.at_
        (some (NatMap.getRange 0 s2.hostView p.at_ p.len), s2)
      else
        let s2 := readReq (useHome s1 0 p.at_) sec none
        (some (homeBytes s2 p.at_ p.len), s2)

/-- HOST_READ (R284, R356). The bytes, or a poisoned completion, stand in hostData and hostPoisoned. -/
def execHostRead (pa n : Nat) (s : State) : Host.Outcome State Fault Refusal :=
  if n = 0 ∨ s.boot.state ≠ 1 ∨ populated pa = false ∨ populated (pa + n - 1) = false then notNow "HOST_READ"
  else
    let r := (piecesOf pa n).foldl (fun (acc : List Byte × Bool × State) p =>
      match hostReadPiece acc.2.2 p with
      | (some b, s1) => (acc.1 ++ b, acc.2.1, s1)
      | (none, s1) => (acc.1 ++ List.replicate p.len 0, true, s1)) ([], false, s)
    done { r.2.2 with hostData := if r.2.1 then [] else r.1, hostPoisoned := r.2.1 }

/-- One piece of a host write. [DESIGN CHOICE, log 56] -/
def hostWritePiece (s : State) (pa : Nat) (data : List Byte) : State :=
  if isHost pa ∧ homeOf s pa ≠ 4 then
    let s1 := hostMerge s pa
    { s1 with
      mem := NatMap.setRange 0 s1.mem pa data
      hostDirty := (List.range data.length).foldl (fun m i => NatMap.erase m (pa + i)) s1.hostDirty }
  else
    let s1 := if homeOf s pa = 4 then s else merge s (secOf pa)
    match hostErr s1 pa with
    | some e => hostError s1 e pa
    | none => unbind (performFor (useHome s1 0 pa) .host pa hostKey data (hostPreds s1)) (secOf pa)

/-- HOST_WRITE (R249): the pieces are performed at their homes in order. -/
def execHostWrite (pa : Nat) (data : List Byte) (s : State) : Host.Outcome State Fault Refusal :=
  if data = [] ∨ s.boot.state ≠ 1 ∨ populated pa = false ∨ populated (pa + data.length - 1) = false then notNow "HOST_WRITE"
  else done ((piecesOf pa data.length).foldl (fun st p =>
    hostWritePiece st p.at_ ((data.drop (p.at_ - pa)).take p.len)) s)

/-- HOST_HOME_UPDATE (R293): the host home's next write to a line reaches a die's copy when its predecessors have been applied
there (R240), as an update or as an invalidation of the whole line. -/
def execHostHomeUpdate (die line : Nat) (invalidate : Bool) (s : State) : Host.Outcome State Fault Refusal :=
  match s.performed.find? (fun w => w.pending.contains die && homeOf s w.pa == 4 && lineOf w.pa == line) with
  | none => notNow "HOST_HOME_UPDATE"
  | some w =>
    if !(decide (die < 4) && appliedAt s die (w.preds.filter (fun i => i != w.id))) then notNow "HOST_HOME_UPDATE"
    else if invalidate then
      done (hostHomeNotice (dropCopyLine s die line) die line)
    else done (applyOne die s w)

/-- A write cut on its way to the host home gets an error response: a STORE_ERROR record (R362). -/
def cutAtHost (s : State) (q : Sent) : State :=
  s.report ⟨3, 1, 0x11, some (q.pa / 64 * 64), some (q.va / 64 * 64), 64, q.func, coreSite q.core, 0, q.wordPc⟩

/-- H1_COHERENT_LOSS (R293). -/
def execH1CoherentLoss (s : State) : Host.Outcome State Fault Refusal :=
  if !s.boot.h1c then notNow "H1_COHERENT_LOSS"
  else
    let atHost (q : Sent) : Bool := decide (homeOf s q.pa = 4)
    let cut := s.sent.filter (fun q => atHost q && !kindClean q.kind)
    let s1 := cut.foldl cutAtHost { s with sent := s.sent.filter (fun q => !atHost q) }
    let s2 := (List.range 4).foldl (fun st d =>
      (((st.die d).held ++ (st.die d).fills).filter (fun q => isHost (64 * q))).foldl (fun x q => dropCopy x d q) st) s1
    let clear (st : State) (p : Nat × DirEntry) : State :=
      if p.2.host then
        setDir (strikeSector st 4 p.1) p.1
          (if p.2.dies = 0 then ⟨if p.2.dirty then .m else .e, false, 0, 0, 0, false⟩ else { p.2 with host := false })
      else st
    let s3 := s2.dir.foldl clear s2
    let s4 := setPerformed s3 (s3.performed.filter (fun w => !isHost w.pa))
    done ({ s4 with hostHeld := [], hostView := [], boot := { s4.boot with h1c := false } }.report
      (event0 0 0x08 0 0 0))

-- Fabric (R343, R350).

/-- The enabled partition that owns a sub-link. -/
def linkOwner (s : State) (port sub : Nat) : Option Nat :=
  (List.range 20).find? (fun p => (s.part p).en && ownsLink s p port sub)

/-- Does a message belong on its sub-link: the owner's PPID matches? -/
def linkMatches (s : State) (port sub ppid : Nat) : Option Nat :=
  (linkOwner s port sub).bind (fun p => if (s.part p).ppid = ppid then some p else none)

/-- A dropped message: a FABRIC record with port, sub-link and the sender's PPID. [DESIGN CHOICE, log 57] -/
def dropMessage (s : State) (port sub ppid : Nat) : State := s.report (event0 0 0x07 (port + 32 * sub) ppid 0)

/-- Predecessors of a fabric peer's write: its earlier performed writes, with theirs (R240). [DEDUCED, log 25] -/
def fabricPreds (s : State) : List Nat :=
  (s.performed.filter (fun w => s.fabricOwn.contains w.id)).foldl (fun acc w => unionIds acc (w.id :: prune s w.preds)) []

/-- One piece of a fabric write at its home: kind 0 writes, 1 adds f32, 2 adds i32 (R130). -/
def fabricPiece (f kind : Nat) (s : State) (va : Nat) (data : List Byte) : State :=
  match translate s [] f va .write with
  | (.ok t, s1) =>
    (match homeErr s1 t.pa t.key with
     | (some e, s2) => reportErr s2 e f va t.pa t.key (homeOf s1 t.pa) 2 0
     | (none, s0) =>
       let s2 := useHome s0 f t.pa
       if kind = 0 then performFor s2 .fabric t.pa t.key data (fabricPreds s2)
       else
         let r := homeRead s2 t.pa 4 t.key
         let new := combine (if kind = 1 then 2 else 0) (BitVec.ofNat 64 (leNat r.1)) (BitVec.ofNat 64 (leNat data))
         performFor r.2 .fabric t.pa t.key (leBytes 4 new.toNat)
           (unionIds (fabricPreds r.2) (predsOf r.2 t.pa 4)))
  | (_, s1) => dropMessage s1 0 0 0

/-- Pieces of an addition: its 4-byte elements. -/
def addPieces (va len : Nat) : List Piece := (List.range (len / 4)).map (fun i => ⟨va + 4 * i, 4⟩)

/-- FABRIC_MESSAGE_RECEIVE (R130, R343): dropped with a record when the owner's PPID differs, else performed for the
function. -/
def execFabricMessageReceive (port sub ppid f va : Nat) (kind : BitVec 3) (data : List Byte) (s : State) :
    Host.Outcome State Fault Refusal :=
  match linkMatches s port sub ppid with
  | none => done (dropMessage s port sub ppid)
  | some p =>
    if f ≠ 0 ∧ funcExists s f ∧ (s.fcfgOf f).part = p ∧ !(s.func f).torn ∧ kind.toNat ≤ 2 then
      let ps := if kind = 0 then piecesOf va data.length else addPieces va data.length
      done (ps.foldl (fun st q => fabricPiece f kind.toNat st q.at_ ((data.drop (q.at_ - va)).take q.len)) s)
    else done (dropMessage s port sub ppid)

/-- FABRIC_WAKE_RECEIVE (R350): a wake write, on a sub-link of the function's partition with its PPID. -/
def execFabricWakeReceive (port sub ppid f : Nat) (s : State) : Host.Outcome State Fault Refusal :=
  match linkMatches s port sub ppid with
  | none => done (dropMessage s port sub ppid)
  | some p =>
    if f ≠ 0 ∧ funcExists s f ∧ (s.fcfgOf f).part = p then done (wakeFunc s f) else done (dropMessage s port sub ppid)

-- Errors in data (R299, R355, R361, R362).

/-- The record of an ECC error: MEM_ECC for HBM4E and the second tier, of a sector, or of the DRAM row, bank or channel that the event
names with its range (R362); SRAM_ECC for an array. L1 and L2 data are sectors; X, W, Y and register files are byte ranges of
their structure. [DESIGN CHOICE, log 58] -/
def eccReport (s : State) (cls pa f : Nat) (va : Option Nat) (w : EccSite) (site : BitVec 32) : Report :=
  let v := va.orElse (fun _ => (mappedBy s pa).map (fun p => p.2))
  let sector := v.map (fun a => a / 64 * 64)
  match w with
  | .hbm ch aux1 gran len =>
    if gran = 3 ∨ gran = 4 ∨ gran = 5 then ⟨cls, gran, 0x01, some pa, v, len, f, site.toNat, ch, aux1.toNat⟩
    else ⟨cls, 1, 0x01, some (pa / 64 * 64), sector, 64, f, site.toNat, ch, aux1.toNat⟩
  | .sram st row =>
    if st ≤ 2 then ⟨cls, 1, 0x02, some (pa / 64 * 64), sector, 64, f, site.toNat, st, row.toNat⟩
    else ⟨cls, 6, 0x02, none, none, 4, f, site.toNat, st, row.toNat⟩

/-- ECC_CORRECTED (R299): the corrected value is delivered; only the record and its counter tell. -/
def execEccCorrected (pa f : Nat) (va : Option Nat) (w : EccSite) (site : BitVec 32) (s : State) :
    Host.Outcome State Fault Refusal :=
  done (s.report (eccReport s 1 pa f va w site))

/-- The home's data of a sector gets the mark, after the merge of one in U (R289, R355). -/
def spoilHome (s : State) (sec : Nat) : State := markSector (merge s sec) sec

/-- An error in an L1: in the core's partial of the sector, else in its copy (R294, R355). -/
def spoilL1 (s : State) (core sec : Nat) : State :=
  match partialOf s core sec with
  | some p => setPartial s core sec (some { p with bad := true })
  | none => s.modCore core (fun c => { c with l1 := match NatMap.get none c.l1 sec with
      | some x => NatMap.set none c.l1 sec (some { x with bad := true })
      | none => c.l1 })

/-- An error in an L2: in the die's collector of the sector, else in the home's data or in the visitor copy (R294, R355). -/
def spoilL2 (s : State) (die sec : Nat) : State :=
  match (collectorOf s die sec).bind (·.part) with
  | some p => setCollector s die sec ((collectorOf s die sec).map (fun k => { k with part := some { p with bad := true } }))
  | none =>
    if die = homeOf s (64 * sec) then (if (dirOf s sec).st = .i then s else spoilHome s sec)
    else if holds s die sec then s.modDie die (fun d => { d with bad := insertLine sec d.bad })
    else s

/-- An uncorrectable error in the data that a structure of a site holds at an address: of a sector, or, in X, W and Y, of the 4-byte
word at that offset of the structure (R355). [DEDUCED, log 55; DESIGN CHOICE, log 58] -/
def spoil (s : State) (pa site : Nat) (w : EccSite) : State :=
  let cl := site / 4 % 64
  let core := 4 * cl + site / 256 % 4
  match w with
  | .hbm _ _ _ _ => if populated pa then spoilHome s (secOf pa) else s
  | .sram 1 _ => spoilL1 s core (secOf pa)
  | .sram 2 _ => if populated pa then spoilL2 s (site % 4) (secOf pa) else s
  | .sram 3 _ => s.modCore core (fun c => { c with badX := insertLine (pa / 4) c.badX })
  | .sram 4 _ => s.modCluster cl (fun c => { c with badW := insertLine (pa / 4) c.badW })
  | .sram 5 _ => s.modCluster cl (fun c => { c with badY := insertLine (pa / 4) c.badY })
  | .sram _ _ => s

/-- ECC_UNCORRECTABLE (R355): the record is written, and the data is marked poisoned. -/
def execEccUncorrectable (pa f : Nat) (va : Option Nat) (w : EccSite) (site : BitVec 32) (s : State) :
    Host.Outcome State Fault Refusal :=
  let s1 := s.report (eccReport s 3 pa f va w site)
  done (spoil s1 pa site.toNat w)

end Sys2Proof.Machine
end

