-- ==== Sys2Proof/Machine/Image.lean ====
section
/-! DEFINITION. Save images of units (R330): their bytes, and the unit that bytes stand for, with the checks of R214. -/

namespace Sys2Proof.Machine

/-- A region mark: its address, or 0 for none. [DESIGN CHOICE, log 51] -/
def markBytes (m : Option Pc) : List Byte := leBytes 8 (match m with
  | some p => p.toNat
  | none => 0)

def arrayBytes (a : ArrayReg) : List Byte := leBytes 8 a.base.toNat ++ leBytes 4 a.ext.toNat ++ leBytes 4 a.attr.toNat

/-- The Unit section. -/
def unitSection (u : Unit_) (mark : Option Pc) : List Byte :=
  (List.range 64).flatMap (fun n => leBytes 8 (u.sreg n).toNat)
    ++ (List.range 16).flatMap (fun n => arrayBytes (u.areg n))
    ++ (List.range 3).flatMap (fun t => leBytes 8 (u.timeline t).i ++ leBytes 8 (u.timeline t).c)
    ++ bitmapBytes u.arrived ++ leBytes 8 u.runs ++ markBytes mark ++ zeroBytes 80

/-- A thread record. -/
def threadRecord (regs : Nat) (t : Thread) : List Byte :=
  (List.range regs).flatMap (fun n => leBytes 4 (t.reg n).toNat)
    ++ (List.range 32).flatMap (fun n => leBytes 4 (t.reg (480 + n)).toNat)
    ++ leBytes 8 (t.p.toNat + (if t.bounds then 256 else 0) + (if t.exited then 512 else 0)) ++ markBytes t.mark

/-- The awaited value of a parked set. -/
def ParkOn.awaited : ParkOn → Nat
  | .bar => 0
  | .bwait _ p => p.toNat
  | .qpush _ v => v.toNat
  | .qpop _ _ _ => 0
  | .twait _ n => n
  | .cntw _ n _ => n

def parkedRecord (p : Parked) : List Byte :=
  leBytes 8 p.pc.toNat ++ leBytes 8 p.on.awaited ++ bitmapBytes p.threads ++ ivBytes p.iv

/-- The low 32 bits of a per-lane field. -/
def laneWords (m : NatMap DWord) (key : Nat → Nat) (shift : Nat) : List Byte :=
  (List.range 32).flatMap (fun l => leBytes 4 ((NatMap.get 0 m (key l)).toNat / 2 ^ shift))

/-- A replay entry of a held group. -/
def entryRecord (e : ReplayEntry) : List Byte :=
  leBytes 8 e.word.toNat ++ leBytes 8 e.pc.toNat ++ leBytes 4 e.mask.toNat ++ leBytes 4 e.stat.toNat
    ++ laneWords e.op1 id 0 ++ laneWords e.op2 id 0 ++ laneWords e.op3 id 0
    ++ (List.range 4).flatMap (fun i => laneWords e.dat (fun l => 4 * l + i) 0)
    ++ laneWords e.op1 id 32 ++ laneWords e.op2 id 32 ++ laneWords e.op3 id 32 ++ zeroBytes 8

/-- The word that waits for a fault's answer (R233). -/
def Front.faultWord (fr : Front) : List ReplayEntry :=
  match fr.hold with
  | some (.fault _ (some e)) => [e]
  | _ => []

/-- The replay entries that a held group carries: its queue, its unfinished words, and the word that waits for a fault's answer
(R171, R233, R322). -/
def Front.carried (fr : Front) : List ReplayEntry := fr.replay ++ fr.unfinished.map (·.entry) ++ fr.faultWord

/-- The latch that goes with RPOS: the trap frame's for a handler, else the group's own. -/
def Front.keptLatch (fr : Front) : List LatchEntry := if fr.priv then fr.frame.latch else fr.latch

def latchVals (l : List LatchEntry) (i : Nat) : NatMap DWord :=
  match l.find? (fun e => e.pos % 3 == i) with
  | some e => e.vals
  | none => []

/-- The record of a held group. -/
def heldRecord (g : Group) : List Byte :=
  let fr := g.front
  let q := fr.carried
  leBytes 8 fr.xpc.toNat ++ leBytes 8 fr.xcause.toNat ++ leBytes 8 fr.xstat.toNat ++ leBytes 8 fr.xaddr.toNat
    ++ leBytes 8 fr.xmask.toNat ++ leBytes 8 (min 16 q.length)
    ++ (List.range 32).flatMap (fun l => leBytes 2 ((NatMap.get none g.lanes l).getD 0xFFFF))
    ++ ivBytes g.iv ++ (List.range 3).flatMap (fun i => laneWords (latchVals fr.keptLatch i) id 0)
    ++ (q.take 16).flatMap entryRecord ++ zeroBytes (1312 * (16 - q.length) + 16)

/-- Bytes written, as a copy record holds them: what has landed on every destination core from the first byte on (R130). -/
def EngineOp.written (o : EngineOp) (u : Unit_) : Nat :=
  match (destCores o.kind u).map o.firstFree with
  | n :: r => r.foldl min n
  | [] => 0

/-- TAG of the unanswered fault of a copy, or 0. -/
def opTag (s : State) (o : EngineOp) : Nat :=
  match o.waiting.bind (fun id => s.faults.find? (fun r => r.id == id)) with
  | some r => if r.written then r.tag else 0
  | none => 0

def copyRecord (s : State) (u : Unit_) (o : EngineOp) : List Byte :=
  (o.desc ++ zeroBytes (64 - o.desc.length)) ++ leBytes 8 (o.written u) ++ leBytes 8 o.num ++ leBytes 4 o.token
    ++ leBytes 4 (opTag s o) ++ leBytes 4 o.tl ++ leBytes 4 0

/-- The image of a unit: `u` as it is kept, its held groups, its copies, and its mark when it restarts.
[DESIGN CHOICE, log 51] -/
def unitImage (s : State) (u : Unit_) (how : Nat) (mark : Option Pc) (gs : List Group) (ops : List EngineOp) : List Byte :=
  withHeader 0 (launchHandle s u.func u.launch) u.index (u.core / 4 + 64 * (u.core % 4) + 256 * (u.xoff / 256)) how
    [u.nthreads, u.bins.length, u.parked.length, gs.length, ops.length]
    (unitSection u mark ++ (List.range u.nthreads).flatMap (fun t => threadRecord u.regs (u.thread t))
      ++ u.bins.flatMap binRecord ++ u.parked.flatMap parkedRecord ++ gs.flatMap heldRecord
      ++ ops.flatMap (copyRecord s u) ++ NatMap.getRange 0 (s.core u.core).x u.xoff u.xbytes)

-- Reading an image.

/-- A region mark, over the one that stood: 0 is the address 0 only where that was the mark. -/
def readMark (old : Option Pc) (b : List Byte) (at_ : Nat) : Option Pc :=
  let v := fld b at_ 8
  if v = 0 ∧ old ≠ some 0 then none else some (BitVec.ofNat 57 v)

/-- A thread record; what no record holds stays. -/
def readThread (regs : Nat) (old : Thread) (b : List Byte) (at_ : Nat) : Thread :=
  let r0 := (List.range regs).foldl (fun m n => NatMap.set 0 m n (BitVec.ofNat 32 (fld b (at_ + 4 * n) 4))) []
  let r := (List.range 32).foldl (fun m n =>
    NatMap.set 0 m (480 + n) (BitVec.ofNat 32 (fld b (at_ + 4 * regs + 4 * n) 4))) r0
  let w := fld b (at_ + 4 * regs + 128) 8
  { old with r := r, p := BitVec.ofNat 8 w, bounds := w / 256 % 2 == 1, exited := w / 512 % 2 == 1,
             mark := readMark old.mark b (at_ + 4 * regs + 136) }

/-- Low and high words of a per-lane field, over what the record does not hold. -/
def readLaneWords (b : List Byte) (lo hi : Nat) : NatMap DWord :=
  (List.range 32).foldl (fun m l =>
    NatMap.set 0 m l (BitVec.ofNat 64 (fld b (lo + 4 * l) 4 + 2 ^ 32 * fld b (hi + 4 * l) 4))) []

/-- A replay entry; whether it still owes its latch entry, and what its nonuniform trap reported, no record holds. -/
def readEntry (old : Option ReplayEntry) (b : List Byte) (at_ : Nat) : ReplayEntry :=
  { word := BitVec.ofNat 64 (fld b at_ 8), pc := readPc b (at_ + 8), mask := BitVec.ofNat 32 (fld b (at_ + 16) 4),
    stat := BitVec.ofNat 8 (fld b (at_ + 20) 4),
    op1 := readLaneWords b (at_ + 24) (at_ + 920), op2 := readLaneWords b (at_ + 152) (at_ + 1048),
    op3 := readLaneWords b (at_ + 280) (at_ + 1176),
    dat := (List.range 128).foldl (fun m k =>
      NatMap.set 0 m (4 * (k % 32) + k / 32) (BitVec.ofNat 64 (fld b (at_ + 408 + 4 * k) 4))) [], keeps := old.bind (·.keeps), raised := old.bind (·.raised) }

/-- The `k`th entry of a held group: of its record, or, beyond the 16 of a record, as it was. -/
def readNth (old : List ReplayEntry) (b : List Byte) (at_ k : Nat) : Option ReplayEntry :=
  if k < 16 then some (readEntry old[k]? b (at_ + 752 + 1312 * k)) else old[k]?

/-- The latch with the values of a record: one 32-bit value per lane. -/
def readLatch (l : List LatchEntry) (b : List Byte) (at_ : Nat) : List LatchEntry :=
  l.map (fun e => { e with vals := (List.range 32).foldl (fun m i =>
    NatMap.set 0 m i (BitVec.ofNat 64 ((NatMap.get 0 e.vals i).toNat / 2 ^ 32 * 2 ^ 32
      + fld b (at_ + 128 * (e.pos % 3) + 4 * i) 4))) [] })

/-- A held group, over what the record does not hold: its own place in its run, its hold and its frame's position. -/
def readHeld (g : Group) (b : List Byte) (at_ : Nat) : Group :=
  let fr := g.front
  let old := fr.carried
  let nth := readNth old b at_
  let nr := if old.length = fr.replay.length then min 16 (fld b (at_ + 40) 8) else fr.replay.length
  let latch := readLatch fr.keptLatch b (at_ + 368)
  let fr1 : Front := { fr with
    xpc := BitVec.ofNat 64 (fld b at_ 8), xcause := BitVec.ofNat 32 (fld b (at_ + 8) 8),
    xstat := BitVec.ofNat 64 (fld b (at_ + 16) 8), xaddr := BitVec.ofNat 64 (fld b (at_ + 24) 8),
    xmask := BitVec.ofNat 32 (fld b (at_ + 32) 8),
    replay := (List.range nr).filterMap nth
    unfinished := fr.unfinished.zipIdx.map (fun p => { p.1 with entry := (nth (fr.replay.length + p.2)).getD p.1.entry })
    hold := match fr.hold with
      | some (.fault id (some e)) => some (.fault id (some ((nth (fr.replay.length + fr.unfinished.length)).getD e)))
      | h => h
    latch := if fr.priv then fr.latch else latch
    frame := if fr.priv then { fr.frame with latch := latch } else fr.frame }
  { g with
    front := fr1, iv := readIv b (at_ + 112)
    lanes := (List.range 32).foldl (fun m l =>
      let t := fld b (at_ + 48 + 2 * l) 2
      NatMap.set none m l (if t = 0xFFFF then none else some t)) [] }

/-- A copy, over what the record does not hold: with its count as it was, the bytes that have landed; with another count, that
many first bytes on every destination core. -/
def readCopy (u : Unit_) (o : EngineOp) (b : List Byte) (at_ : Nat) : EngineOp :=
  { o with
    desc := (b.drop at_).take o.desc.length, num := fld b (at_ + 72) 8, token := fld b (at_ + 80) 4
    done := if fld b (at_ + 64) 8 = o.written u then o.done
      else (destCores o.kind u).foldl (fun m k => NatMap.set [] m k [(0, fld b (at_ + 64) 8)]) [] }

/-- What an image stands for. -/
structure Restored where
  unit : Unit_
  filings : List Filing
  groups : List Group
  ops : List EngineOp
  x : List Byte
deriving DecidableEq, Repr

/-- Read an image, whose form has been checked. Parked threads are filed at their blocking word (R144), those of a
restarted unit at its mark (R187). [DESIGN CHOICE, log 51] -/
def readImage (i : SavedUnit) (b : List Byte) : Restored :=
  let u0 := i.rest
  let nb := fld b 42 2
  let np := fld b 44 2
  let size := 4 * u0.regs + 144
  let tAt := 1104
  let bAt := tAt + size * u0.nthreads
  let pAt := bAt + 400 * nb
  let gAt := pAt + 400 * np
  let cAt := gAt + 21760 * i.groups.length
  let u : Unit_ := { u0 with
    s := (List.range 64).foldl (fun m n => NatMap.set 0 m n (BitVec.ofNat 64 (fld b (64 + 8 * n) 8))) []
    a := (List.range 16).foldl (fun m n => NatMap.set .reset m n ⟨BitVec.ofNat 64 (fld b (576 + 16 * n) 8),
      BitVec.ofNat 32 (fld b (584 + 16 * n) 4), BitVec.ofNat 32 (fld b (588 + 16 * n) 4)⟩) []
    tl := (List.range 3).foldl (fun m t => NatMap.set .start m t { u0.timeline t with
      i := fld b (832 + 16 * t) 8, c := fld b (840 + 16 * t) 8 }) u0.tl
    arrived := readBitmap b 880, runs := fld b 1008 8
    threads := (List.range u0.nthreads).foldl (fun m t =>
      NatMap.set .start m t (readThread u0.regs (u0.thread t) b (tAt + size * t))) []
    bins := [], parked := [] }
  let bins := (List.range nb).map (fun k =>
    readBin b (bAt + 400 * k))
  let parked := (List.range np).map (fun k => Filing.mk ⟨readPc b (pAt + 400 * k), none⟩
    (readBitmap b (pAt + 400 * k + 16)) (readIv b (pAt + 400 * k + 144)))
  let again := match readMark (some 0) b 1016 with
    | some m => if i.how = 1 then [Filing.mk ⟨m, none⟩ u.live []] else []
    | none => []
  { unit := u, filings := bins ++ parked ++ again,
    groups := i.groups.zipIdx.map (fun p => readHeld p.1 b (gAt + 21760 * p.2)),
    ops := i.ops.zipIdx.map (fun p => readCopy u0 p.1 b (cAt + 96 * p.2)),
    x := (b.drop (cAt + 96 * i.ops.length)).take u0.xbytes }

/-- Do MAGIC, VERSION, KIND, SIZE and CRC match (R330)? -/
def headerHolds (i : SavedUnit) (b : List Byte) : Bool := imageHead 0 i.size b

/-- The counts of R330: they agree with the unit, and the records fill the image. [DEDUCED, log 52] -/
def countsHold (i : SavedUnit) (b : List Byte) : Bool :=
  let u := i.rest
  fld b 40 2 == u.nthreads && fld b 46 2 == i.groups.length && fld b 48 2 == i.ops.length
    && 1104 + (4 * u.regs + 144) * u.nthreads + 400 * (fld b 42 2 + fld b 44 2) + 21760 * i.groups.length
      + 96 * i.ops.length + u.xbytes == i.size
    && (List.range i.groups.length).all (fun k =>
      decide (fld b (1104 + (4 * u.regs + 144) * u.nthreads + 400 * (fld b 42 2 + fld b 44 2) + 21760 * k + 40) 8 ≤ 16))

/-- Threads that the records name, once for each time. -/
def Restored.named (r : Restored) : List Nat :=
  r.filings.flatMap (·.threads) ++ r.groups.flatMap (fun g => g.members.map Prod.snd)

/-- No bitmap or group names a thread twice, or one that is absent; every copy stays a legal one. -/
def membersHold (r : Restored) : Bool :=
  decide r.named.Nodup && r.unit.arrived.all (fun t => decide (t < r.unit.nthreads) && !(r.unit.thread t).exited) && r.named.all (fun t => decide (t < r.unit.nthreads) && !(r.unit.thread t).exited)
    && r.groups.all (fun g => g.members.all (fun p => p.2 % 32 == p.1))
    && r.ops.all (fun o => descOk o.kind r.unit (descOf o.desc) && decide (o.token < 64)
      && o.done.all (fun p => p.2.all (fun x => decide (x.2 ≤ (descOf o.desc).total))))

/-- The check of R214: every interval is ordered and holds its threads' values. -/
def intervalsHold (r : Restored) : Bool :=
  r.filings.all (fun x => ivHolds r.unit x.threads x.iv)
    && r.groups.all (fun g => ivHolds r.unit (g.members.map Prod.snd) g.iv)

/-- An image that passes every check, or the number of the check that fails: 1 intervals, 2 header, 3 counts, bitmaps
and copies. [DEDUCED, log 52] -/
def checkImage (i : SavedUnit) (b : List Byte) : Sum Nat Restored :=
  if !headerHolds i b then .inl 2
  else if !countsHold i b then .inl 3
  else
    let r := readImage i b
    if !membersHold r then .inl 3 else if !intervalsHold r then .inl 1 else .inr r

-- Quartz contexts (R328): KIND 1.

/-- The failed Y range, and whether there is one. -/
def failedBytes (x : Option (Nat × Nat)) : List Byte :=
  match x with
  | some p => leBytes 8 p.1 ++ leBytes 8 p.2 ++ leBytes 8 1
  | none => zeroBytes 24

/-- The registers of a context. [DESIGN CHOICE, log 51] -/
def ctxImage (s : State) (c : Ctx) (cl k : Nat) : List Byte :=
  withHeader 1 (launchHandle s c.func c.launch) k cl 0 [0, 0, 0, 0, 0]
    ((List.range 64).flatMap (fun n => leBytes 8 (NatMap.get 0 c.s n).toNat)
      ++ leBytes 8 (match c.park with
        | some p => p.pc.toNat
        | none => c.front.pc.toNat)
      ++ leBytes 4 c.ebud.toNat ++ leBytes 4 c.prio.toNat ++ leBytes 8 c.sca.toNat ++ leBytes 8 c.scb.toNat
      ++ leBytes 8 c.chkst.toNat ++ failedBytes c.failed ++ leBytes 8 c.tl.i ++ leBytes 8 c.tl.c ++ leBytes 8 c.m.length
      ++ sparseBytes c.m)

/-- A context with what its image holds; a parked one executes its blocking word again (R144). -/
def readCtx (c : Ctx) (b : List Byte) : Ctx :=
  { c with
    s := (List.range 64).foldl (fun m n => NatMap.set 0 m n (BitVec.ofNat 64 (fld b (64 + 8 * n) 8))) []
    front := { c.front with
      pc := readPc b 576
      j := if c.park.isSome then 0 else c.front.j
      latch := if c.park.isSome then [] else c.front.latch }
    ebud := BitVec.ofNat 32 (fld b 584 4), prio := BitVec.ofNat 2 (fld b 588 4), sca := BitVec.ofNat 64 (fld b 592 8)
    scb := BitVec.ofNat 64 (fld b 600 8), chkst := BitVec.ofNat 64 (fld b 608 8)
    failed := if fld b 632 8 = 1 then some (fld b 616 8, fld b 624 8) else none
    tl := { c.tl with i := fld b 640 8, c := fld b 648 8 }
    m := readSparse b 664 (fld b 656 8), park := none }

/-- The image of a context, read and checked: the check that fails, or the context. [DEDUCED, log 52] -/
def loadCtx (f : Nat) (i : SavedCtx) (s : State) : Sum Nat Ctx × State :=
  match deviceRead f i.size s i.addr with
  | (none, s1) => (.inl 4, s1)
  | (some b, s1) =>
    (if !imageHead 1 i.size b then .inl 2
     else if 664 + 8 * fld b 656 8 ≠ b.length ∨ (readCtx i.st b).m.all (fun p => decide (p.1 < 65536)) = false then .inl 3
     else .inr (readCtx i.st b), s1)

end Sys2Proof.Machine
end

