-- ==== Sys2Proof/Machine/Preempt.lean ====
section
/-! DEFINITION. Pre-emption: what is decided for a unit (R324 to R326), saves (R296, R297, R327, R328), restores (R329),
slice ends (R347), CTXSW (R334 to R336) and the relaunch of a unit (R360). -/

namespace Sys2Proof.Machine

/-- 20 µs in clocks (R296, R326). [DEDUCED, log 53] -/
def drainClocks : Nat := 28000

/-- Does the progress estimate reach 0.85 (R325)? -/
def progressed (s : State) (u : Unit_) : Bool :=
  match launchOf s u.func u.launch with
  | some l => decide (1 ≤ l.unitsDone) && decide (17 * l.runsDone ≤ 20 * u.runs * l.unitsDone)
  | none => false

/-- The groups of a unit with their slots. -/
def unitGroups (s : State) (uid core : Nat) : List (Nat × Group) :=
  (unitSlots s uid).filterMap (fun sl => (s.group? core sl).map (fun g => (sl, g)))

/-- Is the front held by an unanswered fault? -/
def Front.faulted (fr : Front) : Bool :=
  match fr.hold with
  | some (.fault _ _) | some (.replayFault _) | some (.standing _) => true
  | _ => false

/-- The mark of a restartable unit (R186): every thread that has not exited holds it. -/
def restartMark (u : Unit_) : Option Pc :=
  match u.live with
  | [] => none
  | t :: _ => (u.thread t).mark.bind (fun m => if u.live.all (fun t => (u.thread t).mark == some m) then some m else none)

/-- Have timelines 0 to 2 completed what they issued? -/
def timelinesIdle (u : Unit_) : Bool := (List.range 3).all (fun t => (u.timeline t).i == (u.timeline t).c)

-- Leaving a core.

/-- Faults of a unit that leaves its core: their answers are held (R297). -/
def holdFaults (s : State) (uid core f : Nat) (slots : List Nat) (ops : List EngineOp) : State :=
  { s with faults := s.faults.map (fun r => match r.src with
    | .agent (.group k sl) _ => if k = core ∧ slots.contains sl then { r with src := .saved f uid sl } else r
    | .op id => if ops.any (fun o => o.id == id) then { r with src := .saved f uid id } else r
    | _ => r) }

/-- Take a unit off its core with its seal entries and its barriers, as an image kept at `addr`. The queues in its X are kept in the
queue table meanwhile. -/
def takeOff (s : State) (uid : Nat) (u : Unit_) (how addr size : Nat) (gs : List (Nat × Group)) (ops : List EngineOp) : State :=
  let c := s.core u.core
  let mine (e : SealEntry) : Bool := overlaps e.start e.len u.xoff u.xbytes
  let inX (b : QBind) : Bool := b.func == u.func && b.launch == u.launch && b.core == u.core && b.kept.isNone
    && decide (u.xoff ≤ b.off) && decide (b.off < u.xoff + u.xbytes)
  let img : SavedUnit :=
    { id := uid, addr := addr, size := size, how := how, launch := u.launch, index := u.index, cohort := u.cohort,
      core := u.core, xoff := u.xoff, xbytes := u.xbytes, bySwitch := u.bySwitch, rest := u, groups := gs.map Prod.snd,
      ops := ops, seals := c.seals.filter mine,
      barriers := c.barriers.filter (fun b => withinRange b 16 u.xoff u.xbytes)
      queues := ((s.cluster (u.core / 4)).queues.filter inX).map (·.q) }
  let s0 := keepQueues s u.core (fun b => if inX b then some (u.xoff + u.xbytes - b.off) else none)
  let s1 := holdFaults s0 uid u.core u.func (unitSlots s uid) ops
  let s2 := { s1 with engineOps := s1.engineOps.filter (fun o => o.uid != uid) }
  let s3 := s2.modCore u.core (fun x => { x with seals := x.seals.filter (fun e => !mine e) })
  let s4 := freeUnit s3 uid
  s4.modFunc u.func (fun x => { x with saved := x.saved ++ [img] })

/-- The X image is gone from the core once the reservation is; a unit's seals were taken with it. A unit left the core:
its cluster may turn, and a CTXSW may be done. -/
def afterLeave (s : State) (f cl : Nat) : State := acceptRest (settleTurn s cl) f

/-- Complete the TOPKs of a unit (R328). [DEDUCED, log 53] -/
def finishTopks (s : State) (uid : Nat) : State :=
  (s.topks.filter (fun t => t.uid == uid)).foldl (fun st op =>
    let s1 := { st with topks := st.topks.erase op }
    ((topPositions op).zipIdx).foldl (fun x p =>
      storeX x op.core (op.dst + 4 * p.2) (leBytes 4 (BitVec.ofNat 32 p.1 + op.ibase).toNat)) s1) s

/-- A thread of a restarted unit: only whether it has exited, and its writes under way, are kept (R187). -/
def Thread.restart (t : Thread) : Thread := { Thread.start with exited := t.exited, own := t.own }

/-- Restart (R187, R326): the unit leaves with its mark, s-registers, a-registers and X. [DEDUCED, log 53] -/
def restartUnit (s : State) (uid : Nat) (u : Unit_) (mark : Pc) : State :=
  let s1 := performUnit (finishTopks s uid) uid u
  match s1.unit? uid with
  | none => s1
  | some v =>
    let w : Unit_ := { v with
      threads := (List.range v.nthreads).foldl (fun m t => NatMap.set .start m t (v.thread t).restart) []
      bins := [], parked := [], arrived := [], drain := none, saveBy := none, restarts := false, atFault := false }
    let b := unitImage s1 w 1 (some mark) [] []
    match writeImage s1 u.func b with
    | (some a, s2) => takeOff s2 uid w 1 a b.length [] []
    | (none, s2) => badImage s2 u.func u.launch 4 (siteOf (u.core / 4) (u.core % 4) 0)

/-- Row 3 of R326: the unit is restartable, no group is in privileged mode, and its timelines are idle. -/
def restartable (s : State) (uid : Nat) (u : Unit_) : Option Pc :=
  if timelinesIdle u && (unitGroups s uid u.core).all (fun g => !g.2.front.priv) then restartMark u else none

/-- Does every group of the unit stand between runs (R28), with nothing of the unit on its way? -/
def betweenRuns (s : State) (uid : Nat) (u : Unit_) : Bool :=
  !unitSends s uid && (unitGroups s uid u.core).all (fun g => g.2.front.j == 0 && g.2.front.hold.isNone && g.2.front.unfinished == [])

/-- The device's decision for one unit (R326). `row2` is false when the table is applied again; the deferral of R296 is
then spent. A request that meets a unit that drains decides anew, and the earlier end of the drain still stands. A unit that
is due to be relaunched leaves its core anyhow. [DEDUCED, log 53] -/
def decideUnit (s : State) (uid : Nat) (row2 bySwitch : Bool) : State :=
  match s.unit? uid with
  | none => s
  | some u0 =>
    if u0.relaunchDue then s
    else
      let s1 := if bySwitch then s.modUnit uid (fun v => { v with bySwitch := true }) else s
      let u := { u0 with bySwitch := u0.bySwitch || bySwitch }
      let gs := unitGroups s uid u.core
      let end_ : Nat := if row2 then min (u.drain.getD (s.clock + drainClocks)) (s.clock + drainClocks) else s.clock
      let leave (at_ : Nat) (again held : Bool) : State :=
        s1.modUnit uid (fun v => { v with drain := none, saveBy := some at_, restarts := again, atFault := held })
      if u.saveBy.isSome then s1
      else if gs.any (fun g => g.2.front.faulted) then leave s.clock false true
      else if row2 && progressed s u then s1.modUnit uid (fun v => { v with drain := some end_ })
      else
        match restartable s uid u with
        | some m => if betweenRuns s uid u then restartUnit s1 uid u m else leave end_ true false
        | none => leave end_ false false

/-- Contexts of a function on a cluster. -/
def ctxsOn (s : State) (f cl : Nat) : List Nat :=
  (List.range 8).filter (fun c => match s.ctx? cl c with
    | some x => x.func == f && !x.ended
    | none => false)

/-- A context is to be saved at its next boundary. -/
def markCtx (s : State) (cl c : Nat) (bySwitch : Bool) : State :=
  s.modCtx cl c (fun x => { x with saveBy := some (x.saveBy.getD s.clock), bySwitch := x.bySwitch || bySwitch })

-- Slices (R347).

/-- Units of a function on a cluster. -/
def unitsOn (s : State) (f cl : Nat) : List Nat :=
  s.units.filterMap (fun p => p.2.bind (fun u => if u.func = f ∧ u.core / 4 = cl then some p.1 else none))

/-- The pre-emption of a function on a cluster at its slice's end (R324, R335). -/
def preempt (s : State) (f cl : Nat) : State :=
  let s1 := s.modCluster cl (fun c => { c with turning := true })
  let s2 := s1.modFunc f (fun x => { x with cmds := x.cmds.map (fun c =>
    if c.opc = 8 ∧ c.cutAt.isNone then { c with cutAt := some (s.clock + 70000) } else c) })
  let s3 := (ctxsOn s2 f cl).foldl (fun st c => markCtx st cl c false) s2
  (unitsOn s3 f cl).foldl (fun st u => decideUnit st u true false) s3

/-- TENANT_SLICE_END (R347): SLICE has run, or the function has no startable or held cohort here. With no other function
eligible the slice is renewed. The physical function's units on a cluster that a partition has claimed run to their end. -/
def execTenantSliceEnd (cluster : Nat) (s : State) : Host.Outcome State Fault Refusal :=
  let c := s.cluster cluster
  match c.serving, partOfCluster s cluster with
  | some f, some _ =>
    if c.turning then
      let s1 := settleTurn s cluster
      if s1 = s then notNow "TENANT_SLICE_END" else done s1
    else if f = 0 then
      if holdsOn s 0 cluster then notNow "TENANT_SLICE_END"
      else done (settleTurn (s.modCluster cluster (fun x => { x with turning := true })) cluster)
    else if sliceOver s f cluster = true ∨ hasCohort s f cluster = false then
      match nextFunc s f cluster with
      | none => done (s.modCluster cluster (fun x => { x with sliceStart := s.clock }))
      | some _ => done (acceptRest (settleTurn (preempt s f cluster) cluster) f)
    else notNow "TENANT_SLICE_END"
  | _, _ => notNow "TENANT_SLICE_END"

/-- DRAIN_TIMEOUT (R326): 20 µs after the request the table applies again, without row 2. -/
def execDrainTimeout (uid : Nat) (s : State) : Host.Outcome State Fault Refusal :=
  match s.unit? uid with
  | none => notNow "DRAIN_TIMEOUT"
  | some u =>
    match u.drain with
    | some d =>
      if d ≤ s.clock ∧ !u.relaunchDue then
        done (afterLeave (decideUnit s uid false false) u.func (u.core / 4))
      else notNow "DRAIN_TIMEOUT"
    | none => notNow "DRAIN_TIMEOUT"

-- Saves (R327, R328).

/-- Does the group stand at its run boundary, with no word unfinished, or at a fault that is not answered? -/
def Front.atBoundary (fr : Front) : Bool := fr.faulted || (fr.j == 0 && fr.hold.isNone && fr.unfinished == [])

/-- Is a group kept whole: it is in privileged mode or holds entries (R327)? A group that holds none and stands at a fetch that
faulted is dissolved, and its threads fetch again. [DEDUCED, log 53] -/
def keptWhole (g : Group) : Bool := g.front.priv || g.front.carried != []

/-- Do the operations that cannot be stopped stand at a fault (R328)? -/
def opStops (o : EngineOp) : Bool :=
  o.waiting.isSome || (match o.kind with
    | .cpyf _ | .bgath | .bscat => false
    | _ => !o.err)

/-- Has a posted matrix operation still to read or write the unit's X (R155, R164, R328)? -/
def matrixUses (s : State) (u : Unit_) : Bool :=
  (s.core u.core).seals.any (fun e => isFilling e.state && overlaps e.start e.len u.xoff u.xbytes)
    || (s.cluster (u.core / 4)).table.any (fun m => (m.reads s (u.core / 4)).any (fun r =>
      r.1 == .x u.core && overlaps r.2.1 r.2.2 u.xoff u.xbytes))

/-- May the unit be saved now: every group at its boundary, nothing on its way, the engines' work stopped or complete, and no posted
matrix operation at work in its X? -/
def savable (s : State) (uid : Nat) (u : Unit_) : Bool :=
  !u.relaunchDue && !unitSends s uid && !matrixUses s u
    && (unitGroups s uid u.core).all (fun g => g.2.front.atBoundary)
    && (s.engineOps.filter (fun o => o.uid == uid)).all opStops && s.topks.all (fun t => t.uid != uid)

/-- Save a unit (R327): spilled bins return, groups that hold nothing are dissolved, and the image is written.
[DESIGN CHOICE, log 51; DEDUCED, log 53] -/
def saveUnit (s : State) (uid how : Nat) : State :=
  match s.unit? uid with
  | none => s
  | some u0 =>
    let s0 := bringAll (performUnit s uid u0) uid
    let loose := (unitGroups s0 uid u0.core).filter (fun g => !keptWhole g.2)
    let s1 := loose.foldl (fun st g => dissolve st u0.core g.1) (holdFaults s0 uid u0.core u0.func (loose.map Prod.fst) [])
    let s2 := s1.modUnit uid (fun v => { v with bins := v.bins.map (fun b => { b with spilled := false }) })
    match s2.unit? uid with
    | none => s2
    | some v =>
      let u : Unit_ := { v with drain := none, saveBy := none, restarts := false, atFault := false }
      let gs := unitGroups s2 uid u.core
      let ops := (s2.engineOps.filter (fun o => o.uid == uid)).map (fun o => { o with pins := [] })
      let b := unitImage s2 u how none (gs.map Prod.snd) ops
      match writeImage s2 u.func b with
      | (some a, s3) => afterLeave (takeOff s3 uid u how a b.length gs ops) u.func (u.core / 4)
      | (none, s3) => badImage s3 u.func u.launch 4 (siteOf (u.core / 4) (u.core % 4) 0)

/-- A unit that was to be restarted is restarted when its groups stand between runs and hold their mark still; else the table takes
row 4 for it, with the deferral of R296 (R326). [DEDUCED, log 53] -/
def leaveUnit (s : State) (uid : Nat) (u : Unit_) : State :=
  if !u.restarts then saveUnit s uid 0
  else match (if betweenRuns s uid u then restartable s uid u else none) with
  | some m => afterLeave (restartUnit s uid u m) u.func (u.core / 4)
  | none => s.modUnit uid (fun v => { v with restarts := false })

/-- Is the unit's save forced: a barrier is partly arrived at the end of its 20 µs, and no fault decided its save (R296, R326)? -/
def saveForced (s : State) (u : Unit_) : Bool := !u.restarts && !u.atFault && partlyArrived s u

/-- UNIT_SAVE (R326, R327): the unit leaves its core, saved or to be restarted. -/
def execUnitSave (uid : Nat) (s : State) : Host.Outcome State Fault Refusal :=
  match s.unit? uid with
  | none => notNow "UNIT_SAVE"
  | some u =>
    if saveStands s u && savable s uid u && !saveForced s u then done (leaveUnit s uid u) else notNow "UNIT_SAVE"

/-- FORCED_SAVE (R296, R297): the deferral has ended; copies and barriers are kept as they stand. -/
def execForcedSave (uid : Nat) (s : State) : Host.Outcome State Fault Refusal :=
  match s.unit? uid with
  | none => notNow "FORCED_SAVE"
  | some u =>
    if saveStands s u && savable s uid u && saveForced s u then done (saveUnit s uid 2) else notNow "FORCED_SAVE"

/-- Does the next word of a context stall on its energy budget, or as it does whatever may come (R157)? -/
def ctxStalls (s : State) (cl k : Nat) (c : Ctx) : Bool :=
  c.front.hold.isNone && (match fetchWord s (.quartz cl k) c.func c.front.pc with
    | .word w s1 => (match decode w with
      | .word i => stallsNow s1 (.quartz cl k) i
      | .unassigned _ => false)
    | _ => false)

/-- QUARTZ_CONTEXT_SAVE (R328): at a run boundary with C equal to I. A parked context stands at its blocking word; a word that
stalls can be pre-empted within its run, and executes again (R157). [DEDUCED, log 53] -/
def execQuartzContextSave (cluster ctx : Nat) (s : State) : Host.Outcome State Fault Refusal :=
  match s.ctx? cluster ctx with
  | none => notNow "QUARTZ_CONTEXT_SAVE"
  | some c =>
    if c.saveBy.isSome && !c.ended && !c.exiting && c.tl.i == c.tl.c && (c.front.atBoundary || ctxStalls s cluster ctx c) then
      let c1 : Ctx := { c with saveBy := none }
      let b := ctxImage s c1 cluster ctx
      match writeImage s c.func b with
      | (none, s1) => done (badImage s1 c.func c.launch 4 (siteOf cluster 0 0))
      | (some a, s1) =>
        let s2 := { s1 with faults := s1.faults.map (fun r => match r.src with
          | .agent (.quartz cl k) _ =>
            if cl = cluster ∧ k = ctx then { r with src := .saved c.func (2 ^ 32 + 8 * cl + k) 0 } else r
          | _ => r) }
        let s3 := (freeCtx s2 cluster ctx).modFunc c.func (fun x => { x with
          savedCtxs := x.savedCtxs ++ [⟨cluster, ctx, a, b.length, c.bySwitch, c1⟩] })
        done (afterLeave s3 c.func cluster)
    else notNow "QUARTZ_CONTEXT_SAVE"

-- Restores (R329).

/-- The images of a cohort that may be restored. -/
def cohortImages (s : State) (f idx cohort : Nat) : List SavedUnit :=
  (s.func f).saved.filter (fun i => i.launch == idx && i.cohort == cohort && mayRestore s f idx i.bySwitch)

def cohortCtxs (s : State) (f idx cohort : Nat) : List SavedCtx :=
  (s.func f).savedCtxs.filter (fun c => c.st.launch == idx && c.st.cohort == cohort && mayRestore s f idx c.bySwitch)

/-- Does the cohort's reservation still stand on the cluster, or is its place free? -/
def reservationFree (s : State) (f idx cohort cl off len : Nat) : Bool :=
  (s.core (4 * cl)).xres.any (fun r => r.func == f && r.launch == idx && r.cohort == cohort) || xFree s cl off len

/-- Faults of a restored unit or context lie with their agent again. [DEDUCED, log 54] -/
def wakeFaults (s : State) (p : FaultRec → Bool) (a : FaultSrc) : State :=
  { s with faults := s.faults.map (fun r => if p r then { r with src := a } else r) }

/-- Identity of the fault that holds a front. -/
def Front.faultId (fr : Front) : Option Nat :=
  match fr.hold with
  | some (.fault id _) => some id
  | some (.replayFault id) => some id
  | some (.standing id) => some id
  | _ => none

/-- Is it a fetch that faulted? -/
def Front.fetchFault (fr : Front) : Bool :=
  match fr.hold with
  | some (.fault _ none) => true
  | _ => false

/-- Put a held group into a slot; its shadow into another of the quadrant (R357). None where no quadrant has room. -/
def placeGroupBack (core uid : Nat) (s : State) (g : Group) : Option State :=
  (drawQuadrant s core (if g.shadow.isSome then 2 else 1)).map (fun q =>
    let free := freeIn s core q
    let sl := free.headD 0
    let shadow := if g.shadow.isSome then free[1]? else none
    let s1 := s.setGroup core sl (some { g with uid := uid, drawn := s.clock, marked := false, shadow := shadow })
    match g.front.faultId with
    | some id => wakeFaults s1 (fun r => r.id == id) (.agent (.group core sl) g.front.fetchFault)
    | none => s1)

/-- Put the held groups of a unit into slots; none where they do not all find one. -/
def putGroups (core uid : Nat) : List Group → State → Option State
  | [], s => some s
  | g :: r, s => (placeGroupBack core uid s g).bind (putGroups core uid r)

/-- Are the places of a cohort free? -/
def placesFree (s : State) (f idx cohort cl : Nat) (us : List SavedUnit) (cs : List SavedCtx) : Bool :=
  funcStarts s f && clusterServes s f cl
    && us.all (fun i => coreTakes s i.core (recOf s f idx) && reservationFree s f idx cohort cl i.xoff i.xbytes
      && (putGroups i.core i.id i.groups s).isSome)
    && cs.all (fun c => ctxFree s cl c.ctx)
    && (unitsOfLaunch s f idx).all (fun p => p.2.cohort != cohort || us.all (fun i => p.1 != i.id))

/-- Read and check the images of a cohort: the first check that fails, or what each stands for. [DEDUCED, log 52] -/
def checkAll (f : Nat) : List SavedUnit → State → Sum (Nat × Nat) (List (SavedUnit × Restored)) × State
  | [], s => (.inr [], s)
  | i :: r, s =>
    match deviceRead f i.size s i.addr with
    | (none, s1) => (.inl (4, i.core), s1)
    | (some b, s1) =>
      match checkImage i b with
      | .inl n => (.inl (n, i.core), s1)
      | .inr x =>
        match checkAll f r s1 with
        | (.inl e, s2) => (.inl e, s2)
        | (.inr l, s2) => (.inr ((i, x) :: l), s2)

/-- The queues of a restored unit lie in its X again. -/
def queuesBack (s : State) (i : SavedUnit) : State :=
  i.queues.foldl (fun st q => match queueOf st i.rest.func i.launch (i.core / 4) q with
    | some b => (match b.kept with
      | some l =>
        if b.core = i.core ∧ i.xoff ≤ b.off ∧ b.off + l.length ≤ i.xoff + i.xbytes then
          (st.modCore i.core (fun c => { c with x := NatMap.setRange 0 c.x b.off l })).modCluster (i.core / 4) (fun c => { c with
            queues := c.queues.map (fun x => if x = b then { x with kept := none } else x) })
        else st
      | none => st)
    | none => st) s

/-- A unit is back on its core: X, seals, barriers, registers, held groups, copies, filed threads; it acquires as at its
start (R249, R329). -/
def putBack (s : State) (i : SavedUnit) (x : Restored) : State :=
  let u := x.unit
  let s1 := s.modCore i.core (fun c => { c with
    x := NatMap.setRange 0 c.x i.xoff x.x, seals := c.seals ++ i.seals
    barriers := i.barriers.foldl (fun l b => insertAsc b l) c.barriers })
  let s2 := (acquirePackage (queuesBack s1 i) i.core).modCore i.core (fun c => { c with icache := [] })
  let s3 := s2.setUnit i.id (some { u with bySwitch := false, drain := none, saveBy := none, restarts := false, atFault := false })
  let s4 := (putGroups i.core i.id x.groups s3).getD s3
  let s5 := x.ops.foldl (fun st o => wakeFaults { st with engineOps := st.engineOps ++ [o] }
    (fun r => o.waiting == some r.id) (.op o.id)) s4
  x.filings.foldl (fun st y => fileThreads st i.id y.key y.threads y.iv) s5

/-- Reserve the cohort's X again where its reservation has been freed. -/
def reserveBack (s : State) (f idx cohort cl off len : Nat) : State :=
  if (s.core (4 * cl)).xres.any (fun r => r.func == f && r.launch == idx && r.cohort == cohort) then s
  else reserveX s f idx cohort cl off len

/-- A context is back in its place; a parked one executes its blocking word again (R144). -/
def putCtxBack (s : State) (p : SavedCtx × Ctx) : State :=
  let c := p.1
  let st := p.2
  let s1 := s.setCtx c.cluster c.ctx (some { st with bySwitch := false, saveBy := none })
  match st.front.faultId with
  | some id => wakeFaults s1 (fun r => r.id == id) (.agent (.quartz c.cluster c.ctx) st.front.fetchFault)
  | none => s1

/-- Read and check the images of the cohort's contexts, then of the cluster. -/
def checkCtxs (f cl : Nat) : List SavedCtx → State → Sum (Nat × Nat) (List (SavedCtx × Ctx)) × State
  | [], s =>
    (match (s.func f).savedClusters.find? (fun i => i.cluster == cl) with
     | none => (.inr [], s)
     | some i => (match loadCluster f i s with
       | (.inl n, s1) => (.inl (n, 4 * cl), s1)
       | (.inr _, s1) => (.inr [], s1)))
  | c :: r, s =>
    match loadCtx f c s with
    | (.inl n, s1) => (.inl (n, 4 * c.cluster), s1)
    | (.inr x, s1) =>
      match checkCtxs f cl r s1 with
      | (.inl e, s2) => (.inl e, s2)
      | (.inr l, s2) => (.inr ((c, x) :: l), s2)

/-- Answers that were held take effect (R297, R329). [DEDUCED, log 53] -/
def applyHeld (f : Nat) : List FaultRec → State → Host.Outcome State Fault Refusal
  | [], s => done s
  | r :: rest, s =>
    match s.faults.find? (fun q => q.id == r.id) with
    | none => applyHeld f rest s
    | some q =>
      let s1 := dropFault s q
      let k : Host.Outcome State Fault Refusal := match q.held, q.src with
        | some 0, .op id => done (answerOp s1 id false)
        | some 0, .agent a _ => (match (frontOf s1 a).bind (·.hold) with
          | some (.fault _ (some e)) => retryWord s1 a e
          | _ => done (modFront s1 a (fun fr => { fr with hold := none })))
        | some 1, .op id => done (answerOp s1 id true)
        | some 1, .agent a _ => done (deliver s1 a q)
        | some _, .op id => done (answerOp s1 id true)
        | some _, .agent a _ => done (fatal s1 q.func 3 a.site)
        | some 2, .saved _ _ _ => done (fatal s1 q.func 3 q.site)
        | some _, .saved _ _ _ => done s1
        | none, _ => done s
      match k with
      | .next s2 => applyHeld f rest s2
      | o => o

/-- A CTXSW SAVE that a slice end cut goes on with the units that the slice restored (R336). -/
def resumeSwitch (s : State) (f : Nat) : State :=
  match (s.func f).cmds.find? (fun c => c.opc == 8 && c.action == 0 && c.recAt.isSome) with
  | none => s
  | some c =>
    (launchesUnder s f c.handle).foldl (fun st l =>
      let s1 := (unitsOfLaunch st f l).foldl (fun x p => decideUnit x p.1 true true) st
      (ctxsOfLaunch s1 f l).foldl (fun x p => markCtx x (p.1 / 8) (p.1 % 8) true) s1) s

/-- UNIT_RESTORE (R329): a cohort's contexts and units return to their cluster, cores and X offset. -/
def execUnitRestore (f idx cohort : Nat) (s : State) : Host.Outcome State Fault Refusal :=
  let us := cohortImages s f idx cohort
  let cs := cohortCtxs s f idx cohort
  let place := match us, cs with
    | i :: _, _ => some (i.core / 4)
    | [], c :: _ => some c.cluster
    | [], [] => none
  match place with
  | none => notNow "UNIT_RESTORE"
  | some cl =>
    if !placesFree s f idx cohort cl us cs then notNow "UNIT_RESTORE"
    else
      match checkAll f us s with
      | (.inl e, s0) => done (badImage s0 f idx e.1 (siteOf cl (e.2 % 4) 0))
      | (.inr l, s0) =>
      match checkCtxs f cl cs s0 with
      | (.inl e, s1) => done (badImage s1 f idx e.1 (siteOf cl (e.2 % 4) 0))
      | (.inr k, s1) =>
        let s2 := takeCluster s1 f cl
        let back (r : FaultRec) : Bool := match r.src with
          | .saved g n _ => g == f && us.any (fun i => i.id == n)
          | _ => false
        let s3 := s2.modFunc f (fun x => { x with
          saved := x.saved.filter (fun i => !us.any (fun j => j.id == i.id))
          savedCtxs := x.savedCtxs.filter (fun c => !cs.contains c) })
        let s4 := k.foldl putCtxBack s3
        let s5 := us.foldl (fun st i => reserveBack st f idx cohort cl i.xoff i.xbytes) s4
        let s6 := l.foldl (fun st p => putBack st p.1 p.2) s5
        match applyHeld f (s6.faults.filter (fun r => back r || (r.held.isSome && (match r.src with
            | .saved _ _ _ => false
            | _ => true)))) s6 with
        | .next s7 => done (acceptRest (resumeSwitch s7 f) f)
        | o => o

-- CTXSW (R334 to R336).

/-- Hold or release an object and everything below it. -/
def setHeld (s : State) (f : Nat) (h : DWord) (v : Bool) : State :=
  match lookupHandle s f h with
  | .live lv i _ => (subtree s f 3 lv i).foldl (fun st x => modObj st f x.1 x.2 (fun o => { o with held := v })) s
  | _ => s

/-- Acceptance of a CTXSW: HANDLE and ACC are written; HEAD stays until DONE (R336). -/
def acceptSwitch (s : State) (f e : Nat) (irq : Bool) (h : DWord) (action total : Nat) : State :=
  let s1 := writeStatus (writeHandle s f e 0) f e false false 0 0
  s1.modFunc f (fun x => { x with cmds := x.cmds ++ [⟨8, e, irq, h, total, action, none, none⟩] })

/-- A CTXSW command of the given action at HEAD. -/
def switchCommand (row : String) (action f : Nat) (s : State)
    (k : Nat → Bool → DWord → List Nat → State → State) : Host.Outcome State Fault Refusal :=
  command row 8 f s (fun e b irq s1 =>
    if (argOf b 1).toNat % 2 ≠ action then none
    else
      match handleFor s1 f (argOf b 0) anyLevel false with
      | none => some (answerCmd s1 f e irq badHandle 0)
      | some _ => some (k e irq (argOf b 0) (launchesUnder s1 f (argOf b 0)) s1))

/-- CTXSW SAVE (R334): every unit under the object is decided, and no further cohort starts. What a slice end has saved
is held from here on. -/
def execCtxswSave (f : Nat) (s : State) : Host.Outcome State Fault Refusal :=
  switchCommand "CTXSW_SAVE" 0 f s (fun e irq h ls s1 =>
    let us := ls.flatMap (fun l => (unitsOfLaunch s1 f l).map (fun (p : Nat × Unit_) => p.1))
    let cs := ls.flatMap (fun l => (ctxsOfLaunch s1 f l).map (fun (p : Nat × Ctx) => p.1))
    let s2 := setHeld s1 f h true
    let s3 := s2.modFunc f (fun x => { x with
      saved := x.saved.map (fun i => if ls.contains i.launch then { i with bySwitch := true } else i)
      savedCtxs := x.savedCtxs.map (fun c => if ls.contains c.st.launch then { c with bySwitch := true } else c) })
    let s4 := acceptSwitch s3 f e irq h 0 us.length
    let s5 := us.foldl (fun st u => decideUnit st u true true) s4
    cs.foldl (fun st c => markCtx st (c / 8) (c % 8) true) s5)

/-- CTXSW RESUME (R334): held units may be restored, and cohort starts resume. -/
def execCtxswResume (f : Nat) (s : State) : Host.Outcome State Fault Refusal :=
  switchCommand "CTXSW_RESUME" 1 f s (fun e irq h ls s1 =>
    let n := ((s1.func f).saved.filter (fun i => ls.contains i.launch && i.bySwitch)).length
    acceptSwitch (setHeld s1 f h false) f e irq h 1 n)

/-- Units of a CTXSW that are still to be decided, or to be restored; one whose save is under way is decided (R336). -/
def switchLeft (s : State) (f : Nat) (c : PendCmd) : Nat :=
  let ls := launchesUnder s f c.handle
  if c.action = 0 then ((ls.flatMap (fun l => unitsOfLaunch s f l)).filter (fun p => p.2.saveBy.isNone)).length
  else ((s.func f).saved.filter (fun i => ls.contains i.launch && i.bySwitch)).length

/-- The progress record (R336). -/
def progressRecord (s : State) (f : Nat) (c : PendCmd) : List Byte :=
  let x := s.func f
  withHeader 3 (match lookupHandle s f c.handle with
      | .live .launch i _ => launchHandle s f i
      | _ => 0) 0 0 0 [0, 0, 0, 0, 0]
    (leBytes 4 (x.cqhead % queueLen x) ++ leBytes 4 c.action ++ leBytes 8 c.handle.toNat
      ++ leBytes 4 (c.total - switchLeft s f c) ++ leBytes 4 c.total ++ zeroBytes 8)

/-- CTXSW_SLICE_TIMEOUT (R335): 50 µs after a slice end the CTXSW is not done. A unit whose save it makes finishes it;
those that still drain are the slice end's; the progress record is written. -/
def execCtxswSliceTimeout (f : Nat) (s : State) : Host.Outcome State Fault Refusal :=
  match (s.func f).cmds.find? (fun c => c.opc == 8) with
  | none => notNow "CTXSW_SLICE_TIMEOUT"
  | some c =>
    match c.cutAt with
    | none => notNow "CTXSW_SLICE_TIMEOUT"
    | some d =>
      if s.clock < d then notNow "CTXSW_SLICE_TIMEOUT"
      else
        let s1 := (launchesUnder s f c.handle).foldl (fun st l =>
          (unitsOfLaunch st f l).foldl (fun x p =>
            if p.2.saveBy.isNone then x.modUnit p.1 (fun u => { u with bySwitch := false }) else x) st) s
        let r := match c.recAt with
          | some a => (match deviceWrite s1 f a (progressRecord s1 f c) with
            | (none, s2) => (some a, s2)
            | (some _, s2) => (none, s2))
          | none => writeImage s1 f (progressRecord s1 f c)
        match r with
        | (some a, s2) => done (s2.modFunc f (fun x => { x with cmds := x.cmds.map (fun q =>
            if q.opc = 8 then { q with cutAt := none, recAt := some a } else q) }))
        | (none, s2) => done (badImage s2 f 0 4 0)

-- Relaunch (R360).

/-- An operation of a unit is discarded: its references are dropped, and a range it filled is free again. -/
def discardOp (s : State) (u : Unit_) (o : EngineOp) : State :=
  let d := descOf o.desc
  let s1 := { s with engineOps := s.engineOps.filter (fun p => p.id != o.id) }
  let s2 :=
    if o.kind ≠ .bscat ∧ d.sspace = 1 then dropRefs s1 (.x o.core) (u.xoff + d.src) (srcLen o.kind d)
    else if d.sspace = 3 then dropRefs s1 (.y (o.core / 4)) d.src (srcLen o.kind d)
    else s1
  if d.dspace = 2 then
    setSeals s2 (.w (o.core / 4)) ((sealsOf s2 (.w (o.core / 4))).filter (fun e => !(e.start == d.dst && isFilling e.state)))
  else s2

/-- UNIT_RELAUNCH (R360): the unit is discarded, and its index waits for a start on another cluster. -/
def execUnitRelaunch (uid : Nat) (s : State) : Host.Outcome State Fault Refusal :=
  match s.unit? uid with
  | none => notNow "UNIT_RELAUNCH"
  | some u =>
    if !u.relaunchDue then notNow "UNIT_RELAUNCH"
    else
      let ops := s.engineOps.filter (fun o => o.uid == uid)
      let s0 := freeUnit (s.modUnit uid (fun v => { v with buffer := [] })) uid
      let s1 := ops.foldl (fun st o => discardOp st u o) s0
      let s2 := { s1 with topks := s1.topks.filter (fun t => t.uid != uid) }
      let s3 := modLaunch s2 u.func u.launch (fun l => { l with relaunch := l.relaunch ++ [(u.index, u.core / 4)] })
      let s4 := s3.report
        (event0 u.func 0x0B u.index (launchHandle s u.func u.launch) (siteOf (u.core / 4) (u.core % 4) 0))
      done (afterLeave s4 u.func (u.core / 4))

end Sys2Proof.Machine
end

