-- ==== Sys2Proof/Machine/Tenants.lean ====
section
/-! DEFINITION. Function windows and their registers (R337 to R346), collapse and wake (R347 to R350), function reset
(R333). -/

namespace Sys2Proof.Machine

-- Collapse and wake (R348 to R350).

/-- Is a launch running, or ready to run: its cohorts have started, or only placement keeps them (R348)? -/
def launchBusy (s : State) (f : Nat) (l : LaunchSlot) : Bool :=
  !l.obj.ended && !l.obj.held
    && (decide (0 < l.cohorts) || (l.obj.cancelAt.isNone && edgesMet s f l && (!l.devlnch || l.arg.isSome)))

/-- Has the function been idle in the sense of R348? [DEDUCED, log 60] -/
def funcIdle (s : State) (f : Nat) : Bool :=
  let x := s.func f
  pendingEntries x == 0
    && x.launches.all (fun p => match p.2 with
      | some l => !launchBusy s f l
      | none => true)
    && s.faults.all (fun r => r.func != f || r.held.isSome)

/-- COLLAPSE_BEGIN (R348, R349): the function leaves the rotation, acceptance stops, and the merge of its partials begins.
[DEDUCED, log 60] -/
def execCollapseBegin (f : Nat) (s : State) : Host.Outcome State Fault Refusal :=
  let g := s.fcfgOf f
  let x := s.func f
  if f ≠ 0 ∧ g.en ∧ g.idle ≠ 0 ∧ x.wake = .awake ∧ funcIdle s f ∧ x.idleSince + 1400 * g.idle ≤ s.clock then
    done (s.modFunc f (fun y => { y with wake := .collapsing, merging := true }))
  else notNow "COLLAPSE_BEGIN"

/-- COLLAPSE_COMPLETE (R300, R349): the end of the merge, of the save of one cluster, or, once all are done, of the function's own
steps; steps 4 to 6 follow where their conditions hold. -/
def execCollapseComplete (f : Nat) (s : State) : Host.Outcome State Fault Refusal :=
  if (s.func f).wake = .collapsing then
    match collapseStep s f with
    | some s1 => done s1
    | none => done (updatePower (s.modFunc f (fun x => { x with wake := .collapsed })))
  else notNow "COLLAPSE_COMPLETE"

/-- WAKE_WRITE (R350): a write of 0 is ignored. -/
def execWakeWrite (f : Nat) (value : BitVec 32) (s : State) : Host.Outcome State Fault Refusal :=
  regWrite "WAKE_WRITE" f s (if value = 0 then done s else done (wakeFunc s f))

/-- Bound of a wake class in µs (R348). [DEDUCED, log 60] -/
def wakeBound (wclass : Nat) : Nat :=
  match wclass with
  | 0 => 25
  | 1 => 300
  | 2 => 4000
  | _ => 40000

/-- WAKE_END (R350): acceptance resumes; a missed bound is counted and recorded. -/
def execWakeEnd (f : Nat) (s : State) : Host.Outcome State Fault Refusal :=
  if (s.func f).wake = .waking then
    let k := (s.fcfgOf f).wclass
    let t := s.clock - (s.func f).wakeAt
    let s1 := s.modFunc f (fun x => { x with wake := .awake, idleSince := s.clock })
    let s2 :=
      if 1400 * wakeBound k < t then
        (s1.modFunc f (fun x => { x with wmiss := if x.wmiss = BitVec.allOnes 32 then x.wmiss else x.wmiss + 1 })).report
          (event0 f 0x0E k (ceilDiv t 1400) 0)
      else s1
    done (acceptRest s2 f)
  else notNow "WAKE_END"

/-- FABRIC_WAKE_SEND (R350): FWAKE holds function, NODE and the partition whose ROUTE is used. -/
def execFabricWakeSend (value : BitVec 64) (s : State) : Host.Outcome State Fault Refusal :=
  regWrite "FABRIC_WAKE_SEND" 0 s (
    let f := (bits value 0 10).toNat
    let node := (bits value 10 8).toNat
    let p := (bits value 18 5).toNat
    let r := (NatMap.get 0 s.route (256 * p + node)).toNat
    let s1 := { s with fwake := (bits value 0 23).setWidth 64 }
    if r / 128 = 1 ∧ ownsLink s p (r % 32) (r / 32 % 4) then
      done { s1 with fabricOut := s1.fabricOut ++ [⟨r % 32, r / 32 % 4, (s.part p).ppid, f, 0, 3, []⟩] }
    else done (s1.report (event0 0 0x07 (r % 128) (s.part p).ppid 0)))

-- Partitions (R340 to R343).

/-- Are LANES made of whole sub-links (R341)? -/
def wholeLinks (s : State) (lanes : BitVec 128) : Bool :=
  (List.range 72).all (fun i => !lanes.getLsbD i ||
    (List.range 4).any (fun sub => (subLanes s (i / 4) sub).contains (i % 4)
      && (subLanes s (i / 4) sub).all (fun l => lanes.getLsbD (4 * (i / 4) + l))))

/-- Number of clusters that CLUS names. -/
def clusCount (c : BitVec 64) : Nat := ((List.range 64).filter (fun i => c.getLsbD i)).length

/-- The checks of R341. -/
def partOk (s : State) (p : Nat) : Bool :=
  let x := s.part p
  decide (2 ≤ clusCount x.clus) && decide (128 ≤ x.ebcap.toNat) && wholeLinks s x.lanes
    && (List.range 20).all (fun q => q == p || !(s.part q).en ||
      ((s.part q).clus &&& x.clus == 0 && (s.part q).chan &&& x.chan == 0 && (s.part q).lanes &&& x.lanes == 0))

def modPart (s : State) (p : Nat) (g : Part → Part) : State := s.setPart p (g (s.part p))

/-- PPID and NODE of a CTL write; they hold while the partition is enabled (R341). -/
def ctlFields (x : Part) (value : BitVec 64) : Part :=
  if x.en then x else { x with ppid := (bits value 2 12).toNat, node := (bits value 14 8).toNat }

/-- PARTITION_ENABLE (R341): a CTL write with EN 1. -/
def execPartitionEnable (p : Nat) (value : BitVec 64) (s : State) : Host.Outcome State Fault Refusal :=
  if 20 ≤ p ∨ value.getLsbD 0 = false then notNow "PARTITION_ENABLE"
  else regWrite "PARTITION_ENABLE" 0 s (
    if (s.part p).en then done s
    else
      let s1 := modPart s p (fun x => ctlFields x value)
      if partOk s1 p then done (updatePower (modPart s1 p (fun x => { x with en := true, err := false })))
      else done (modPart s1 p (fun x => { x with err := true })))

/-- PARTITION_DISABLE (R341): a CTL write with EN 0, ignored while a function is enabled in the partition. -/
def execPartitionDisable (p : Nat) (value : BitVec 64) (s : State) : Host.Outcome State Fault Refusal :=
  if 20 ≤ p ∨ value.getLsbD 0 = true then notNow "PARTITION_DISABLE"
  else regWrite "PARTITION_DISABLE" 0 s (
    if (s.part p).en then
      if funcsOfPart s p = [] then done (updatePower (modPart s p (fun x => { x with en := false }))) else done s
    else done (modPart s p (fun x => ctlFields x value)))

/-- Is a port owned by an enabled partition? -/
def portOwned (s : State) (q : Nat) : Bool :=
  (List.range 20).any (fun p => (s.part p).en && (List.range 4).any (fun l => (s.part p).lanes.getLsbD (4 * q + l)))

/-- PSPLIT_WRITE (R343): ignored when it changes an owned port, or names the reserved split. -/
def execPsplitWrite (value : BitVec 64) (s : State) : Host.Outcome State Fault Refusal :=
  regWrite "PSPLIT_WRITE" 0 s (
    let ok (q : Nat) : Bool :=
      bits value (2 * q) 2 != 3 && (bits value (2 * q) 2 == bits s.psplit (2 * q) 2 || !portOwned s q)
    if (List.range 18).all ok then done { s with psplit := (bits value 0 36).setWidth 64 } else done s)

-- Functions (R333, R344).

/-- One CUT record (R333): the opcode of the cut word, and the bytes it leaves out. -/
def cutReport (f opcode lo hi site : Nat) : Report := ⟨6, 6, 0x0C, none, some lo, hi - lo, f, site, opcode, 0⟩

/-- Opcode of a request that a RED word, or an UPD word to a page without partials, sent. -/
def cutOpcode (q : Sent) : Option Nat :=
  match q.kind with
  | .red op _ _ => some (0x0E0 + op)
  | .upd tag _ => some (0x0F0 + tag)
  | _ => none

/-- Words of a function that have issued, with elements that have not been performed: one record for each word, of its footprint. -/
def cutWords (s : State) (f : Nat) : List Report :=
  let reqs := s.sent.filterMap (fun q => if q.func = f then (cutOpcode q).map (fun o => (q.word, q.core, q.foot, o)) else none)
  reqs.eraseDups.map (fun k => cutReport f k.2.2.2 k.2.2.1.1 (k.2.2.1.1 + k.2.2.1.2) (coreSite k.2.1))

/-- CPYF.add and BSCAT operations that are not complete: the hull of the destination range. [DEDUCED, log 39] -/
def cutCopies (s : State) (f : Nat) : List Report :=
  s.engineOps.filterMap (fun o =>
    let d := descOf o.desc
    if o.func ≠ f ∨ o.err = true then none
    else match o.kind with
      | .cpyf op => if op ≠ 0 ∧ o.landed o.core < d.total then some (cutReport f 0x104 d.dst (d.dst + hullLen d d.dpitch) o.site)
        else none
      | .bscat =>
        let at_ := match s.unit? o.uid with
          | some u => (indexList s u d).filterMap (fun i => if d.spitch ≤ i then none else some (tableAt o d i))
          | none => []
        (match at_ with
         | a :: l => let lo := l.foldl min a
           some (cutReport f 0x106 lo (l.foldl max a + d.rowBytes) o.site)
         | [] => none)
      | _ => none)

/-- How many of the `n` elements of a cut operation were performed: fewer than all (R295, R333).
[DESIGN CHOICE, log 78] -/
def cutCount (s : State) (n : Nat) : Nat × State := (Config.cutAfter s.fresh % n, { s with fresh := s.fresh + 1 })

/-- A cut scatter: its first elements have moved (R333). -/
def cutScatter (s : State) (o : EngineOp) : State :=
  match s.unit? o.uid with
  | none => s
  | some u =>
    let d := descOf o.desc
    let idx := indexList s u d
    if o.err || o.waiting.isSome then s
    else match gatherFault o d s idx with
      | (.ok _, s1) =>
        let n := cutCount s1 idx.length
        (moveElems o u d ((idx.mapIdx (fun j i => (j, i))).take n.1) n.2).2
      | _ => s

/-- An UPD word that stands unfinished is cut between two of its lanes (R295), and gives the record of R333. -/
def cutStanding (a : Agent) (f : Nat) (s : State) (x : Unfinished) : State :=
  match x.entry.instr with
  | some i =>
    if !isUpdate i then s
    else
      let c := standingCap s a i x
      let reg := x.reg
      (match i.desc with
       | .m _ o =>
         let acc := accessOf reg o c
         if acc.lanes = [] then s
         else
           let n := cutCount s acc.lanes.length
           let s1 := match perform (bodyOf i) { c with active := (acc.lanes.take n.1).map Prod.fst } false n.2 with
             | .ok st => st
             | _ => n.2
           s1.report (cutReport f (bits x.entry.word 53 9).toNat acc.foot.1 (acc.foot.1 + acc.foot.2) a.site)
       | _ => s)
  | none => s

/-- The operations of a function that its reset cuts short: their first elements are performed (R295, R333). -/
def cutShort (s : State) (f : Nat) : State :=
  let s1 := s.engineOps.foldl (fun st o => if o.func = f ∧ o.kind = .bscat then cutScatter st o else st) s
  (s.units.filterMap (fun p => p.2.map (fun u => (p.1, u)))).foldl (fun st p =>
    if p.2.func = f then
      (unitSlots st p.1).foldl (fun q sl => match q.group? p.2.core sl with
        | some g => g.front.unfinished.foldl (fun r x => cutStanding (.group p.2.core sl) f r x) q
        | none => q) st
    else st) s1

/-- Function reset (R333): cut operations are recorded, the function is torn down, and its registers and tables take
their reset values. [DEDUCED, log 60] -/
def resetFunc (s : State) (f : Nat) : State :=
  let s0 := (cutWords s f ++ cutCopies s f).foldl (fun st r => st.report r) s
  let s1 := cutShort s0 f
  let s2 := teardown (flushReports s1) f
  { s2.setFunc f { Func.reset with idleSince := s.clock } with
    tlbs := (keepTlbs s2 (fun e => e.func != f)).tlbs, invals := s2.invals.filter (fun i => i.issuer != f && i.func != f) }

/-- Fields of an FCFG write (R344). -/
def fcfgOfValue (v : BitVec 512) : Fcfg :=
  { slice := (bits v 384 32).toNat, cchan := bits v 128 256, s2root := (bits v 76 40).toNat * 4096,
    idle := (bits v 48 16).toNat, keyhi := (bits v 28 10).toNat, keylo := (bits v 18 10).toNat,
    wclass := (bits v 8 2).toNat, part := (bits v 1 5).toNat, en := v.getLsbD 0 }

def sliceOk (n : Nat) : Bool := decide (100 ≤ n) && decide (n ≤ 1000000)

/-- The checks of R344 on a function that is to be created. -/
def fcfgOk (s : State) (g : Fcfg) : Bool :=
  decide (g.part < 20) && (s.part g.part).en && decide (1 ≤ g.keylo) && decide (g.keylo ≤ g.keyhi)
    && g.cchan &&& ~~~(s.part g.part).chan == 0 && (decide (g.wclass < 2) || g.cchan != 0) && sliceOk g.slice

def setFcfg (s : State) (f : Nat) (g : Fcfg) : State := { s with fcfg := NatMap.set .reset s.fcfg f g }

/-- SLICE and IDLE, which may change while the function exists. -/
def fcfgChange (old new : Fcfg) : Fcfg := { old with slice := if sliceOk new.slice then new.slice else old.slice, idle := new.idle }

/-- FUNCTION_CREATE (R344): EN 0 becomes 1. -/
def execFunctionCreate (f : Nat) (value : BitVec 512) (s : State) : Host.Outcome State Fault Refusal :=
  let g := fcfgOfValue value
  if f = 0 ∨ 512 < f ∨ !g.en ∨ (s.fcfgOf f).en then notNow "FUNCTION_CREATE"
  else regWrite "FUNCTION_CREATE" 0 s (
    if fcfgOk s g then
      done (updatePower ((setFcfg s f g).modFunc f (fun _ => { Func.reset with idleSince := s.clock })))
    else done s)

/-- FUNCTION_DISABLE (R333, R344): EN 1 becomes 0. -/
def execFunctionDisable (f : Nat) (value : BitVec 512) (s : State) : Host.Outcome State Fault Refusal :=
  let g := fcfgOfValue value
  if f = 0 ∨ 512 < f ∨ g.en ∨ !(s.fcfgOf f).en then notNow "FUNCTION_DISABLE"
  else regWrite "FUNCTION_DISABLE" 0 s (
    let s1 := resetFunc s f
    done (updatePower (setFcfg s1 f { fcfgChange (s1.fcfgOf f) g with en := false })))

-- Keys (R346).

/-- KEY_INSTALL (R346): VALID written as 1 without CLR installs KEYDATA; a write of neither bit does nothing. -/
def execKeyInstall (value : BitVec 64) (s : State) : Host.Outcome State Fault Refusal :=
  if value.getLsbD 1 then notNow "KEY_INSTALL"
  else regWrite "KEY_INSTALL" 0 s (
    if value.getLsbD 0 then done { s with keys := NatMap.set none s.keys s.keysel (some (.pair s.keydata)) } else done s)

/-- KEY_ZEROISE (R346): CLR written as 1, whatever VALID is. -/
def execKeyZeroise (value : BitVec 64) (s : State) : Host.Outcome State Fault Refusal :=
  if value.getLsbD 1 then
    regWrite "KEY_ZEROISE" 0 s (done { s with keys := NatMap.set none s.keys s.keysel none })
  else notNow "KEY_ZEROISE"

-- Register writes (R11, R337).

/-- A ring's control register: EN takes 1 only with LOG2N in range. -/
def ringCtl (r : Ring) (v : Nat) : Ring :=
  let n := v % 32
  { r with log2n := n, en := v / 32 % 2 == 1 && decide (4 ≤ n) && decide (n ≤ 16) }

/-- CQCTL: LOG2N stands while EN is 1 (R301). -/
def cqCtl (x : Func) (v : Nat) : Func :=
  let n := if x.cqen then x.cqlog2n else v % 32
  { x with cqlog2n := n, cqen := v / 32 % 2 == 1 && decide (6 ≤ n) && decide (n ≤ 16) }

/-- W1C. -/
def clearBits (x v : Nat) : Nat := x - Nat.land x v

/-- A write to the part of a window that every function has; none where no writable field without a row of its own lies
there. [DESIGN CHOICE, log 59] -/
def windowWrite (s : State) (f off v : Nat) : Option State :=
  let lock : Bool := (s.func f).cqen
  let put (g : Func → Func) : Option State := some (s.modFunc f g)
  if off = 0x00 then some (if lock then s else s.modFunc f (fun x => { x with cqbase := v / 4096 * 4096 % 2 ^ 57 }))
  else if off = 0x08 then some (acceptRest (s.modFunc f (fun x => cqCtl x v)) f)
  else if off = 0x80 then some (retryFaults (s.modFunc f (fun x => { x with flog := { x.flog with base := v / 32 * 32 % 2 ^ 57 } })) f)
  else if off = 0x88 then some (retryFaults (s.modFunc f (fun x => { x with flog := ringCtl x.flog v })) f)
  else if off = 0x90 then some (retryFaults (s.modFunc f (fun x => { x with flog := { x.flog with head := v % 65536 } })) f)
  else if off = 0xC0 then some (if lock then s else s.modFunc f (fun x => { x with s1root := v / 4096 * 4096 % 2 ^ 52 }))
  else if off = 0x100 then some (if lock then s else s.modFunc f (fun x => { x with savebase := v / 4096 * 4096 % 2 ^ 57 }))
  else if off = 0x108 then some (if lock then s else s.modFunc f (fun x => { x with savesize := v / 4096 * 4096 % 2 ^ 32 }))
  else if off = 0x144 then put (fun x => { x with wmiss := x.wmiss &&& ~~~(BitVec.ofNat 32 v) })
  else if 0x200 ≤ off ∧ off < 0x250 ∧ off % 8 = 0 then
    let n := (off - 0x200) / 8
    let left (x : Func) : DWord := NatMap.get 0 x.counters n &&& ~~~(BitVec.ofNat 64 v)
    put (fun x => { x with counters := NatMap.set 0 x.counters n (left x) })
  else if off = 0x300 then put (fun x => { x with elog := { x.elog with base := v / 64 * 64 % 2 ^ 57 } })
  else if off = 0x308 then put (fun x => { x with elog := ringCtl x.elog v })
  else if off = 0x310 then put (fun x => { x with elog := { x.elog with head := v % 65536 } })
  else none

/-- A write to a partition record, CTL aside (R340, R341). [DESIGN CHOICE, log 59] -/
def partWrite (s : State) (p o v : Nat) : State :=
  let x := s.part p
  if o = 0 then (if x.en then s else s.setPart p { x with clus := BitVec.ofNat 64 v })
  else if o = 16 then s.setPart p { x with ebref := BitVec.ofNat 32 v }
  else if o = 20 then (if v % 2 ^ 32 < 128 then s else s.setPart p { x with ebcap := BitVec.ofNat 32 v })
  else if o = 24 then (if x.en then s else s.setPart p { x with lanes := BitVec.ofNat 128 (v % 2 ^ 72) })
  else if o = 64 then (if x.en then s else s.setPart p { x with chan := BitVec.ofNat 256 v })
  else s

/-- An FCFG write that neither creates nor disables the function (R344). The idle time of one whose IDLE was 0 begins (R348).
[DESIGN CHOICE, log 59] -/
def fcfgWrite (s : State) (f v : Nat) : State :=
  let g := fcfgOfValue (BitVec.ofNat 512 v)
  let old := s.fcfgOf f
  if old.en then
    let s1 := setFcfg s f (fcfgChange old g)
    if old.idle = 0 ∧ g.idle ≠ 0 then s1.modFunc f (fun x => { x with idleSince := max x.idleSince s.clock }) else s1
  else setFcfg s f g

/-- A write to a placement advisory table: W1C (R219). `o` counts bytes from the table's start. -/
def advisoryWrite (s : State) (d o v : Nat) : State :=
  s.modDie d (fun x =>
    let e := NatMap.get 0 x.advisory (o / 16)
    { x with advisory := NatMap.set 0 x.advisory (o / 16) (e &&& ~~~(BitVec.ofNat 128 (v * 2 ^ (8 * (o % 16))))) })

/-- A write to ROUTE, byte by byte (R343). [DESIGN CHOICE, log 9] -/
def routeWrite (s : State) (o size v : Nat) : State :=
  { s with route := NatMap.setRange 0 s.route o (leBytes (min size (5120 - o)) v) }

/-- A write to a package-wide register of the physical function's window (R337). [DESIGN CHOICE, log 59] -/
def packageWrite (s : State) (off size v : Nat) : Option State :=
  if 0x100000 ≤ off ∧ off < 0x100A00 then
    if (off - 0x100000) % 128 = 8 then none else some (partWrite s ((off - 0x100000) / 128) ((off - 0x100000) % 128) v)
  else if 0x110040 ≤ off ∧ off ≤ 0x118000 ∧ off % 64 = 0 then
    let f := (off - 0x110000) / 64
    if (fcfgOfValue (BitVec.ofNat 512 v)).en = (s.fcfgOf f).en then some (fcfgWrite s f v) else none
  else if 0x120000 ≤ off ∧ off < 0x124020 ∧ off % 8 = 4 then
    let f := (off - 0x120000) / 32
    some (s.modDie (off / 8 % 4) (fun x => { x with lim := NatMap.set 0xFFFFF x.lim f (BitVec.ofNat 20 v) }))
  else if off = 0x130000 then some { s with keysel := v % 1024 }
  else if off = 0x130040 then some { s with keydata := BitVec.ofNat 512 v }
  else if off = 0x130140 then
    some { s with pfebRef := BitVec.ofNat 32 v,
                  pfebCap := if v / 2 ^ 32 % 2 ^ 32 < 128 then s.pfebCap else BitVec.ofNat 32 (v / 2 ^ 32) }
  else if off = 0x130300 then
    if 8 ≤ v / 2 ^ 64 % 16 then
      some (if s.repairStatus = .busy ∧ v / 2 ^ 69 % 2 = 1 then s
        else
          let s1 := { s with repairReg := ⟨v / 2 ^ 64 % 16, BitVec.ofNat 64 v⟩ }
          if v / 2 ^ 69 % 2 = 1 then { s1 with repairStatus := .failed } else s1)
    else none
  else if off = 0x130420 then some (if 600 ≤ v % 4096 ∧ v % 4096 ≤ 2300 then { s with plimit := v % 4096 } else s)
  else if 0x140000 ≤ off ∧ off < 0x141400 then some (routeWrite s (off - 0x140000) size v)
  else if 0x1000000 ≤ off ∧ off < 0x1400000 then
    some (advisoryWrite s ((off - 0x1000000) / 0x100000) ((off - 0x1000000) % 0x100000) (v % 2 ^ (8 * size)))
  else none

/-- Offsets whose writes have rows of their own. -/
def ownRow (off : Nat) : Bool :=
  off == 0x10 || off == 0x40 || off == 0x140

def ownPackageRow (off : Nat) : Bool :=
  [0x130008, 0x130100, 0x130200, 0x130300, 0x130320, 0x130480].contains off
    || (decide (0x100000 ≤ off) && decide (off < 0x100A00) && (off - 0x100000) % 128 == 8)
    || (decide (0x110040 ≤ off) && decide (off ≤ 0x118000) && off % 64 == 0)

/-- REGISTER_WRITE (R11, R337): the write of a register that has no row of its own, or of FANSWER with its reserved ACTION,
which is ignored (R234). Read-only fields and offsets that
hold nothing keep what they hold; a virtual function's write to a package-wide register does nothing. -/
def execRegisterWrite (w : RegWrite) (s : State) : Host.Outcome State Fault Refusal :=
  regWrite "REGISTER_WRITE" w.func s (
    if w.offset < 0x10000 then
      if w.offset = 0x40 ∧ w.value / 2 ^ 34 % 4 = 3 then done s
      else if ownRow w.offset then notNow "REGISTER_WRITE"
      else done ((windowWrite s w.func w.offset w.value).getD s)
    else if w.func ≠ 0 then done s
    else
      match packageWrite s w.offset w.size w.value with
      | some s1 => done s1
      | none => if ownPackageRow w.offset then notNow "REGISTER_WRITE" else done s)

end Sys2Proof.Machine
end

