-- ==== Sys2Proof/Machine/Repair.lean ====
section
/-! DEFINITION. Repairs (R352 to R354), clearing poison (R355), power (R366), bring-up (R367 to R369), attestation (R370)
and link errors (R362). -/

namespace Sys2Proof.Machine

-- REPAIR (R353, R354).

/-- TARGET is in range, and its MBZ bits are 0, for a type. [DEDUCED, log 61] -/
def targetOk (ty : Nat) (t : DWord) : Bool :=
  match ty with
  | 0 | 1 => bits t 31 33 == 0
  | 2 => bits t 6 2 == 0 && bits t 16 48 == 0 && decide ((bits t 8 8).toNat ≤ 128)
  | 3 => bits t 6 2 == 0 && bits t 17 47 == 0 && decide ((bits t 8 9).toNat ≤ 256)
  | 4 => bits t 7 57 == 0 && decide ((bits t 2 5).toNat ≤ 17)
  | 5 => bits t 40 24 == 0
  | 6 => bits t 10 54 == 0
  | 7 => bits t 7 57 == 0 && decide ((bits t 0 5).toNat ≤ 17)
  | _ => false

/-- The place whose spares a repair takes from (R352): bank, engine, die, array, boundary and way, or port.
[DESIGN CHOICE, log 23] -/
def sparePool (ty : Nat) (t : DWord) : Nat :=
  match ty with
  | 0 | 1 => (bits t 0 13).toNat
  | 2 | 3 => (bits t 0 6).toNat
  | 4 => (bits t 0 2).toNat
  | 5 => Config.sramArray (bits t 0 40).toNat
  | 6 => 2 * (bits t 0 2).toNat + (if Config.laneWay (bits t 0 2).toNat (bits t 2 8).toNat then 1 else 0)
  | _ => (bits t 0 5).toNat

/-- How many spares a pool has (R352). Those of an SRAM array are as fused. [DESIGN CHOICE, log 23] -/
def spareCount (ty : Nat) (t : DWord) : Nat :=
  match ty with
  | 1 => 2
  | 2 => 4
  | 3 => 2
  | 4 => 2
  | 5 => Config.sramSpares (sparePool 5 t)
  | 6 => 8
  | 7 => 1
  | _ => 0

/-- Repairs already scheduled from the same pool. -/
def sparesUsed (s : State) (ty : Nat) (t : DWord) : Nat :=
  (s.repairMap.filter (fun r => r.ty == ty && sparePool ty r.target == sparePool ty t)).length

/-- The REPAIR record (R354, R362): 2 done, 3 failed. [DEDUCED, log 61] -/
def repairReport (s : State) (ty status : Nat) (t : DWord) : State :=
  s.report ⟨6, if ty ≤ 1 then 3 else 0, 0x10, none, none, 0, 0, 0, status, t.toNat⟩

/-- A write of REPAIR for its row's type. `start` acts on a target that is in range. [DEDUCED, log 61] -/
def repairWrite (row : String) (ty : Nat) (value : BitVec 128) (s : State) (start : DWord → State → State) :
    Host.Outcome State Fault Refusal :=
  if (bits value 64 4).toNat ≠ ty then notNow row
  else regWrite row 0 s (
    let t := bits value 0 64
    let go := value.getLsbD 69
    if s.repairStatus = .busy ∧ go = true then done s
    else
      let s1 := { s with repairReg := ⟨ty, t⟩ }
      if !go then done s1
      else if value.getLsbD 68 || bits value 72 56 != 0 || !targetOk ty t then done { s1 with repairStatus := .failed }
      else done (start t s1))

/-- Add a repair to the persistent repair map, or fail for want of a spare (R354). -/
def schedule (ty : Nat) (t : DWord) (s : State) : State :=
  if sparesUsed s ty t < spareCount ty t then
    repairReport { s with repairMap := s.repairMap ++ [⟨ty, t⟩], repairStatus := .done } ty 2 t
  else repairReport { s with repairStatus := .failed } ty 3 t

/-- REPAIR_SOFT_ROW (R354): the channel is quiesced; it leaves self-refresh. -/
def execRepairSoftRow (value : BitVec 128) (s : State) : Host.Outcome State Fault Refusal :=
  repairWrite "REPAIR_SOFT_ROW" 0 value s (fun t s1 =>
    if s1.softUsed.contains (sparePool 0 t) then repairReport { s1 with repairStatus := .failed } 0 3 t
    else { s1 with repairStatus := .busy, softRow := some t,
                   selfRefresh := s1.selfRefresh.filter (fun c => c != (bits t 0 8).toNat) })

/-- SOFT_REPAIR_COMPLETE (R354): the spare takes the row's address, with its data and marks. -/
def execSoftRepairComplete (s : State) : Host.Outcome State Fault Refusal :=
  match s.softRow with
  | none => notNow "SOFT_REPAIR_COMPLETE"
  | some t =>
    let s1 := { s with softRow := none, repairStatus := .done, softUsed := s.softUsed ++ [sparePool 0 t] }
    done (repairReport { s1 with selfRefresh := (List.range 256).filter (channelRests s1) } 0 2 t)

/-- REPAIR_HARD_ROW (R354). -/
def execRepairHardRow (value : BitVec 128) (s : State) : Host.Outcome State Fault Refusal :=
  repairWrite "REPAIR_HARD_ROW" 1 value s (schedule 1)

/-- REPAIR_ARRAY_COLUMN (R354). -/
def execRepairArrayColumn (value : BitVec 128) (s : State) : Host.Outcome State Fault Refusal :=
  repairWrite "REPAIR_ARRAY_COLUMN" 2 value s (schedule 2)

/-- REPAIR_ARRAY_ROW (R354). -/
def execRepairArrayRow (value : BitVec 128) (s : State) : Host.Outcome State Fault Refusal :=
  repairWrite "REPAIR_ARRAY_ROW" 3 value s (schedule 3)

/-- REPAIR_CLUSTER (R354). -/
def execRepairCluster (value : BitVec 128) (s : State) : Host.Outcome State Fault Refusal :=
  repairWrite "REPAIR_CLUSTER" 4 value s (schedule 4)

/-- REPAIR_SRAM_ROW (R354). -/
def execRepairSramRow (value : BitVec 128) (s : State) : Host.Outcome State Fault Refusal :=
  repairWrite "REPAIR_SRAM_ROW" 5 value s (schedule 5)

/-- REPAIR_D2D_LANE (R354). -/
def execRepairD2dLane (value : BitVec 128) (s : State) : Host.Outcome State Fault Refusal :=
  repairWrite "REPAIR_D2D_LANE" 6 value s (schedule 6)

/-- REPAIR_FABRIC_LANE (R354). -/
def execRepairFabricLane (value : BitVec 128) (s : State) : Host.Outcome State Fault Refusal :=
  repairWrite "REPAIR_FABRIC_LANE" 7 value s (schedule 7)

-- Poison (R355).

/-- Every copy of a line goes, of cores, dies and the host (R355). -/
def dropLine (s : State) (line : Nat) : State :=
  let s1 := (List.range 4).foldl (fun st i => invalidateCopies st (4 * line + i)) (s.coreKeys.foldl (fun st c => dropL1Line st c line) s)
  { s1 with hostHeld := NatMap.set 0 s1.hostHeld line 0 }

/-- Clear a sector at its home: nothing is merged, zeros are written, the mark goes, every copy of the line goes. Of a line that was
poisoned whole, the sectors that keep their mark keep it each for itself. [DEDUCED, log 55] -/
def clearSector (s : State) (pa : Nat) : State :=
  let sec := secOf pa
  let s0 := dropLine s (lineOf pa)
  let s1 := { s0 with poisonLines := s0.poisonLines.filter (fun l => l != lineOf pa) }
  let zero := List.replicate 64 (0 : Byte)
  let s2 := forgetPartials s1 sec
  if homeOf s2 pa = 4 then
    { s2 with mem := NatMap.setRange 0 s2.mem (64 * sec) zero, poison := s2.poison.filter (fun q => q != sec) }
  else
    let s3 := { fillHome s2 sec with
      poison := s2.poison.filter (fun q => q != sec), secKey := NatMap.set .boot s2.secKey sec .unbound }
    setDir (markDirty { s3 with home := NatMap.setRange 0 s3.home (64 * sec) zero,
                                lastW := (List.range 16).foldl (fun m i => NatMap.set [] m (16 * sec + i) []) s3.lastW }
        (64 * sec) 64)
      sec ⟨.m, false, 0, 0, 0, false⟩

/-- PCLR (R355). -/
def execPclr (value : BitVec 64) (s : State) : Host.Outcome State Fault Refusal :=
  regWrite "PCLR" 0 s (
    let pa := (bits value 6 46).toNat * 64
    let s1 := { s with pclrPa := pa }
    if value.getLsbD 0 && populated pa then done (clearSector s1 pa) else done s1)

-- Attestation (R370).

def partBytes (x : Part) : List Byte :=
  leBytes 8 x.clus.toNat ++ leBytes 8 ((if x.en then 1 else 0) + (if x.err then 2 else 0) + 4 * x.ppid + 2 ^ 14 * x.node)
    ++ leBytes 4 x.ebref.toNat ++ leBytes 4 x.ebcap.toNat ++ leBytes 16 x.lanes.toNat ++ List.replicate 24 0
    ++ leBytes 32 x.chan.toNat ++ List.replicate 32 0

def fcfgBytes (g : Fcfg) : List Byte :=
  leBytes 64 ((if g.en then 1 else 0) + 2 * g.part + 2 ^ 8 * g.wclass + 2 ^ 18 * g.keylo + 2 ^ 28 * g.keyhi
    + 2 ^ 48 * g.idle + 2 ^ 76 * (g.s2root / 4096) + 2 ^ 128 * g.cchan.toNat + 2 ^ 384 * g.slice)

/-- PART0 to PART19, FCFG1 to FCFG512, PSPLIT and ROUTE, in the order of their offsets. [DESIGN CHOICE, log 46] -/
def configBytes (s : State) : List Byte :=
  (List.range 20).flatMap (fun p => partBytes (s.part p))
    ++ (List.range 512).flatMap (fun i => fcfgBytes (s.fcfgOf (i + 1)))
    ++ leBytes 8 s.psplit.toNat ++ NatMap.getRange 0 s.route 0 5120

/-- The persistent repair map, entry by entry. [DESIGN CHOICE, log 46] -/
def repairBytes (s : State) : List Byte := s.repairMap.flatMap (fun r => leBytes 8 r.ty ++ leBytes 8 r.target.toNat)

/-- ATTEST (R11, R370): ADDR is set; GO starts the operation on that buffer, with the configuration's digest as it stands now,
and is ignored while one is under way. -/
def execAttest (value : BitVec 128) (s : State) : Host.Outcome State Fault Refusal :=
  regWrite "ATTEST" 0 s (
    let s1 := { s with attAddr := (bits value 12 45).toNat * 4096 }
    if value.getLsbD 64 ∧ s.attStatus ≠ .busy then
      done { s1 with attStatus := .busy, attBuf := s1.attAddr, attDigest := sha3 (configBytes s) }
    else done s1)

/-- Bytes 0 to 271 of the report. [DESIGN CHOICE, log 46] -/
def reportHead (s : State) (nonce : List Byte) : List Byte :=
  nonce ++ leBytes 64 (sha3 s.firmware).toNat ++ leBytes 64 (sha3 (repairBytes s)).toNat ++ leBytes 64 s.attDigest.toNat
    ++ leBytes 4 s.fwVersion ++ leBytes 12 Config.deviceSerial.toNat

/-- ATTEST_COMPLETE (R370, R372): the nonce is read, the report is written, and STATUS becomes 2 as a release at system
scope; a fault on the buffer makes it 3. -/
def execAttestComplete (s : State) : Host.Outcome State Fault Refusal :=
  match s.attStatus with
  | .busy =>
    (match deviceRead 0 64 s s.attBuf with
     | (none, s1) => done { s1 with attStatus := .failed }
     | (some nonce, s1) =>
       let head := reportHead s1 nonce
       let sig := (List.range 4627).map (Config.mlDsa87 (sha3 head))
       match deviceWriteOr s1 0 s.attBuf 5 (head ++ sig) with
       | (true, s2) => done (reportRelease { s2 with attStatus := .done })
       | (false, s2) => done { s2 with attStatus := .failed })
  | _ => notNow "ATTEST_COMPLETE"

/-- CERT_CHAIN_READ (R370): the chain of the identity key through the DOE mailbox. -/
def execCertChainRead (s : State) : Host.Outcome State Fault Refusal := done { s with doeOut := Config.certChain }

-- Power (R366) and links (R362).

/-- POWER_THROTTLE (R366): THR counts the microseconds, and saturates; nothing else is visible but time. -/
def execPowerThrottle (us : Nat) (s : State) : Host.Outcome State Fault Refusal :=
  done { s with throttled := BitVec.ofNat 32 (min (s.throttled.toNat + us) (2 ^ 32 - 1)) }

/-- LINK_LANE_ERROR (R362): a LINK record names the boundary or port, and the lane. -/
def execLinkLaneError (_fabric : Bool) (boundary lane : Nat) (s : State) : Host.Outcome State Fault Refusal :=
  done (s.report (event0 0 0x06 boundary lane 0))

-- Bring-up (R367 to R369).

/-- The header of an image: its security version and the digest of its body (R369). [DESIGN CHOICE, log 46] -/
def headerBytes (fw : Firmware) : List Byte := leBytes 4 fw.version ++ leBytes 64 fw.digest.toNat

/-- The boot ROM's check of an image: the number of the refusal, in the order of R369, or 0.
[DESIGN CHOICE, log 22; DEDUCED, log 47] -/
def firmwareCheck (rollback : Nat) (fw : Firmware) : Nat :=
  if sha3 fw.key ≠ Config.fusedKeyHash then 1
  else if !Config.mlDsaVerify fw.key (sha3 (headerBytes fw)) fw.signature then 2
  else if sha3 fw.body ≠ fw.digest then 3
  else if fw.version < rollback then 4
  else 0

/-- What package reset leaves of a state: host memory, what persists in the device, and the model's own bookkeeping.
[DESIGN CHOICE, log 10] -/
def resetPackage (s : State) : State :=
  { State.reset with
    agenda := s.agenda, fresh := s.fresh, mem := s.mem.filter (fun p => isHost p.1), repairMap := s.repairMap,
    rollback := s.rollback, resets := s.resets + 1 }

/-- Bring-up with an image of which step 1 has found `err` (R367, R368); a later step may fail for hardware, with its failing check.
[DESIGN CHOICE, log 22] -/
def startUp (s : State) (fw : Firmware) (b : BringUp) (err : Nat) : State :=
  let s0 := resetPackage s
  if err ≠ 0 then { s0 with boot := ⟨2, 0, err, false⟩ }
  else
    let s1 := { s0 with rollback := max s0.rollback fw.version, firmware := fw.body, fwVersion := fw.version }
    let keyed (st : State) : State := { st with keys := NatMap.set none st.keys 0 (some .boot) }
    match b.failStep with
    | some (n, e) =>
      if n ≤ 1 then { s0 with boot := ⟨2, 0, e, false⟩ }
      else if n ≤ 7 then
        let s2 := { s1 with boot := ⟨3, n - 1, e, decide (n = 7) && b.h1Coherent⟩ }
        if n ≤ 4 then s2 else keyed s2
      else { keyed s1 with boot := ⟨1, 7, 0, b.h1Coherent⟩ }
    | none => { keyed s1 with boot := ⟨1, 7, 0, b.h1Coherent⟩ }

/-- Bring-up with an image (R367 to R369): the boot ROM checks it, against the counter that the device keeps. -/
def bringUp (s : State) (fw : Firmware) (b : BringUp) : State := startUp s fw b (firmwareCheck s.rollback fw)

/-- PACKAGE_RESET (R367 to R369). -/
def execPackageReset (fw : Firmware) (h1Coherent : Bool) (failStep : Option (Nat × Nat)) (s : State) :
    Host.Outcome State Fault Refusal := done (bringUp s fw ⟨h1Coherent, failStep⟩)

/-- RECOVERY_IMAGE (R368): in recovery the device accepts one new image, then resets itself and brings itself up with it. -/
def execRecoveryImage (fw : Firmware) (b : BringUp) (s : State) : Host.Outcome State Fault Refusal :=
  if s.boot.state = 2 then done (bringUp s fw b) else notNow "RECOVERY_IMAGE"

end Sys2Proof.Machine
end

