-- ==== Sys2Proof/Machine/Dispatch.lean ====
section
/-! DEFINITION. The dispatcher: one arm for each row of the opcode table. -/

namespace Sys2Proof.Machine

def exec (i : Instr) (s : State) : Host.Outcome State Fault Refusal :=
  match i with
  | .nop o => Sys2Proof.Machine.execNop o s
  | .pairWord o => Sys2Proof.Machine.execPairWord o s
  | .iadd o => Sys2Proof.Machine.execIadd o s
  | .isub o => Sys2Proof.Machine.execIsub o s
  | .imul o => Sys2Proof.Machine.execImul o s
  | .imulhi o => Sys2Proof.Machine.execImulhi o s
  | .imad o => Sys2Proof.Machine.execImad o s
  | .ineg o => Sys2Proof.Machine.execIneg o s
  | .iabs o => Sys2Proof.Machine.execIabs o s
  | .imin o => Sys2Proof.Machine.execImin o s
  | .imax o => Sys2Proof.Machine.execImax o s
  | .iminu o => Sys2Proof.Machine.execIminu o s
  | .imaxu o => Sys2Proof.Machine.execImaxu o s
  | .iaddWide o => Sys2Proof.Machine.execIaddWide o s
  | .imulWide o => Sys2Proof.Machine.execImulWide o s
  | .andWide o => Sys2Proof.Machine.execAndWide o s
  | .orWide o => Sys2Proof.Machine.execOrWide o s
  | .xorWide o => Sys2Proof.Machine.execXorWide o s
  | .iminWide o => Sys2Proof.Machine.execIminWide o s
  | .imaxWide o => Sys2Proof.Machine.execImaxWide o s
  | .movi o => Sys2Proof.Machine.execMovi o s
  | .moviHi o => Sys2Proof.Machine.execMoviHi o s
  | .shl o => Sys2Proof.Machine.execShl o s
  | .shra o => Sys2Proof.Machine.execShra o s
  | .shrl o => Sys2Proof.Machine.execShrl o s
  | .rotl o => Sys2Proof.Machine.execRotl o s
  | .and o => Sys2Proof.Machine.execAnd o s
  | .or o => Sys2Proof.Machine.execOr o s
  | .xor o => Sys2Proof.Machine.execXor o s
  | .andn o => Sys2Proof.Machine.execAndn o s
  | .not o => Sys2Proof.Machine.execNot o s
  | .popc o => Sys2Proof.Machine.execPopc o s
  | .clz o => Sys2Proof.Machine.execClz o s
  | .brev o => Sys2Proof.Machine.execBrev o s
  | .bfx o => Sys2Proof.Machine.execBfx o s
  | .bfi o => Sys2Proof.Machine.execBfi o s
  | .prmt o => Sys2Proof.Machine.execPrmt o s
  | .mov o => Sys2Proof.Machine.execMov o s
  | .kmov o => Sys2Proof.Machine.execKmov o s
  | .rdspec o => Sys2Proof.Machine.execRdspec o s
  | .iwiden o => Sys2Proof.Machine.execIwiden o s
  | .klo o => Sys2Proof.Machine.execKlo o s
  | .khi o => Sys2Proof.Machine.execKhi o s
  | .icmp o => Sys2Proof.Machine.execIcmp o s
  | .pand o => Sys2Proof.Machine.execPand o s
  | .por o => Sys2Proof.Machine.execPor o s
  | .pxor o => Sys2Proof.Machine.execPxor o s
  | .pnot o => Sys2Proof.Machine.execPnot o s
  | .sel o => Sys2Proof.Machine.execSel o s
  | .lread o => Sys2Proof.Machine.execLread o s
  | .lshfx o => Sys2Proof.Machine.execLshfx o s
  | .lbcast o => Sys2Proof.Machine.execLbcast o s
  | .lsum o => Sys2Proof.Machine.execLsum o s
  | .lmax o => Sys2Proof.Machine.execLmax o s
  | .vote o => Sys2Proof.Machine.execVote o s
  | .lprefix o => Sys2Proof.Machine.execLprefix o s
  | .bra o => Sys2Proof.Machine.execBra o s
  | .brc o => Sys2Proof.Machine.execBrc o s
  | .brp o => Sys2Proof.Machine.execBrp o s
  | .jmpx o => Sys2Proof.Machine.execJmpx o s
  | .call o => Sys2Proof.Machine.execCall o s
  | .ret o => Sys2Proof.Machine.execRet o s
  | .reform o => Sys2Proof.Machine.execReform o s
  | .exit o => Sys2Proof.Machine.execExit o s
  | .fadd o => Sys2Proof.Machine.execFadd o s
  | .fsub o => Sys2Proof.Machine.execFsub o s
  | .fmul o => Sys2Proof.Machine.execFmul o s
  | .ffma o => Sys2Proof.Machine.execFfma o s
  | .fsqrt o => Sys2Proof.Machine.execFsqrt o s
  | .dadd o => Sys2Proof.Machine.execDadd o s
  | .dmul o => Sys2Proof.Machine.execDmul o s
  | .dfma o => Sys2Proof.Machine.execDfma o s
  | .fmin o => Sys2Proof.Machine.execFmin o s
  | .fmax o => Sys2Proof.Machine.execFmax o s
  | .dmin o => Sys2Proof.Machine.execDmin o s
  | .dmax o => Sys2Proof.Machine.execDmax o s
  | .fcmp o => Sys2Proof.Machine.execFcmp o s
  | .dcmp o => Sys2Proof.Machine.execDcmp o s
  | .fclass o => Sys2Proof.Machine.execFclass o s
  | .frcp o => Sys2Proof.Machine.execFrcp o s
  | .frsq o => Sys2Proof.Machine.execFrsq o s
  | .fexp2 o => Sys2Proof.Machine.execFexp2 o s
  | .flog2 o => Sys2Proof.Machine.execFlog2 o s
  | .fsin o => Sys2Proof.Machine.execFsin o s
  | .fcos o => Sys2Proof.Machine.execFcos o s
  | .hadd2 o => Sys2Proof.Machine.execHadd2 o s
  | .hmul2 o => Sys2Proof.Machine.execHmul2 o s
  | .hfma2 o => Sys2Proof.Machine.execHfma2 o s
  | .hmax2 o => Sys2Proof.Machine.execHmax2 o s
  | .f2i o => Sys2Proof.Machine.execF2i o s
  | .i2f o => Sys2Proof.Machine.execI2f o s
  | .f2f o => Sys2Proof.Machine.execF2f o s
  | .f2d o => Sys2Proof.Machine.execF2d o s
  | .d2f o => Sys2Proof.Machine.execD2f o s
  | .cvts o => Sys2Proof.Machine.execCvts o s
  | .cvtl o => Sys2Proof.Machine.execCvtl o s
  | .aset o => Sys2Proof.Machine.execAset o s
  | .aget o => Sys2Proof.Machine.execAget o s
  | .ld o => Sys2Proof.Machine.execLd o s
  | .st o => Sys2Proof.Machine.execSt o s
  | .ldu o => Sys2Proof.Machine.execLdu o s
  | .ldx o => Sys2Proof.Machine.execLdx o s
  | .stx o => Sys2Proof.Machine.execStx o s
  | .ldy o => Sys2Proof.Machine.execLdy o s
  | .pref o => Sys2Proof.Machine.execPref o s
  | .cinv o => Sys2Proof.Machine.execCinv o s
  | .cwb o => Sys2Proof.Machine.execCwb o s
  | .atomAdd o => Sys2Proof.Machine.execAtomAdd o s
  | .atomAnd o => Sys2Proof.Machine.execAtomAnd o s
  | .atomOr o => Sys2Proof.Machine.execAtomOr o s
  | .atomXor o => Sys2Proof.Machine.execAtomXor o s
  | .atomMin o => Sys2Proof.Machine.execAtomMin o s
  | .atomMax o => Sys2Proof.Machine.execAtomMax o s
  | .atomExch o => Sys2Proof.Machine.execAtomExch o s
  | .atomIncw o => Sys2Proof.Machine.execAtomIncw o s
  | .atomDecw o => Sys2Proof.Machine.execAtomDecw o s
  | .atomAddb o => Sys2Proof.Machine.execAtomAddb o s
  | .atomfAdd o => Sys2Proof.Machine.execAtomfAdd o s
  | .atomfMin o => Sys2Proof.Machine.execAtomfMin o s
  | .atomfMax o => Sys2Proof.Machine.execAtomfMax o s
  | .cas o => Sys2Proof.Machine.execCas o s
  | .redAdd o => Sys2Proof.Machine.execRedAdd o s
  | .redAnd o => Sys2Proof.Machine.execRedAnd o s
  | .redOr o => Sys2Proof.Machine.execRedOr o s
  | .redXor o => Sys2Proof.Machine.execRedXor o s
  | .redMin o => Sys2Proof.Machine.execRedMin o s
  | .redMax o => Sys2Proof.Machine.execRedMax o s
  | .updAddI32 o => Sys2Proof.Machine.execUpdAddI32 o s
  | .updAddI64 o => Sys2Proof.Machine.execUpdAddI64 o s
  | .updAddF32 o => Sys2Proof.Machine.execUpdAddF32 o s
  | .updMinI32 o => Sys2Proof.Machine.execUpdMinI32 o s
  | .updMaxI32 o => Sys2Proof.Machine.execUpdMaxI32 o s
  | .updMinN32 o => Sys2Proof.Machine.execUpdMinN32 o s
  | .updMaxN32 o => Sys2Proof.Machine.execUpdMaxN32 o s
  | .updMinF32 o => Sys2Proof.Machine.execUpdMinF32 o s
  | .updMaxF32 o => Sys2Proof.Machine.execUpdMaxF32 o s
  | .updOrB32 o => Sys2Proof.Machine.execUpdOrB32 o s
  | .updXorB32 o => Sys2Proof.Machine.execUpdXorB32 o s
  | .updAndB32 o => Sys2Proof.Machine.execUpdAndB32 o s
  | .fence o => Sys2Proof.Machine.execFence o s
  | .cpy o => Sys2Proof.Machine.execCpy o s
  | .cpym o => Sys2Proof.Machine.execCpym o s
  | .cpyw o => Sys2Proof.Machine.execCpyw o s
  | .cpyf o => Sys2Proof.Machine.execCpyf o s
  | .bgath o => Sys2Proof.Machine.execBgath o s
  | .bscat o => Sys2Proof.Machine.execBscat o s
  | .seal o => Sys2Proof.Machine.execSeal o s
  | .reclaim o => Sys2Proof.Machine.execReclaim o s
  | .sealEntryRemove space place start => Sys2Proof.Machine.execSealEntryRemove space place start s
  | .bar o => Sys2Proof.Machine.execBar o s
  | .binit o => Sys2Proof.Machine.execBinit o s
  | .bexp o => Sys2Proof.Machine.execBexp o s
  | .bwait o => Sys2Proof.Machine.execBwait o s
  | .qinit o => Sys2Proof.Machine.execQinit o s
  | .qpush o => Sys2Proof.Machine.execQpush o s
  | .qpop o => Sys2Proof.Machine.execQpop o s
  | .twait o => Sys2Proof.Machine.execTwait o s
  | .tread o => Sys2Proof.Machine.execTread o s
  | .topk o => Sys2Proof.Machine.execTopk o s
  | .bvmask o => Sys2Proof.Machine.execBvmask o s
  | .mma o => Sys2Proof.Machine.execMma o s
  | .mmas o => Sys2Proof.Machine.execMmas o s
  | .mzero o => Sys2Proof.Machine.execMzero o s
  | .mldm o => Sys2Proof.Machine.execMldm o s
  | .mdrain o => Sys2Proof.Machine.execMdrain o s
  | .mqnt o => Sys2Proof.Machine.execMqnt o s
  | .mchk o => Sys2Proof.Machine.execMchk o s
  | .mscl o => Sys2Proof.Machine.execMscl o s
  | .trap o => Sys2Proof.Machine.execTrap o s
  | .sysc o => Sys2Proof.Machine.execSysc o s
  | .tret o => Sys2Proof.Machine.execTret o s
  | .rplx o => Sys2Proof.Machine.execRplx o s
  | .rplw o => Sys2Proof.Machine.execRplw o s
  | .rpld o => Sys2Proof.Machine.execRpld o s
  | .xrd o => Sys2Proof.Machine.execXrd o s
  | .xwr o => Sys2Proof.Machine.execXwr o s
  | .rinit o => Sys2Proof.Machine.execRinit o s
  | .rinitPerform die => Sys2Proof.Machine.execRinitPerform die s
  | .rgrab o => Sys2Proof.Machine.execRgrab o s
  | .lnch o => Sys2Proof.Machine.execLnch o s
  | .cntw o => Sys2Proof.Machine.execCntw o s
  | .cncl o => Sys2Proof.Machine.execCncl o s
  | .dlread o => Sys2Proof.Machine.execDlread o s
  | .idem o => Sys2Proof.Machine.execIdem o s
  | .codeObjectLoad f base obj => Sys2Proof.Machine.execCodeObjectLoad f base obj s
  | .binAged uid key => Sys2Proof.Machine.execBinAged uid key s
  | .binDraw core => Sys2Proof.Machine.execBinDraw core s
  | .binBringBack uid key => Sys2Proof.Machine.execBinBringBack uid key s
  | .dissolutionMark core => Sys2Proof.Machine.execDissolutionMark core s
  | .groupDissolve core slot => Sys2Proof.Machine.execGroupDissolve core slot s
  | .cohortStart offs => Sys2Proof.Machine.execCohortStart offs s
  | .unitComplete uid => Sys2Proof.Machine.execUnitComplete uid s
  | .quartzContextEnd cluster ctx => Sys2Proof.Machine.execQuartzContextEnd cluster ctx s
  | .launchComplete f idx => Sys2Proof.Machine.execLaunchComplete f idx s
  | .copyBytesLand op core span => Sys2Proof.Machine.execCopyBytesLand op core span s
  | .copyComplete op => Sys2Proof.Machine.execCopyComplete op s
  | .gatherComplete op => Sys2Proof.Machine.execGatherComplete op s
  | .engineTranslationFault op => Sys2Proof.Machine.execEngineTranslationFault op s
  | .faultRecordWrite id => Sys2Proof.Machine.execFaultRecordWrite id s
  | .topkComplete core => Sys2Proof.Machine.execTopkComplete core s
  | .prefetchHintFill cluster => Sys2Proof.Machine.execPrefetchHintFill cluster s
  | .matrixGrant cluster faults => Sys2Proof.Machine.execMatrixGrant cluster faults s
  | .matrixOperationComplete cluster seq => Sys2Proof.Machine.execMatrixOperationComplete cluster seq s
  | .ebudRefill => Sys2Proof.Machine.execEbudRefill s
  | .rgrabReply die => Sys2Proof.Machine.execRgrabReply die s
  | .cqtailWrite f value => Sys2Proof.Machine.execCqtailWrite f value s
  | .job f => Sys2Proof.Machine.execJob f s
  | .phase f => Sys2Proof.Machine.execPhase f s
  | .graph f => Sys2Proof.Machine.execGraph f s
  | .close f => Sys2Proof.Machine.execClose f s
  | .cancel f => Sys2Proof.Machine.execCancel f s
  | .wait f => Sys2Proof.Machine.execWait f s
  | .inval f => Sys2Proof.Machine.execInval f s
  | .invalComplete id => Sys2Proof.Machine.execInvalComplete id s
  | .ctxswSave f => Sys2Proof.Machine.execCtxswSave f s
  | .ctxswResume f => Sys2Proof.Machine.execCtxswResume f s
  | .nodeStart f idx => Sys2Proof.Machine.execNodeStart f idx s
  | .workObjectEnd f level idx => Sys2Proof.Machine.execWorkObjectEnd f level idx s
  | .nodeDeadlineExpire f idx => Sys2Proof.Machine.execNodeDeadlineExpire f idx s
  | .phaseDeadlineExpire f idx => Sys2Proof.Machine.execPhaseDeadlineExpire f idx s
  | .cancelHang f level idx => Sys2Proof.Machine.execCancelHang f level idx s
  | .fanswerRetry f tag => Sys2Proof.Machine.execFanswerRetry f tag s
  | .fanswerDeliver f tag => Sys2Proof.Machine.execFanswerDeliver f tag s
  | .fanswerAbort f tag => Sys2Proof.Machine.execFanswerAbort f tag s
  | .tenantSliceEnd cluster => Sys2Proof.Machine.execTenantSliceEnd cluster s
  | .drainTimeout uid => Sys2Proof.Machine.execDrainTimeout uid s
  | .unitSave uid => Sys2Proof.Machine.execUnitSave uid s
  | .forcedSave uid => Sys2Proof.Machine.execForcedSave uid s
  | .quartzContextSave cluster ctx => Sys2Proof.Machine.execQuartzContextSave cluster ctx s
  | .unitRestore f idx cohort => Sys2Proof.Machine.execUnitRestore f idx cohort s
  | .ctxswSliceTimeout f => Sys2Proof.Machine.execCtxswSliceTimeout f s
  | .unitRelaunch uid => Sys2Proof.Machine.execUnitRelaunch uid s
  | .homeReadRequest pa who => Sys2Proof.Machine.execHomeReadRequest pa who s
  | .homeWriteRequest id => Sys2Proof.Machine.execHomeWriteRequest id s
  | .homeAtomic id => Sys2Proof.Machine.execHomeAtomic id s
  | .updRegistration id => Sys2Proof.Machine.execUpdRegistration id s
  | .homeCwb id => Sys2Proof.Machine.execHomeCwb id s
  | .dropNotice die line => Sys2Proof.Machine.execDropNotice die line s
  | .writeApply die home => Sys2Proof.Machine.execWriteApply die home s
  | .lineFill die line => Sys2Proof.Machine.execLineFill die line s
  | .l1CopyExpire core sector => Sys2Proof.Machine.execL1CopyExpire core sector s
  | .partialEvict core sector => Sys2Proof.Machine.execPartialEvict core sector s
  | .collectorEvict die sector => Sys2Proof.Machine.execCollectorEvict die sector s
  | .directoryError line dataCorrect => Sys2Proof.Machine.execDirectoryError line dataCorrect s
  | .hostRead pa n => Sys2Proof.Machine.execHostRead pa n s
  | .hostWrite pa data => Sys2Proof.Machine.execHostWrite pa data s
  | .hostHomeUpdate die line invalidate => Sys2Proof.Machine.execHostHomeUpdate die line invalidate s
  | .h1CoherentLoss => Sys2Proof.Machine.execH1CoherentLoss s
  | .fabricMessageReceive port sub ppid f va kind data => Sys2Proof.Machine.execFabricMessageReceive port sub ppid f va kind data s
  | .fabricWakeReceive port sub ppid f => Sys2Proof.Machine.execFabricWakeReceive port sub ppid f s
  | .eccCorrected pa f va where_ site => Sys2Proof.Machine.execEccCorrected pa f va where_ site s
  | .eccUncorrectable pa f va where_ site => Sys2Proof.Machine.execEccUncorrectable pa f va where_ site s
  | .collapseBegin f => Sys2Proof.Machine.execCollapseBegin f s
  | .wakeWrite f value => Sys2Proof.Machine.execWakeWrite f value s
  | .wakeEnd f => Sys2Proof.Machine.execWakeEnd f s
  | .fabricWakeSend value => Sys2Proof.Machine.execFabricWakeSend value s
  | .partitionEnable p value => Sys2Proof.Machine.execPartitionEnable p value s
  | .partitionDisable p value => Sys2Proof.Machine.execPartitionDisable p value s
  | .functionCreate f value => Sys2Proof.Machine.execFunctionCreate f value s
  | .functionDisable f value => Sys2Proof.Machine.execFunctionDisable f value s
  | .keyInstall value => Sys2Proof.Machine.execKeyInstall value s
  | .keyZeroise value => Sys2Proof.Machine.execKeyZeroise value s
  | .psplitWrite value => Sys2Proof.Machine.execPsplitWrite value s
  | .repairSoftRow value => Sys2Proof.Machine.execRepairSoftRow value s
  | .softRepairComplete => Sys2Proof.Machine.execSoftRepairComplete s
  | .repairHardRow value => Sys2Proof.Machine.execRepairHardRow value s
  | .repairArrayColumn value => Sys2Proof.Machine.execRepairArrayColumn value s
  | .repairArrayRow value => Sys2Proof.Machine.execRepairArrayRow value s
  | .repairCluster value => Sys2Proof.Machine.execRepairCluster value s
  | .repairSramRow value => Sys2Proof.Machine.execRepairSramRow value s
  | .repairD2dLane value => Sys2Proof.Machine.execRepairD2dLane value s
  | .repairFabricLane value => Sys2Proof.Machine.execRepairFabricLane value s
  | .pclr value => Sys2Proof.Machine.execPclr value s
  | .attest value => Sys2Proof.Machine.execAttest value s
  | .powerThrottle us => Sys2Proof.Machine.execPowerThrottle us s
  | .packageReset fw h1Coherent failStep => Sys2Proof.Machine.execPackageReset fw h1Coherent failStep s
  | .recoveryImage fw h1Coherent => Sys2Proof.Machine.execRecoveryImage fw h1Coherent s
  | .certChainRead => Sys2Proof.Machine.execCertChainRead s
  | .registerWrite w => Sys2Proof.Machine.execRegisterWrite w s
  | .collapseComplete f => Sys2Proof.Machine.execCollapseComplete f s
  | .attestComplete => Sys2Proof.Machine.execAttestComplete s
  | .linkLaneError fabric boundary lane => Sys2Proof.Machine.execLinkLaneError fabric boundary lane s

end Sys2Proof.Machine
end

