-- ==== Sys2Proof/Machine/Step.lean ====
section
/-! DEFINITION. One step: the next turn of the agenda, an issue, a finish or an event. -/

namespace Sys2Proof.Machine

/-- One step of the package (R24, R199). -/
def step (s : State) : Host.Outcome State Fault Refusal := takeStep exec s

/-- `s` with the given word as the next one that step fetches. [DESIGN CHOICE, log 11] -/
def State.withFetchWord (s : State) (_nbits w : Nat) : State := placeWord s (BitVec.ofNat 64 w)

end Sys2Proof.Machine
end

