-- ==== Sys2Proof/Machine/Registers.lean ====
section
/-! DEFINITION. What a read of a register returns (R11, R337): the registers of a function's window, and for the physical
function the package-wide registers. Offsets that hold nothing read 0. -/

namespace Sys2Proof.Machine

/-- A ring's BASE, CTL, HEAD and TAIL, by their number (R338, R361). -/
def ringReg (r : Ring) (n : Nat) : Nat :=
  match n with
  | 0 => r.base
  | 1 => r.log2n + 32 * r.en.toNat
  | 2 => r.head
  | _ => r.tail

/-- WAKE.STATE (R350). -/
def wakeCode : WakeState → Nat
  | .awake => 0
  | .collapsing => 1
  | .collapsed => 2
  | .waking => 3

/-- STATUS of REPAIR and ATTEST (R353, R370). -/
def statusCode : Status → Nat
  | .idle => 0
  | .busy => 1
  | .done => 2
  | .failed => 3

/-- A register of the part of a window that every function has (R301, R338, R339, R350, R361, R364). FANSWER reads the
fields that the last answer set. -/
def windowRead (s : State) (f off : Nat) : Nat :=
  let x := s.func f
  if off = 0x00 then x.cqbase
  else if off = 0x08 then x.cqlog2n + 32 * x.cqen.toNat
  else if off = 0x10 then x.cqtail
  else if off = 0x18 then x.cqhead
  else if off = 0x40 then x.fanswer.toNat
  else if off = 0x80 then ringReg x.flog 0
  else if off = 0x88 then ringReg x.flog 1
  else if off = 0x90 then ringReg x.flog 2
  else if off = 0x94 then ringReg x.flog 3
  else if off = 0xC0 then x.s1root
  else if off = 0x100 then x.savebase
  else if off = 0x108 then x.savesize
  else if off = 0x140 then wakeCode x.wake + 4 * (s.fcfgOf f).wclass
  else if off = 0x144 then x.wmiss.toNat
  else if 0x200 ≤ off ∧ off < 0x250 ∧ off % 8 = 0 then (NatMap.get 0 x.counters ((off - 0x200) / 8)).toNat
  else if off = 0x300 then ringReg x.elog 0
  else if off = 0x308 then ringReg x.elog 1
  else if off = 0x310 then ringReg x.elog 2
  else if off = 0x314 then ringReg x.elog 3
  else 0

/-- A field of a partition record (R340). -/
def partRead (x : Part) (o : Nat) : Nat :=
  if o = 0 then x.clus.toNat
  else if o = 8 then x.en.toNat + 2 * x.err.toNat + 4 * x.ppid + 2 ^ 14 * x.node
  else if o = 16 then x.ebref.toNat
  else if o = 20 then x.ebcap.toNat
  else if o = 24 then x.lanes.toNat
  else if o = 64 then x.chan.toNat
  else 0

/-- FCFGf as one value (R344). -/
def fcfgRead (g : Fcfg) : Nat :=
  g.en.toNat + 2 * g.part + 2 ^ 8 * g.wclass + 2 ^ 18 * g.keylo + 2 ^ 28 * g.keyhi + 2 ^ 48 * g.idle
    + 2 ^ 76 * (g.s2root / 4096) + 2 ^ 128 * g.cchan.toNat + 2 ^ 384 * g.slice

/-- A package-wide register (R219, R226, R337, R340 to R346, R350, R353, R355, R366, R370). -/
def packageRead (s : State) (off size : Nat) : Nat :=
  if 0x100000 ≤ off ∧ off < 0x100A00 then partRead (s.part ((off - 0x100000) / 128)) ((off - 0x100000) % 128)
  else if 0x110040 ≤ off ∧ off ≤ 0x118000 ∧ off % 64 = 0 then fcfgRead (s.fcfgOf ((off - 0x110000) / 64))
  else if 0x120000 ≤ off ∧ off < 0x124020 ∧ off % 8 = 0 then occOf (s.die (off / 8 % 4)) ((off - 0x120000) / 32)
  else if 0x120000 ≤ off ∧ off < 0x124020 ∧ off % 8 = 4 then
    (NatMap.get 0xFFFFF (s.die (off / 8 % 4)).lim ((off - 0x120000) / 32)).toNat
  else if off = 0x130000 then s.keysel
  else if off = 0x130008 then (NatMap.get none s.keys s.keysel).isSome.toNat
  else if off = 0x130100 then s.psplit.toNat
  else if off = 0x130140 then s.pfebRef.toNat + 2 ^ 32 * s.pfebCap.toNat
  else if off = 0x130200 then s.fwake.toNat
  else if off = 0x130300 then s.repairReg.target.toNat + 2 ^ 64 * s.repairReg.ty + 2 ^ 70 * statusCode s.repairStatus
  else if off = 0x130320 then s.pclrPa
  else if off = 0x130420 then s.plimit + 2 ^ 16 * s.throttled.toNat
  else if off = 0x130480 then s.attAddr + 2 ^ 65 * statusCode s.attStatus
  else if 0x140000 ≤ off ∧ off < 0x141400 then leNat (NatMap.getRange 0 s.route (off - 0x140000) size)
  else if 0x1000000 ≤ off ∧ off < 0x1400000 then
    let o := off % 0x100000
    (NatMap.get 0 (s.die ((off - 0x1000000) / 0x100000)).advisory (o / 16)).toNat / 2 ^ (8 * (o % 16)) % 2 ^ (8 * size)
  else 0

/-- BOOTST (R368). -/
def bootRead (b : Boot) : Nat := b.state + 4 * b.h1c.toNat + 2 ^ 8 * b.step + 2 ^ 16 * b.err

/-- The value of the register at an offset of a function's window. Before the device is ready every offset but BOOTST
reads 0 (R368); a package-wide register reads 0 in a virtual function's window (R337). -/
def regRead (s : State) (f off size : Nat) : Nat :=
  if f = 0 ∧ off = 0x130400 then bootRead s.boot
  else if s.boot.state ≠ 1 ∨ funcExists s f = false then 0
  else if off < 0x10000 then windowRead s f off
  else if f = 0 then packageRead s off size
  else 0

end Sys2Proof.Machine
end

