-- ==== Sys2Proof/Safety.lean ====
section
/-! DEFINITION. What counts as a safe step, the invariants, and the words that claims are stated in: when a word issues
undisturbed, and what a performed word leaves in its group, its unit or its Quartz context. -/

namespace Sys2Proof

open Machine

/-- The step does not stop with a fault. -/
def SafeStep (s : State) : Prop := ∀ r, step s ≠ .fault r

/-- The canonical form of the bytes of memory, at the memories and at the homes: addresses rise strictly and no entry is
0, which an unlisted byte reads as. -/
def MemInv (s : State) : Prop := Memory.wf s.mem = true ∧ Memory.wf s.home = true

/-- No error record waits: each has reached its logs or has been counted as dropped (R361). -/
def Reported (s : State) : Prop := s.reports = []

/-- The word issues and finishes in one step: the agenda does not let it stand unfinished, and it need not stand behind an
older word that does (R171, R322). -/
def Whole (i : Instr) (s : State) (fr : Front) : Prop :=
  (mayStand i && !i.eBit && !fr.priv && (s.later || fr.unfinished != [])) = false

/-- The word `i` is the next of agent `a`, which runs launch `l` of function `f`; nothing holds the agent or makes it
stand at a boundary, no unfinished word of it makes the word wait or stand, checks 1 to 6 of R44 pass, and the operands
captured are `c`. -/
structure Issues (i : Instr) (s : State) (a : Agent) (f l : Nat) (fr : Front) (c : Cap) : Prop where
  turn : s.cur = some a
  front : frontOf s a = some fr
  launch : agentLaunch s a = some (f, l)
  free : fr.hold = none
  runs : standing s a fr = false
  operands : capture s a i ((encode i).getD 0) fr = some c
  ordered : behind fr i = false
  whole : Whole i s fr
  checks : checkWord s a fr (recOf s f l) i = none
  ready : scoreboard s a i = false
  nested : (fr.priv && isNested i) = false
  quiet : Reported s

/-- The word issues on the group in slot `sl` of core `k`, whose unit is not being cancelled, and whose shadow, if any,
agrees. -/
structure OnGroup (i : Instr) (s : State) (k sl f l : Nat) (fr : Front) (c : Cap) (g : Group) (u : Unit_) : Prop
    extends Issues i s (.group k sl) f l fr c where
  group : s.group? k sl = some g
  unit : s.unit? g.uid = some u
  goes : u.stopping = false
  agrees : mismatch s u c = 0

/-- The word issues on context `x` of the Quartz core of cluster `cl`. -/
structure OnQuartz (i : Instr) (s : State) (cl x f l : Nat) (fr : Front) (c : Cap) (q : Ctx) : Prop
    extends Issues i s (.quartz cl x) f l fr c where
  ctx : s.ctx? cl x = some q

/-- The front after a word that stays in line: the next word, or the start of a new run (R25, R26, R37). -/
def frontAfter (fr : Front) (c : Cap) : Front :=
  { fr with
    pc := fr.pc + 8, j := if c.instr.eBit then 0 else fr.j + 1
    latch := if c.instr.eBit then [] else latchAfter fr.latch fr.j (retained c) }

/-- One more run is counted when the word ends it (R325). -/
def unitAfter (u : Unit_) (c : Cap) : Unit_ := { u with runs := u.runs + (if c.instr.eBit then 1 else 0) }

/-- Nothing outside the issuing group and its unit has changed, but for the L1 copies that the read of a completed
engine operation's token drops (R126). -/
structure OnlyGroup (i : Instr) (s t : State) (k sl : Nat) (g : Group) (u : Unit_) : Prop where
  rest : { t with units := s.units, groups := s.groups } = tokenAcquire s u i
  units : ∀ n, n ≠ g.uid → t.unit? n = s.unit? n
  groups : ∀ n, n ≠ 32 * k + sl → NatMap.get none t.groups n = NatMap.get none s.groups n

/-- Nothing outside the issuing Quartz context has changed. -/
structure OnlyCtx (s t : State) (cl x : Nat) : Prop where
  rest : { t with ctxs := s.ctxs } = s
  ctxs : ∀ n, n ≠ 8 * cl + x → NatMap.get none t.ctxs n = NatMap.get none s.ctxs n

/-- Lane `m` is the only active lane of its thread. -/
def soleLane (s : State) (c : Cap) (m : Nat) : Prop :=
  ∀ n ∈ c.active, laneThread s c.agent n = laneThread s c.agent m → n = m

/-- Each active lane's thread holds the values that `wr` lists for the lane, by register; every other register of every
thread, and all else that the threads hold, is as before. -/
structure ThreadRegs (s : State) (c : Cap) (u u' : Unit_) (wr : Nat → List (Nat × Word)) : Prop where
  written : ∀ m ∈ c.active, soleLane s c m → ∀ p ∈ wr m, (u'.thread (laneThread s c.agent m)).reg p.1 = p.2
  kept : ∀ th n, (∀ m ∈ c.active, laneThread s c.agent m = th → n ∉ (wr m).map Prod.fst) →
    (u'.thread th).reg n = (u.thread th).reg n
  others : ∀ th, { u'.thread th with r := (u.thread th).r } = u.thread th

/-- The same for one predicate of each active lane's thread. -/
structure ThreadPreds (s : State) (c : Cap) (u u' : Unit_) (n : Nat) (v : Nat → Bool) : Prop where
  written : ∀ m ∈ c.active, soleLane s c m → (u'.thread (laneThread s c.agent m)).pred n = v m
  kept : ∀ th k, k < 8 → (k = n → ∀ m ∈ c.active, laneThread s c.agent m ≠ th) → (u'.thread th).pred k = (u.thread th).pred k
  others : ∀ th, { u'.thread th with p := (u.thread th).p } = u.thread th

/-- A word of the group in which only thread registers are written: `wr` by lane. `ds` lists the destinations, the only
registers whose intervals may change. -/
def WroteThreads (i : Instr) (s t : State) (k sl : Nat) (fr : Front) (c : Cap) (g : Group) (u : Unit_) (ds : List Nat)
    (wr : Nat → List (Nat × Word)) : Prop :=
  OnlyGroup i s t k sl g u ∧
  ∃ g' u', t.group? k sl = some g' ∧ t.unit? g.uid = some u' ∧
    { g' with iv := g.iv } = { g with front := frontAfter fr c } ∧
    (∀ n, 480 + n ∉ ds → ivGet g'.iv n = ivGet g.iv n) ∧
    { u' with threads := u.threads } = unitAfter u c ∧ ThreadRegs s c u u' wr

/-- A word of the group in which only predicate `n` of the threads is written. -/
def WrotePreds (i : Instr) (s t : State) (k sl : Nat) (fr : Front) (c : Cap) (g : Group) (u : Unit_) (n : Nat)
    (v : Nat → Bool) : Prop :=
  OnlyGroup i s t k sl g u ∧
  ∃ u', t.group? k sl = some { g with front := frontAfter fr c } ∧ t.unit? g.uid = some u' ∧
    { u' with threads := u.threads } = unitAfter u c ∧ ThreadPreds s c u u' n v

/-- A word of the group that changes, beside the front and the count of runs, the unit as `u'` says. -/
def WroteUnit (i : Instr) (s t : State) (k sl : Nat) (fr : Front) (c : Cap) (g : Group) (u u' : Unit_) : Prop :=
  OnlyGroup i s t k sl g u ∧ t.group? k sl = some { g with front := frontAfter fr c } ∧
    t.unit? g.uid = some (unitAfter u' c)

/-- A word of the context that changes, beside the front, the context as `q'` says. -/
def WroteCtx (s t : State) (cl x : Nat) (fr : Front) (c : Cap) (q' : Ctx) : Prop :=
  OnlyCtx s t cl x ∧ t.ctx? cl x = some { q' with front := frontAfter fr c }

end Sys2Proof
end

