-- ==== Sys2Proof/Certificates/Slice0/Obligations.lean ====
section
/-! DEFINITION. The statements for the provers, with the rules of spec/ as functions of their own where a rule gives a
result: integer words (R60 to R65) over bit vectors of the operation width, predicates, lanes, control transfers. -/

open Sys2Proof
open Sys2Proof.Machine

namespace Sys2Proof.Claims

-- Integer words.

/-- How the exact result of R60 lands: wrapped, clamped as signed, or clamped as unsigned. -/
def land (w : Nat) (x : BitVec 3) (signed unsigned : Int) : BitVec w :=
  if bits x 1 2 = 0 then BitVec.ofInt w signed
  else if bits x 1 2 = 1 then BitVec.ofInt w (max (-(2 ^ (w - 1))) (min signed (2 ^ (w - 1) - 1)))
  else BitVec.ofInt w (max 0 (min unsigned (2 ^ w - 1)))

/-- The low `n` bits set. -/
def ones (w n : Nat) : BitVec w := BitVec.ofNat w (2 ^ n - 1)

/-- BFX (R64): the field from the control operand, kept at the bottom. -/
def bfxSpec (w : Nat) (signed : Bool) (a : BitVec w) (pos len : Nat) : BitVec w :=
  if len = 0 ∨ w ≤ pos then 0
  else
    let n := min len (w - pos)
    let f := (a >>> pos) &&& ones w n
    if signed then (f <<< (w - n)).sshiftRight (w - n) else f

/-- BFI (R64). -/
def bfiSpec (w : Nat) (a b : BitVec w) (pos len : Nat) : BitVec w :=
  if len = 0 ∨ w ≤ pos then b
  else
    let n := min len (w - pos)
    (b &&& ~~~(ones w n <<< pos)) ||| ((a &&& ones w n) <<< pos)

/-- Byte `i` of y0 to y7 (R65). -/
def prmtByte {w : Nat} (a b : BitVec w) (i : Nat) : BitVec 8 := if i < 4 then bits a (8 * i) 8 else bits b (8 * (i - 4)) 8

/-- The byte that nibble `q` selects (R65). -/
def prmtPick {w : Nat} (a b : BitVec w) (q : BitVec 4) : BitVec 8 :=
  let y := prmtByte a b (q.toNat % 8)
  if q.getLsbD 3 then (if y.getLsbD 7 then 255 else 0) else y

def prmtSpec (w : Nat) (a b c : BitVec w) : BitVec w :=
  (prmtPick a b (bits c 12 4) ++ prmtPick a b (bits c 8 4) ++ prmtPick a b (bits c 4 4) ++ prmtPick a b (bits c 0 4)).setWidth w

/-- The result over w bits of the integer words of R60 to R65 and R67, from operands already read as R57 says. -/
def intSpec (w : Nat) (i : Instr) (a b c : BitVec w) : BitVec w :=
  match i with
  | .iadd o => land w o.x (a.toInt + b.toInt) (a.toNat + b.toNat)
  | .isub o => land w o.x (a.toInt - b.toInt) ((a.toNat : Int) - b.toNat)
  | .imul _ => a * b
  | .imulhi o => if bits o.x 1 2 = 1 then BitVec.ofNat w (a.toNat * b.toNat / 2 ^ w) else BitVec.ofInt w (a.toInt * b.toInt / 2 ^ w)
  | .imad _ => a * b + c
  | .ineg o => land w o.x (-a.toInt) 0
  | .iabs o => land w o.x |a.toInt| 0
  | .imin _ => if a.slt b then a else b
  | .imax _ => if a.slt b then b else a
  | .iminu _ => if a.ult b then a else b
  | .imaxu _ => if a.ult b then b else a
  | .shl _ => if w ≤ (b.setWidth 32).toNat then 0 else a <<< (b.setWidth 32).toNat
  | .shra _ => if w ≤ (b.setWidth 32).toNat then (if a.msb then -1 else 0) else a.sshiftRight (b.setWidth 32).toNat
  | .shrl _ => if w ≤ (b.setWidth 32).toNat then 0 else a >>> (b.setWidth 32).toNat
  | .rotl _ => a.rotateLeft ((b.setWidth 32).toNat % w)
  | .and _ => a &&& b
  | .or _ => a ||| b
  | .xor _ => a ^^^ b
  | .andn _ => a &&& ~~~b
  | .not _ => ~~~a
  | .popc _ => BitVec.ofNat w ((List.range w).countP (fun n => a.getLsbD n))
  | .clz _ => BitVec.ofNat w (w - a.toNat.size)
  | .brev _ => a.reverse
  | .bfx o => bfxSpec w (decide (bits o.x 1 2 = 1)) a (b.setWidth 8).toNat (bits b 8 8).toNat
  | .bfi _ => bfiSpec w a b (c.setWidth 8).toNat (bits c 8 8).toNat
  | .prmt _ => prmtSpec w a b c
  | .mov _ => a
  | .iaddWide o => a + o.imm.signExtend w
  | .imulWide o => a * o.imm.signExtend w
  | .andWide o => a &&& o.imm.signExtend w
  | .orWide o => a ||| o.imm.signExtend w
  | .xorWide o => a ^^^ o.imm.signExtend w
  | .iminWide o => if a.slt (o.imm.signExtend w) then a else o.imm.signExtend w
  | .imaxWide o => if a.slt (o.imm.signExtend w) then o.imm.signExtend w else a
  | .movi o => o.imm.signExtend w
  | .moviHi o => (o.imm.setWidth w <<< 32) ||| (a.setWidth 32).setWidth w
  | _ => 0

/-- The words of format A that intSpec gives a result. -/
def isIntA : Instr → Bool
  | .iadd _ | .isub _ | .imul _ | .imulhi _ | .imad _ | .ineg _ | .iabs _ | .imin _ | .imax _ | .iminu _ | .imaxu _
  | .shl _ | .shra _ | .shrl _ | .rotl _ | .and _ | .or _ | .xor _ | .andn _ | .not _ | .popc _ | .clz _ | .brev _
  | .bfx _ | .bfi _ | .prmt _ | .mov _ => true
  | _ => false

/-- The wide forms (R61). MOVI.hi is a word of the Quartz core alone. -/
def isWideI : Instr → Bool
  | .iaddWide _ | .imulWide _ | .andWide _ | .orWide _ | .xorWide _ | .iminWide _ | .imaxWide _ | .movi _ => true
  | _ => false
def isMoviHi : Instr → Bool
  | .moviHi _ => true
  | _ => false

/-- The D field of a word. -/
def dest (i : Instr) : Nat :=
  match i.desc with
  | .a _ o => o.d.toNat
  | .i _ _ _ o => o.d.toNat
  | .m _ o => o.d.toNat
  | _ => 0

/-- The source fields of a word, in order. -/
def src (i : Instr) (n : Nat) : Src :=
  match i.desc with
  | .a _ o => if n = 1 then o.s1 else if n = 2 then o.s2 else o.s3
  | .i _ _ _ o => o.s1
  | _ => .reg 0

/-- The positions of R57 that zero-extend: both sources of the unsigned words, the first of the shifts and counts. -/
def zeroPos (i : Instr) (n : Nat) : Bool :=
  match i with
  | .iminu _ | .imaxu _ => true
  | .imulhi o => decide (bits o.x 1 2 = 1)
  | .iadd o | .isub o => decide (bits o.x 1 2 = 2)
  | .shrl _ | .rotl _ | .popc _ | .clz _ | .brev _ => n == 1
  | _ => false

/-- opnd(S, 64) on a vector core (R57): a register or latch entry is 32 bits, and is extended. -/
def opnd64 (i : Instr) (n : Nat) (v : DWord) : BitVec 64 :=
  match src i n with
  | .reg _ | .latch _ => if zeroPos i n then (v.setWidth 32).setWidth 64 else (v.setWidth 32).signExtend 64
  | _ => v

/-- A word's 32-bit result in a lane. -/
def int32 (i : Instr) (c : Cap) (m : Nat) : Word :=
  intSpec 32 i ((c.a1 m).setWidth 32) ((c.a2 m).setWidth 32) ((c.a3 m).setWidth 32)

/-- A word's 64-bit result in a lane of a vector core, for an s-register of the unit. -/
def int64V (i : Instr) (c : Cap) (m : Nat) : DWord :=
  intSpec 64 i (opnd64 i 1 (c.a1 m)) (opnd64 i 2 (c.a2 m)) (opnd64 i 3 (c.a3 m))

/-- A word's 64-bit result on a Quartz core. -/
def int64Q (i : Instr) (c : Cap) : DWord := intSpec 64 i (c.a1 0) (c.a2 0) (c.a3 0)

-- Vector words.

/-- The predicate that a source names, in a lane. -/
def predIn (s : State) (c : Cap) (u : Unit_) (p : Src) (m : Nat) : Bool :=
  match p with
  | .reg n => (u.thread (laneThread s c.agent m)).pred n.toNat
  | _ => false

/-- The value of S1 in lane `n`, or 0 (R74). -/
def lane32 (c : Cap) (n : Int) : Word := if 0 ≤ n ∧ n < 32 ∧ n.toNat ∈ c.active then (c.a1 n.toNat).setWidth 32 else 0

/-- Operand S1 of a lane, at 32 bits. -/
def x1 (c : Cap) (m : Nat) : Word := (c.a1 m).setWidth 32
def x2 (c : Cap) (m : Nat) : Word := (c.a2 m).setWidth 32
def x3 (c : Cap) (m : Nat) : Word := (c.a3 m).setWidth 32

/-- A left-to-right fold over the active lanes, from the lowest (R76). -/
def foldSpec (c : Cap) (f : Word → Word → Word) : Word :=
  match c.active with
  | [] => 0
  | m :: r => (r.map (x1 c)).foldl f (x1 c m)

/-- The special registers of R18. -/
def specialSpec (s : State) (u : Unit_) (rc : LaunchRec) (th : Nat) (n : Nat) : Nat :=
  [th % 32, th, u.index % rc.gridx, u.index / rc.gridx % rc.gridy, u.index / (rc.gridx * rc.gridy), rc.gridx, rc.gridy,
    rc.gridz, u.nthreads, th / 32, u.core % 4, u.core / 4, u.core / 64, u.func, s.clock].getD n 0

/-- FADD.rne of two patterns. -/
def fadd32 (a b : Word) : Word := BitVec.ofNat 32 (faddP fp32 .rne a.toNat b.toNat)
def fmax32 (a b : Word) : Word := BitVec.ofNat 32 (fminmax fp32 true a.toNat b.toNat)

/-- The 32-bit results of the moves, index words, cross-lane words and AGET (R18, R67, R68, R70, R73 to R76, R107). -/
def indexSpec (s : State) (c : Cap) (g : Group) (u : Unit_) (rc : LaunchRec) (i : Instr) (m : Nat) : Option Word :=
  match i with
  | .kmov o => some (match o.x.toNat with
      | 2 => ((x1 c m).setWidth 8).setWidth 32
      | 4 => ((x1 c m).setWidth 16).setWidth 32
      | 6 => ((x1 c m).setWidth 16).signExtend 32
      | _ => x1 c m)
  | .rdspec o => some (BitVec.ofNat 32 (specialSpec s u rc (laneThread s c.agent m) o.imm.toNat))
  | .klo o => match o.s1 with
    | .reg n => some (BitVec.ofInt 32 (ivGet g.iv (n.toNat - 480)).lo)
    | _ => none
  | .khi o => match o.s1 with
    | .reg n => some (BitVec.ofInt 32 (ivGet g.iv (n.toNat - 480)).hi)
    | _ => none
  | .sel o => some (if predIn s c u (.reg (o.x.setWidth 9)) m then x1 c m else x2 c m)
  | .lread _ => some (lane32 c (x2 c m).toInt)
  | .lshfx _ => some (if (x2 c m).toNat < 32 then lane32 c ((m ^^^ (x2 c m).toNat : Nat) : Int) else 0)
  | .lbcast _ => if ∀ n ∈ c.active, c.a2 n = c.a2 m then some (lane32 c (x2 c m).toInt) else none
  | .lsum o => some (if o.x = 0 then (c.active.map (x1 c)).sum else foldSpec c fadd32)
  | .lmax o => some (if o.x = 0 then foldSpec c (fun a b => if a.slt b then b else a)
      else if o.x = 1 then foldSpec c (fun a b => if a.ult b then b else a) else foldSpec c fmax32)
  | .vote o => some (match o.x.toNat with
      | 0 => if ∃ n ∈ c.active, x1 c n ≠ 0 then 1 else 0
      | 1 => if ∀ n ∈ c.active, x1 c n ≠ 0 then 1 else 0
      | _ => laneMask (c.active.filter (fun n => x1 c n ≠ 0)))
  | .lprefix o => some (((c.active.filter (fun n => n < m ∨ (o.x = 0 ∧ n = m))).map (x1 c)).sum)
  | .aget o => match o.s1 with
    | .lit n => let r := u.aregAt s.clock n.toNat
      some ([r.base.setWidth 32, (r.base >>> 32).setWidth 32, r.ext, r.attr].getD o.x.toNat 0)
    | _ => none
  | _ => none

/-- The class of an FP32 pattern, by its place in the table of R95. -/
def classBit (p : Word) : Nat :=
  if bits p 23 8 = 255 then (if bits p 0 23 = 0 then (if p.msb then 0 else 7) else if p.getLsbD 22 then 9 else 8)
  else if bits p 23 8 = 0 then (if bits p 0 23 = 0 then (if p.msb then 3 else 4) else if p.msb then 2 else 5)
  else if p.msb then 1 else 6

/-- The integer that a mode chooses for ±m * 2^e (R99, R264): the two integers about it, and which of them. -/
def nearInt (mode : Mode) (neg : Bool) (m : Nat) (e : Int) : Int :=
  let d := 2 ^ (-e).toNat
  let v := m * 2 ^ e.toNat
  let low := v / d
  let rest := v % d
  let n := match mode with
    | .rtz => low
    | .rup => if neg = false ∧ rest ≠ 0 then low + 1 else low
    | .rdn => if neg = true ∧ rest ≠ 0 then low + 1 else low
    | .rne => if d < 2 * rest ∨ (d = 2 * rest ∧ low % 2 = 1) then low + 1 else low
    | .rna => if d ≤ 2 * rest then low + 1 else low
  if neg then -(n : Int) else n

/-- An FP32 pattern as an integer from `lo` to `hi` (R99, R102): NaN is 0, and what lies outside is clamped. -/
def intOf (mode : Mode) (lo hi : Int) (p : Nat) : Int :=
  match decodeF fp32 p with
  | .nan => 0
  | .inf n => if n then lo else hi
  | .fin n m e => max lo (min (nearInt mode n m e) hi)

/-- The four rounding modes of an RM field (R91). -/
def modeSpec (rm : BitVec 2) : Mode := [Mode.rne, .rtz, .rup, .rdn].getD rm.toNat .rne

/-- A packed word over both halves (R98): FMT, SAT and RTZ stand in X; each half is computed by itself. -/
def packedSpec (x : BitVec 3) (a b d : Word) (f : Fmt → Mode → Nat → Nat → Nat → Nat) : Nat :=
  let fmt : Fmt := if bits x 2 1 = 1 then ⟨8, 7, 127, .ieee⟩ else ⟨5, 10, 15, .ieee⟩
  let one (n : Nat) : BitVec 16 :=
    let r := f fmt (if bits x 0 1 = 1 then .rtz else .rne) (bits a n 16).toNat (bits b n 16).toNat (bits d n 16).toNat
    BitVec.ofNat 16 (if bits x 1 1 = 1 then fsatP fmt r else r)
  (one 16 ++ one 0).toNat

/-- F2F (R100): narrowing to FP16 and BF16, in RNE or RTZ, and widening from them. -/
def f2fSpec (x : BitVec 3) (a : Nat) : Nat :=
  let mode : Mode := if bits x 0 1 = 1 then .rtz else .rne
  [roundTo ⟨5, 10, 15, .ieee⟩ mode (decodeF ⟨8, 23, 127, .ieee⟩ a), roundTo ⟨8, 7, 127, .ieee⟩ mode (decodeF ⟨8, 23, 127, .ieee⟩ a),
    roundTo ⟨8, 23, 127, .ieee⟩ .rne (decodeF ⟨5, 10, 15, .ieee⟩ (a % 2 ^ 16)),
    roundTo ⟨8, 23, 127, .ieee⟩ .rne (decodeF ⟨8, 7, 127, .ieee⟩ (a % 2 ^ 16))].getD (bits x 1 2).toNat 0

-- Format slots.

/-- The fields of a slot (R265), by the table of R101: format, element width, rounding mode, saturation flag, NaN policy. -/
def fmtOf (slot : DWord) : Nat := (bits slot 0 4).toNat
def widthOf (fmt : Nat) : Nat := [32, 32, 16, 16, 8, 8, 8, 4, 8, 4, 8, 4].getD fmt 8
def modeAt (slot : DWord) : Mode := [Mode.rne, .rtz, .rup, .rdn].getD (bits slot 6 3).toNat .rna

/-- The floating formats 0 to 7 of R262: exponent bits, mantissa bits, bias, special values. -/
def fmtSpec (fmt : Nat) : Fmt :=
  [(⟨8, 23, 127, .ieee⟩ : Fmt), ⟨8, 10, 127, .ieee⟩, ⟨8, 7, 127, .ieee⟩, ⟨5, 10, 15, .ieee⟩, ⟨4, 3, 7, .nanOnly⟩, ⟨5, 2, 15, .ieee⟩,
    ⟨3, 2, 3, .none⟩, ⟨2, 1, 1, .none⟩].getD fmt ⟨2, 1, 1, .none⟩

/-- One term of an SP element, in eighths (R263). -/
def termOf (n : Nat) : Int := [(0 : Int), 1, 2, 4, 8, 16, 32, 64, 0, -1, -2, -4, -8, -16, -32, -64].getD (n % 16) 0

/-- An SP2 byte is the canonical encoding of its value (R102): a term that is not used is 0, the fewest terms, the greater
magnitude in term A, and one sign where a form of one sign exists. -/
def isCanonical (p : Nat) : Bool :=
  let a := termOf (p / 16)
  let b := termOf p
  (a != 0 || p / 16 == 0) && (b != 0 || p % 16 == 0) && decide (b.natAbs ≤ a.natAbs)
    && (b == 0 || (List.range 16).all (fun n => termOf n != a + b))
    && (decide (0 ≤ a * b) || (List.range 256).all (fun n => termOf (n / 16) + termOf n != a + b
      || decide (termOf (n / 16) * termOf n ≤ 0)))

/-- The canonical encoding of a value in eighths, of two terms or of one (R102). -/
def spEncoded (terms : Nat) (v : Int) : Nat :=
  if terms = 2 then ((List.range 256).find? (fun p => isCanonical p && termOf (p / 16) + termOf p == v)).getD 0
  else ((List.range 16).find? (fun p => termOf p == v)).getD 0

/-- The magnitudes of an SP format in eighths (R263). -/
def spMagnitudes (terms : Nat) : List Nat :=
  (List.range 129).filter (fun n => if terms = 2 then (List.range 256).any (fun p => termOf (p / 16) + termOf p == (n : Int))
    else (List.range 16).any (fun p => termOf p == (n : Int)))

/-- The magnitude that a mode chooses for m * 2^e (R102, R264), in eighths: clamped, and the greater of two equally near. -/
def spChosen (terms : Nat) (mode : Mode) (neg : Bool) (m : Nat) (e : Int) : Nat :=
  let v := m * 2 ^ (e + 3).toNat
  let d := 2 ^ (-(e + 3)).toNat
  let l := spMagnitudes terms
  let below := l.foldl (fun b n => if n * d ≤ v then n else b) 0
  let above := (l.find? (fun n => decide (v ≤ n * d))).getD (l.getLastD 0)
  let gap (n : Nat) : Nat := (n * d - v) + (v - n * d)
  match mode with
  | .rtz => below
  | .rup => if neg then below else above
  | .rdn => if neg then above else below
  | _ => l.foldl (fun b n => if gap n ≤ gap b then n else b) 0

/-- CVTS of an FP32 pattern under a slot (R102): the element's bits. Log entry 31 names what R102 leaves open of a single term. -/
def cvtsSpec (slot : DWord) (p : Nat) : Nat :=
  let fmt := fmtOf slot
  let f := fmtSpec fmt
  let mode := modeAt slot
  let sat := slot.getLsbD 9
  let zero := slot.getLsbD 10
  let sign (n : Bool) : Nat := if n then 2 ^ (f.eb + f.mb) else 0
  if fmt ≤ 3 ∨ fmt = 5 then
    -- the largest finite value, infinity and the canonical NaN of the format
    let big := (2 ^ f.eb - 1) * 2 ^ f.mb - 1
    let inf := big + 1
    (match decodeF fp32 p with
      | .nan => if zero then 0 else inf + 2 ^ (f.mb - 1)
      | .inf n => sign n + (if sat then big else inf)
      | .fin n m e =>
        let r := roundTo f mode (.fin n m e)
        if sat = true ∧ r % 2 ^ (f.eb + f.mb) = inf then sign n + big else r) * (if fmt = 1 then 2 ^ 13 else 1)
  else if fmt ≤ 7 then
    -- E4M3, E3M2, E2M1: candidates without an upper bound, and the greatest magnitude that stands
    let top := [126, 0, 31].getD (fmt - 4) 7
    let past := if fmt = 4 ∧ sat = false then 127 else top
    match decodeF fp32 p with
    | .nan => if fmt = 4 ∧ zero = false then 127 else 0
    | .inf n => sign n + past
    | .fin n m e =>
      let r := roundTo ⟨8, f.mb, f.bias, .none⟩ mode (.fin n m e) % 2 ^ (8 + f.mb)
      sign n + (if top < r then past else r)
  else if fmt ≤ 9 then
    let w := if fmt = 8 then 8 else 4
    (BitVec.ofInt w (intOf mode (-(2 ^ (w - 1))) (2 ^ (w - 1) - 1) p)).toNat
  else
    let terms := if fmt = 10 then 2 else 1
    match decodeF fp32 p with
    | .nan => 0
    | .inf n => spEncoded terms (if n then -((spMagnitudes terms).getLastD 0 : Int) else (spMagnitudes terms).getLastD 0)
    | .fin n m e => spEncoded terms (if n then -(spChosen terms mode n m e : Int) else spChosen terms mode n m e)

/-- CVTL of an element's bits under a slot (R103, R262, R263): the FP32 pattern of its value. -/
def cvtlSpec (slot : DWord) (p : Nat) : Nat :=
  let fmt := fmtOf slot
  let ofSigned (v : Int) : Nat := roundTo fp32 .rne (.ofInt v)
  let ofEighths (v : Int) : Nat := roundTo fp32 .rne (.fin (decide (v < 0)) v.natAbs (-3))
  if fmt ≤ 7 then
    let q := if fmt = 1 then p / 2 ^ 13 else if fmt = 6 then p % 2 ^ 6 else p
    match decodeF (fmtSpec fmt) q with
    | .nan => if slot.getLsbD 10 then 0 else 0x7FC00000
    | v => roundTo fp32 .rne v
  else if fmt = 8 then ofSigned (BitVec.ofNat 8 p).toInt
  else if fmt = 9 then ofSigned (BitVec.ofNat 4 p).toInt
  else if fmt = 10 then ofEighths (termOf (p / 16) + termOf p)
  else ofEighths (termOf p)

/-- The 32-bit results of the floating-point words (R91 to R93, R95, R96, R98 to R100), over the exact arithmetic of
Machine/Float.lean. -/
def floatSpec (c : Cap) (i : Instr) (m : Nat) : Option Nat :=
  let a := (x1 c m).toNat
  let b := (x2 c m).toNat
  let d := (x3 c m).toNat
  match i with
  | .fadd o => some (satOf fp32 o.x (faddP fp32 (rmOf o.x) a b))
  | .fsub o => some (satOf fp32 o.x (faddP fp32 (rmOf o.x) a (fnegP fp32 b)))
  | .fmul o => some (satOf fp32 o.x (fmulP fp32 (rmOf o.x) a b))
  | .ffma o => some (satOf fp32 o.x (ffmaP fp32 (rmOf o.x) a b d))
  | .fsqrt o => some (satOf fp32 o.x (fsqrtP fp32 (rmOf o.x) a))
  | .fmin _ => some (fminmax fp32 false a b)
  | .fmax _ => some (fminmax fp32 true a b)
  | .fclass _ => some (2 ^ classBit (x1 c m))
  | .frcp _ => some (frcpP a)
  | .frsq _ => some (frsqP a)
  | .fexp2 _ => some (fexp2P a)
  | .flog2 _ => some (flog2P a)
  | .fsin _ => some (fsinP a)
  | .fcos _ => some (fcosP a)
  | .hadd2 o => some (packedSpec o.x (x1 c m) (x2 c m) 0 (fun f r p q _ => faddP f r p q))
  | .hmul2 o => some (packedSpec o.x (x1 c m) (x2 c m) 0 (fun f r p q _ => fmulP f r p q))
  | .hfma2 o => some (packedSpec o.x (x1 c m) (x2 c m) (x3 c m) ffmaP)
  | .hmax2 o => some (packedSpec o.x (x1 c m) (x2 c m) 0 (fun f _ p q _ => fminmax f true p q))
  | .f2i o => some (BitVec.ofInt 32 (if bits o.x 0 1 = 1 then intOf (modeSpec (bits o.x 1 2)) 0 (2 ^ 32 - 1) a
      else intOf (modeSpec (bits o.x 1 2)) (-(2 ^ 31)) (2 ^ 31 - 1) a)).toNat
  | .i2f o => some (roundTo fp32 (modeSpec (bits o.x 1 2)) (.ofInt (if bits o.x 0 1 = 1 then (a : Int) else (x1 c m).toInt)))
  | .f2f o => some (f2fSpec o.x a)
  | .d2f o => some (roundTo fp32 (rmOf o.x) (decodeF fp64 (c.a1 m).toNat))
  | _ => none

/-- The 64-bit results (R92, R93, R100), for a register pair. -/
def doubleSpec (c : Cap) (i : Instr) (m : Nat) : Option Nat :=
  let a := (c.a1 m).toNat
  let b := (c.a2 m).toNat
  match i with
  | .dadd o => some (satOf fp64 o.x (faddP fp64 (rmOf o.x) a b))
  | .dmul o => some (satOf fp64 o.x (fmulP fp64 (rmOf o.x) a b))
  | .dfma o => some (satOf fp64 o.x (ffmaP fp64 (rmOf o.x) a b (c.a3 m).toNat))
  | .dmin _ => some (fminmax fp64 false a b)
  | .dmax _ => some (fminmax fp64 true a b)
  | .f2d _ => some (roundTo fp64 .rne (decodeF fp32 (x1 c m).toNat))
  | _ => none

/-- CVTS and CVTL through a format slot (R101 to R103): element `n` of `e` bits of D, or out of S1. -/
def slotSpec (s : State) (c : Cap) (u : Unit_) (rc : LaunchRec) (i : Instr) (m : Nat) : Option Word :=
  match i with
  | .cvts o =>
    let v := NatMap.get 0 rc.slots o.x.toNat
    let e := widthOf (fmtOf v)
    let old := (u.thread (laneThread s c.agent m)).reg o.d.toNat
    match o.s2 with
    | .lit n => some ((old &&& ~~~(ones 32 e <<< (e * n.toNat))) ||| (BitVec.ofNat 32 (cvtsSpec v (x1 c m).toNat) <<< (e * n.toNat)))
    | _ => none
  | .cvtl o =>
    let v := NatMap.get 0 rc.slots o.x.toNat
    let e := widthOf (fmtOf v)
    match o.s2 with
    | .lit n => some (BitVec.ofNat 32 (cvtlSpec v ((x1 c m >>> (e * n.toNat)) &&& ones 32 e).toNat))
    | _ => none
  | _ => none

/-- The predicate results of R71, R72 and R94. -/
def predSpec (s : State) (c : Cap) (u : Unit_) (i : Instr) (m : Nat) : Option Bool :=
  let cond (o : AOps) : Nat := o.d.toNat / 32
  match i with
  | .icmp o =>
    let a := x1 c m
    let b := x2 c m
    some ([a == b, a != b, a.slt b, a.sle b, b.slt a, b.sle a, a.ult b, a.ule b, b.ult a, b.ule a].getD (cond o) false)
  | .pand o => some (predIn s c u o.s1 m && predIn s c u o.s2 m)
  | .por o => some (predIn s c u o.s1 m || predIn s c u o.s2 m)
  | .pxor o => some (predIn s c u o.s1 m != predIn s c u o.s2 m)
  | .pnot o => some (!predIn s c u o.s1 m)
  | .fcmp o => some (fpCond (BitVec.ofNat 4 (cond o)) fp32 (x1 c m).toNat (x2 c m).toNat)
  | .dcmp o => some (fpCond (BitVec.ofNat 4 (cond o)) fp64 (c.a1 m).toNat (c.a2 m).toNat)
  | _ => none

/-- The words of each table above. -/
def isIndexWord : Instr → Bool
  | .kmov _ | .rdspec _ | .klo _ | .khi _ | .sel _ | .lread _ | .lshfx _ | .lbcast _ | .lsum _ | .lmax _ | .vote _
  | .lprefix _ | .aget _ => true
  | _ => false
def isFloatWord : Instr → Bool
  | .fadd _ | .fsub _ | .fmul _ | .ffma _ | .fsqrt _ | .fmin _ | .fmax _ | .fclass _ | .frcp _ | .frsq _ | .fexp2 _
  | .flog2 _ | .fsin _ | .fcos _ | .hadd2 _ | .hmul2 _ | .hfma2 _ | .hmax2 _ | .f2i _ | .i2f _ | .f2f _ | .d2f _ => true
  | _ => false
def isSlotWord : Instr → Bool
  | .cvts _ | .cvtl _ => true
  | _ => false
def isDoubleWord : Instr → Bool
  | .dadd _ | .dmul _ | .dfma _ | .dmin _ | .dmax _ | .f2d _ => true
  | _ => false
def isPredWord : Instr → Bool
  | .icmp _ | .pand _ | .por _ | .pxor _ | .pnot _ | .fcmp _ | .dcmp _ => true
  | _ => false

-- The pair word.

/-- The single form of a half (R42): its operation with the half's modifier. Operand fields stand elsewhere. -/
def halfForm (h : Half) : Option Instr :=
  let o : AOps := ⟨false, 0, .reg 0, .reg 0, .reg 0, ⟨false, false, 0⟩, .none, h.x, false⟩
  [none, some (.mov o), some (.kmov o), some (.iadd o), some (.isub o), some (.imul o), some (.imin o), some (.imax o),
    some (.iminu o), some (.imaxu o), some (.and o), some (.or o), some (.xor o), some (.andn o), some (.shl o),
    some (.shra o), some (.shrl o), some (.rotl o), some (.ineg o), some (.iabs o), some (.not o), some (.popc o),
    some (.clz o), some (.brev o), none, none, none, none, none, none, none, none, some (.fadd o), some (.fsub o),
    some (.fmul o), some (.fmin o), some (.fmax o), some (.frcp o), some (.frsq o), some (.fsqrt o), some (.fexp2 o),
    some (.flog2 o), some (.hadd2 o), some (.hmul2 o), some (.hmax2 o), some (.f2i o), some (.i2f o)].getD h.op.toNat none

/-- Does the half read D as its first source (R42)? -/
def halfReadsD (h : Half) : Bool :=
  (decide (3 ≤ h.op.toNat) && decide (h.op.toNat ≤ 17)) || (decide (32 ≤ h.op.toNat) && decide (h.op.toNat ≤ 36))
    || (decide (42 ≤ h.op.toNat) && decide (h.op.toNat ≤ 44))

/-- A capture that holds one lane's two operands, so that a single form's result can be asked for. -/
def withOperands (c : Cap) (i : Instr) (m : Nat) (a b : DWord) : Cap :=
  { c with instr := i, v1 := NatMap.set 0 [] m a, v2 := NatMap.set 0 [] m b, v3 := [] }

/-- The result of a half on a vector core from D and S as they stood before the word (R40, R42). -/
def half32 (c : Cap) (h : Half) (m : Nat) (d sv : Word) : Word :=
  match halfForm h with
  | none => 0
  | some i =>
    let a := if halfReadsD h then d else sv
    match i with
    | .kmov _ => match h.x.toNat with
      | 2 => (sv.setWidth 8).setWidth 32
      | 4 => (sv.setWidth 16).setWidth 32
      | 6 => (sv.setWidth 16).signExtend 32
      | _ => sv
    | _ =>
      match floatSpec (withOperands c i m (a.setWidth 64) (sv.setWidth 64)) i m with
      | some v => BitVec.ofNat 32 v
      | none => intSpec 32 i a sv 0

/-- The result of a half on a Quartz core. -/
def half64 (h : Half) (d sv : DWord) : DWord :=
  match halfForm h with
  | none => 0
  | some i => intSpec 64 i (if halfReadsD h then d else sv) sv 0

-- Intervals.

/-- The interval invariant of R59 for one group: each present thread's value of each k-register lies in the group's
interval. -/
def IvHolds (s : State) (k sl : Nat) : Prop :=
  ∀ g u, s.group? k sl = some g → s.unit? g.uid = some u → ∀ p ∈ g.members, ∀ n, n < 32 →
    (ivGet g.iv n).lo ≤ ((u.thread p.2).reg (480 + n)).toInt ∧ ((u.thread p.2).reg (480 + n)).toInt ≤ (ivGet g.iv n).hi

/-- The lanes of every group are a table in canonical form: one thread for a lane. -/
def LanesInv (s : State) : Prop := ∀ p ∈ s.groups, ∀ g, p.2 = some g → NatMap.wf none g.lanes = true

/-- Where a unit stands (R18, R45, R192): its index lies in the grid, its core in the package, and its threads fill whole warps. -/
structure InGrid (u : Unit_) (rc : LaunchRec) (th : Nat) : Prop where
  index : u.index < rc.gridx * rc.gridy * rc.gridz
  core : u.core < 256
  warps : u.nthreads % 32 = 0
  thread : th < u.nthreads

/-- No set of the unit waits for a value of a queue. -/
def NoPopper (s : State) (uid : Nat) : Prop :=
  ∀ v, (uid, some v) ∈ s.units → ∀ p ∈ v.parked, ∀ q d w, p.on ≠ .qpop q d w

/-- The signed 32-bit range. -/
def cutTop (n : Iv) : Iv := if n.lo < -2147483648 ∨ 2147483647 < n.hi then Iv.top else n

/-- Least and greatest of the four products (R66). -/
def mulIv (a b : Iv) : Iv :=
  ⟨min (min (a.lo * b.lo) (a.lo * b.hi)) (min (a.hi * b.lo) (a.hi * b.hi)),
   max (max (a.lo * b.lo) (a.lo * b.hi)) (max (a.hi * b.lo) (a.hi * b.hi))⟩

def satBound (v : Int) : Int := max (-2147483648) (min v 2147483647)

/-- The literal in 0 to 31 that a shift names, and the literal above 0 that an AND names (R66). -/
def shiftLit : Src → Option Nat
  | .lit n => if 0 ≤ n.toInt ∧ n.toInt ≤ 31 then some n.toInt.toNat else none
  | _ => none
def maskLit : Src → Option Int
  | .lit n => if 0 ≤ n.toInt then some n.toInt else none
  | _ => none

/-- An AND with the literal `m` of a source whose interval is `a` (R66). -/
def andIv (m : Option Int) (a : Iv) (or_ : Iv) : Iv :=
  match m with
  | some m => if 0 ≤ a.lo then ⟨0, min a.hi m⟩ else or_
  | none => or_

/-- The intervals of the special registers (R18). -/
def specialIv (u : Unit_) (rc : LaunchRec) (n : Nat) : Iv :=
  let below (k : Nat) : Iv := ⟨0, (k : Int) - 1⟩
  let exact (k : Nat) : Iv := ⟨k, k⟩
  [⟨0, 31⟩, below u.nthreads, below rc.gridx, below rc.gridy, below rc.gridz, exact rc.gridx, exact rc.gridy, exact rc.gridz,
    exact u.nthreads, below (u.nthreads / 32), ⟨0, 3⟩, ⟨0, 63⟩, ⟨0, 3⟩].getD n Iv.top

/-- The bound of the k-register that KLO and KHI name (R70). -/
def boundIn (g : Group) (p : Src) : Iv :=
  match p with
  | .reg n => ivGet g.iv (n.toNat - 480)
  | _ => Iv.top

/-- The words that write nothing with no lane active (R74). -/
def isCrossLane : Instr → Bool
  | .lread _ | .lshfx _ | .lbcast _ | .lsum _ | .lmax _ | .vote _ | .lprefix _ => true
  | _ => false

/-- The table of R66, and of R18 and R89, for the words of the group `g` of unit `u`, from σ of the sources, before the cut of
R59. -/
def ivSpec (g : Group) (u : Unit_) (rc : LaunchRec) (i : Instr) (a b d : Iv) : Iv :=
  match i with
  | .iadd o => if bits o.x 1 2 = 0 then ⟨a.lo + b.lo, a.hi + b.hi⟩
      else if bits o.x 1 2 = 1 then ⟨satBound (a.lo + b.lo), satBound (a.hi + b.hi)⟩ else Iv.top
  | .isub o => if bits o.x 1 2 = 0 then ⟨a.lo - b.hi, a.hi - b.lo⟩
      else if bits o.x 1 2 = 1 then ⟨satBound (a.lo - b.hi), satBound (a.hi - b.lo)⟩ else Iv.top
  | .imul _ => mulIv a b
  | .imad _ => ⟨(mulIv a b).lo + d.lo, (mulIv a b).hi + d.hi⟩
  | .imin _ => ⟨min a.lo b.lo, min a.hi b.hi⟩
  | .imax _ => ⟨max a.lo b.lo, max a.hi b.hi⟩
  | .mov _ => a
  | .movi o => Iv.exact o.imm.toInt
  | .iaddWide o => ⟨a.lo + o.imm.toInt, a.hi + o.imm.toInt⟩
  | .imulWide o => mulIv a (Iv.exact o.imm.toInt)
  | .iminWide o => ⟨min a.lo o.imm.toInt, min a.hi o.imm.toInt⟩
  | .imaxWide o => ⟨max a.lo o.imm.toInt, max a.hi o.imm.toInt⟩
  | .shl o => match shiftLit o.s2 with
    | some n => ⟨a.lo * 2 ^ n, a.hi * 2 ^ n⟩
    | none => Iv.top
  | .shra o => match shiftLit o.s2 with
    | some n => ⟨a.lo / 2 ^ n, a.hi / 2 ^ n⟩
    | none => Iv.top
  | .shrl o => match shiftLit o.s2 with
    | some n => if 0 ≤ a.lo ∨ n = 0 then ⟨a.lo / 2 ^ n, a.hi / 2 ^ n⟩ else ⟨0, 2 ^ (32 - n) - 1⟩
    | none => Iv.top
  | .and o => andIv (maskLit o.s2) a (andIv (maskLit o.s1) b Iv.top)
  | .andWide o => andIv (if 0 ≤ o.imm.toInt then some o.imm.toInt else none) a Iv.top
  | .kmov o =>
    let r : Iv := [Iv.top, Iv.top, ⟨0, 255⟩, Iv.top, ⟨0, 65535⟩, Iv.top, ⟨-32768, 32767⟩].getD o.x.toNat Iv.top
    if r.lo ≤ a.lo ∧ a.hi ≤ r.hi then a else r
  | .klo o => ⟨(boundIn g o.s1).lo, (boundIn g o.s1).lo⟩
  | .khi o => ⟨(boundIn g o.s1).hi, (boundIn g o.s1).hi⟩
  | .rdspec o => specialIv u rc o.imm.toNat
  | .sel _ => Iv.hull a b
  | .lread _ | .lshfx _ | .lbcast _ => Iv.hull a ⟨0, 0⟩
  | .fclass _ => ⟨1, 512⟩
  | _ => Iv.top

/-- The words whose row of R66 ivSpec gives. -/
def hasIvSpec : Instr → Bool
  | .iadd _ | .isub _ | .imul _ | .imad _ | .imin _ | .imax _ | .mov _ | .movi _ | .iaddWide _ | .imulWide _ | .iminWide _
  | .imaxWide _ | .imulhi _ | .ineg _ | .iabs _ | .iminu _ | .imaxu _ | .rotl _ | .or _ | .xor _ | .andn _ | .not _
  | .popc _ | .clz _ | .brev _ | .bfx _ | .bfi _ | .prmt _ | .orWide _ | .xorWide _ | .shl _ | .shra _ | .shrl _ | .and _
  | .andWide _ => true
  | i => isIndexWord i || isFloatWord i || isSlotWord i

/-- The table of R79: the new intervals of S1 and S2 where the condition holds. -/
def refineSpec (code : BitVec 4) (a b : Iv) : Iv × Iv :=
  let both := decide (0 ≤ a.lo) && decide (0 ≤ b.lo)
  let lt : Iv × Iv := (⟨a.lo, min a.hi (b.hi - 1)⟩, ⟨max b.lo (a.lo + 1), b.hi⟩)
  let le : Iv × Iv := (⟨a.lo, min a.hi b.hi⟩, ⟨max b.lo a.lo, b.hi⟩)
  let gt : Iv × Iv := (⟨max a.lo (b.lo + 1), a.hi⟩, ⟨b.lo, min b.hi (a.hi - 1)⟩)
  let ge : Iv × Iv := (⟨max a.lo b.lo, a.hi⟩, ⟨b.lo, min b.hi a.hi⟩)
  let eq : Iv × Iv := (⟨max a.lo b.lo, min a.hi b.hi⟩, ⟨max a.lo b.lo, min a.hi b.hi⟩)
  let un (p : Iv × Iv) : Iv × Iv := if both then p else (a, b)
  [eq, (a, b), lt, le, gt, ge, un lt, un le, un gt, un ge].getD code.toNat (a, b)

/-- The negation pairs of R79. -/
def negated (code : BitVec 4) : BitVec 4 := [1, 0, 5, 4, 3, 2, 9, 8, 7, 6].getD code.toNat 6

/-- The interval of k-register `n` on a side of BRC (R79): refined where a source names it, and neither is when both name it. -/
def sideOf (g : Group) (o : BOps) (code : BitVec 4) (a b : Iv) (n : Nat) : Iv :=
  let r := refineSpec code a b
  if o.s1 = o.s2 then ivGet g.iv n
  else if o.s1 = .reg (BitVec.ofNat 9 (480 + n)) then r.1
  else if o.s2 = .reg (BitVec.ofNat 9 (480 + n)) then r.2
  else ivGet g.iv n

-- Control transfers.

/-- The front of an agent whose run has ended and whose next word stands at `pc` (R77). -/
def frontAt (fr : Front) (pc : Pc) : Front := { fr with pc := pc, j := 0, latch := [] }

/-- The group goes on as one at `pc`, with the intervals `iv`; `u1` is its unit but for the run that has ended. -/
def Jumped (i : Instr) (s t : State) (k sl : Nat) (fr : Front) (g : Group) (u u1 : Unit_) (iv : NatMap Iv) (pc : Pc) : Prop :=
  OnlyGroup i s t k sl g u ∧ t.group? k sl = some { g with iv := iv, front := frontAt fr pc } ∧
    t.unit? g.uid = some { u1 with runs := u1.runs + 1 }

/-- The context goes on at `pc`. -/
def JumpedCtx (s t : State) (cl x : Nat) (fr : Front) (q : Ctx) (pc : Pc) : Prop :=
  OnlyCtx s t cl x ∧ t.ctx? cl x = some { q with front := frontAt fr pc }

/-- The target of a word of format B (R34). -/
def branchTarget (fr : Front) (o : BOps) : Pc := fr.pc + 8 * o.off.signExtend 57

/-- An integer condition of R33 on two values of one width. -/
def condSpec {w : Nat} (code : BitVec 4) (a b : BitVec w) : Bool :=
  [a == b, a != b, a.slt b, a.sle b, b.slt a, b.sle a, a.ult b, a.ule b, b.ult a, b.ule a].getD code.toNat false

/-- The next program counter of a present lane, for the words whose transfer R78, R80 and R81 give. -/
def nextPc (s : State) (fr : Front) (c : Cap) (u : Unit_) (i : Instr) (m : Nat) : Option Pc :=
  match i with
  | .bra o => some (branchTarget fr o)
  | .brc o => some (if condSpec o.cond (x1 c m) (x2 c m) then branchTarget fr o else fr.pc + 8)
  | .brp o => some (if predIn s c u o.s1 m != (o.cond == 1) then branchTarget fr o else fr.pc + 8)
  | .jmpx o => some (if m ∈ c.active then
      (match o.s1 with
       | .sreg _ => (c.a1 m).setWidth 57
       | _ => fr.pc + (x1 c m).signExtend 57) else fr.pc + 8)
  | .ret _ => some (if m ∈ c.active then (c.a1 m).setWidth 57 else fr.pc + 8)
  | _ => none

/-- Bits [2:0] of every computed target are zero (R84). -/
def targetsAligned (c : Cap) (fr : Front) (i : Instr) : Prop :=
  match i with
  | .jmpx o => ∀ m ∈ c.active, bits (match o.s1 with
      | .sreg _ => c.a1 m
      | _ => fr.pc.setWidth 64 + (x1 c m).signExtend 64) 0 3 = 0
  | .ret _ => ∀ m ∈ c.active, bits (c.a1 m) 0 3 = 0
  | _ => True

/-- A bin of the unit holds the thread under the key (R77, R194). -/
def Filed (u : Unit_) (key : BinKey) (th : Nat) : Prop := ∃ b ∈ u.bins, b.key = key ∧ th ∈ b.threads

/-- A bin of the unit holds the thread under the key, with intervals that contain `iv` (R77, R194). -/
def FiledWith (u : Unit_) (key : BinKey) (th : Nat) (iv : Nat → Iv) : Prop :=
  ∃ b ∈ u.bins, b.key = key ∧ th ∈ b.threads ∧ ∀ n, n < 32 → Iv.inside (iv n) (ivGet b.iv n) = true

/-- The interval of k-register `n` with which lane `m` goes on after BRC (R79). -/
def sideIn (g : Group) (o : BOps) (c : Cap) (m n : Nat) : Iv :=
  sideOf g o (if condSpec o.cond (x1 c m) (x2 c m) then o.cond else negated o.cond) c.i1 c.i2 n

/-- The interval of k-register `n` with which a group that stays whole goes on after BRC (R77): that of the side on which every
lane lies, or the hull of both sides. -/
def joinedBy (g : Group) (o : BOps) (c : Cap) (n : Nat) : Iv :=
  let yes := sideOf g o o.cond c.i1 c.i2 n
  let no := sideOf g o (negated o.cond) c.i1 c.i2 n
  if ∀ m ∈ c.present, condSpec o.cond (x1 c m) (x2 c m) then yes
  else if ∃ m ∈ c.present, condSpec o.cond (x1 c m) (x2 c m) then Iv.hull yes no
  else no

-- Operands.

/-- The format of a floating-point operand position `n`, and how often a literal stands in the operand (R31, R88, R98, R104). -/
def litFmt (i : Instr) (n : Nat) : Option (Fmt × Nat) :=
  let half (b : Bool) : Option (Fmt × Nat) := some (if b then ⟨8, 7, 127, .ieee⟩ else ⟨5, 10, 15, .ieee⟩, 65537)
  let single : Option (Fmt × Nat) := some (⟨8, 23, 127, .ieee⟩, 1)
  let double : Option (Fmt × Nat) := some (⟨11, 52, 1023, .ieee⟩, 1)
  match i with
  | .dadd _ | .dmul _ | .dfma _ | .dmin _ | .dmax _ | .dcmp _ | .d2f _ => double
  | .hadd2 o | .hmul2 o | .hfma2 o | .hmax2 o => half (bits o.x 2 1 = 1)
  | .f2f o => if o.x = 4 then half false else if o.x = 6 then half true else single
  | .i2f _ => none
  | .fcmp _ | .f2d _ => single
  | .cvts _ => if n = 1 then single else none
  | .mqnt _ => if n = 3 then single else none
  | .lsum o => if o.x = 1 then single else none
  | .lmax o => if o.x = 2 then single else none
  | i => if isFloatWord i then single else none

/-- The value of a literal in source position `n` of a word, 64 bits wide or 32 (R31, R57). A literal in a zero-extending
position is a source of 32 bits (log entry 68). -/
def litSpec (i : Instr) (n : Nat) (whole : Bool) (f : BitVec 9) : DWord :=
  match litFmt i n with
  | some (fmt, k) => BitVec.ofNat 64 (roundTo fmt .rne (.ofInt f.toInt) * k)
  | none => if zeroPos i n = false ∧ whole = true then f.signExtend 64 else (f.signExtend 32).setWidth 64

/-- The literal of the S of a pair half (R39, R42): it stands in the position that the half's single form gives S. -/
def pairLitSpec (h : Half) (whole : Bool) (f : BitVec 9) : DWord :=
  match halfForm h with
  | some i => litSpec i (if halfReadsD h then 2 else 1) whole f
  | none => litSpec (.nop ⟨false, 0, .reg 0, .reg 0, .reg 0, ⟨false, false, 0⟩, .none, 0, false⟩) 1 whole f

/-- The literal of source position `n` of any word. -/
def litIn (i : Instr) (n : Nat) (whole : Bool) (f : BitVec 9) : DWord :=
  match i with
  | .pairWord o => pairLitSpec (if n = 1 then o.h0 else o.h1) whole f
  | i => litSpec i n whole f

/-- A source position of 64 bits: by its kind, or with an s-register destination (R30, R57, R88). -/
def wholePos (i : Instr) (kd : SKind) : Bool :=
  kd == .r64 || kd == .handle || kd == .tok || kd == .link || (kd == .w && sDestOf .vector i)

/-- What source `p` in position `n` of a word reads in lane `m` of thread `th`, at clock `now` (R31, R37, R57, R58, R88). -/
def operandSpec (i : Instr) (n : Nat) (kd : SKind) (u : Unit_) (now : Nat) (th : Thread) (latch : List LatchEntry) (m : Nat)
    (p : Src) : DWord :=
  match p with
  | .reg f =>
    if kd = .pred then (if th.pred f.toNat then 1 else 0)
    else if kd = .r64 ∨ kd = .link then (th.reg (f.toNat + 1) ++ th.reg f.toNat : BitVec 64)
    else (th.reg f.toNat).setWidth 64
  | .lit f => litIn i n (wholePos i kd) f
  | .latch f => match latch.find? (fun e => e.pos % 3 == f.toNat) with
    | some e => NatMap.get 0 e.vals m
    | none => 0
  | .sreg f =>
    if wholePos i kd = true ∨ kd = .wide ∨ kd = .jump then u.sregAt now f.toNat
    else ((u.sregAt now f.toNat).setWidth 32).setWidth 64

/-- The same on the Quartz core: s-registers in either mode, and 64 bits (R31, R57). -/
def operandQ (i : Instr) (n : Nat) (q : Ctx) (p : Src) : DWord :=
  match p with
  | .reg f | .sreg f => q.sreg f.toNat
  | .lit f => litIn i n true f
  | .latch f => match q.front.latch.find? (fun e => e.pos % 3 == f.toNat) with
    | some e => NatMap.get 0 e.vals 0
    | none => 0

/-- The guard of a word lets the thread take part (R28). -/
def guardLets (i : Instr) (th : Thread) : Bool :=
  match i.desc with
  | .a _ o => !o.g.en || (th.pred o.g.p.toNat != o.g.neg)
  | .m _ o => !o.g.en || (th.pred o.g.p.toNat != o.g.neg)
  | _ => true

/-- How many data registers a word of format M reads from D (R35, R113, R117, R123). -/
def dataCount (d : MDesc) (sz : BitVec 3) : Nat :=
  match d.data with
  | .store => [1, 1, 1, 1, 1, 2, 4].getD sz.toNat 1
  | .upd32 => 1
  | .upd64 => 2
  | .one => [1, 2, 1, 2].getD sz.toNat 1
  | .two => [2, 4, 2, 4].getD sz.toNat 2
  | _ => 0

/-- σ of a source (R59). -/
def sigmaSpec (g : Group) (p : Src) : Iv :=
  match p with
  | .reg f => if 480 ≤ f.toNat then ivGet g.iv (f.toNat - 480) else Iv.top
  | .lit f => ⟨f.toInt, f.toInt⟩
  | _ => Iv.top

/-- A bin holds each of its threads' k-registers inside its intervals (R213). -/
def BinHolds (u : Unit_) (b : Bin) (th : Nat) : Prop :=
  ∀ n, n < 32 → (ivGet b.iv n).lo ≤ ((u.thread th).reg (480 + n)).toInt ∧ ((u.thread th).reg (480 + n)).toInt ≤ (ivGet b.iv n).hi

-- Traps.

/-- The word `i` is in the hands of agent `a` and its operands are captured: Issues, before any check of R44. -/
structure Arrives (i : Instr) (s : State) (a : Agent) (f l : Nat) (fr : Front) (c : Cap) : Prop where
  turn : s.cur = some a
  front : frontOf s a = some fr
  launch : agentLaunch s a = some (f, l)
  free : fr.hold = none
  runs : standing s a fr = false
  operands : capture s a i ((encode i).getD 0) fr = some c
  ordered : behind fr i = false
  quiet : Reported s

/-- Check `n` of R44 fails, 1 to 6. -/
def Fails (s : State) (a : Agent) (fr : Front) (rc : LaunchRec) (i : Instr) (n : Nat) : Prop :=
  (n = 1 ∧ i.classOk a.kind = false) ∨
  (n = 2 ∧ i.eBit = false ∧ (i.ends = true ∨ 23 ≤ fr.j)) ∨
  (n = 3 ∧ (i.wf a.kind = false ∨ slotsOk rc (readBWord s a fr) i = false)) ∨
  (n = 4 ∧ a.kind = .vector ∧ regsInRange rc.regs i = false) ∨
  (n = 5 ∧ ∃ e ∈ latchReads i, latchOk fr.latch e fr.j = false) ∨
  (n = 6 ∧ isPrivileged i = true ∧ fr.priv = false)

/-- The banked registers and the queue at trap entry (R171, R319, R320). `idx` is ENTRY; RPOS and RESUME as R320 says. -/
def entered (a : Agent) (fr : Front) (te : Pc) (idx cause : Nat) (xaddr : DWord) (xmask : Word) (q : List ReplayEntry)
    (xpc : Pc) (rpos : Nat) (resume : Bool) : Front :=
  { pc := te, j := 0, latch := [], priv := true, xpc := xpc.setWidth 64, xcause := BitVec.ofNat 32 (256 * idx + cause),
    xstat := xstatOf a fr.latch rpos resume, xaddr := xaddr, xmask := xmask, replay := q,
    frame := ⟨rpos, fr.latch, xpc.setWidth 64⟩, hold := none, unfinished := [] }

/-- The replay entry of a word (R176); its latch entry, if it retains an operand, is still owed at its place (R37), and a
nonuniform one holds what it raised (R189). -/
def entryNow (fr : Front) (c : Cap) (i : Instr) (cause : Nat) (xaddr : DWord) (xmask : Word) : ReplayEntry :=
  ⟨(encode i).getD 0, fr.pc, laneMask c.active, BitVec.ofNat 8 cause, c.v1, c.v2, c.v3, c.dat,
    if (retained c).isSome then some fr.j else none, if cause = 7 then some (xaddr, xmask) else none⟩

/-- The entries of the words that have issued and not finished, oldest first (R171, R322). -/
def older (fr : Front) : List ReplayEntry := fr.unfinished.map (·.entry)

/-- The front after TRAP or SYSC: no entry of its own, the run has ended, and XPC is the next word (R171, R173, R174). -/
def softFront (a : Agent) (fr : Front) (te : Pc) (cause : Nat) (xaddr : DWord) (xmask : Word) : Front :=
  entered a fr te 0xFF cause xaddr xmask (older fr) (fr.pc + 8) 0 false

/-- The front after a trap of the word in hand: TRAP and SYSC go on at the next word; another word that ends its run is no
entry and executes again; any other is the entry behind those of the unfinished words, and its run goes on when its E bit is 0
(R171, R174). -/
def trapped (a : Agent) (fr : Front) (c : Cap) (i : Instr) (te : Pc) (cause : Nat) (xaddr : DWord) (xmask : Word) : Front :=
  let n := fr.unfinished.length
  let q := older fr ++ [entryNow fr c i cause xaddr xmask]
  if isSoft i then softFront a fr te cause xaddr xmask
  else if i.ends then entered a fr te 0xFF cause xaddr xmask (older fr) fr.pc fr.j true
  else if i.eBit then entered a fr te n cause xaddr xmask q (fr.pc + 8) 0 false
  else entered a fr te n cause xaddr xmask q (fr.pc + 8) (fr.j + 1) true

/-- Does the trapping word end its run: TRAP, SYSC, or a word with E = 1 that is no control transfer (R174)? -/
def trapEndsRun (i : Instr) : Bool := isSoft i || (i.eBit && !i.ends)

/-- One more run of a group's unit has ended (R325). -/
def runCounted (s : State) (a : Agent) : State :=
  match a with
  | .group k sl => match s.group? k sl with
    | some g => s.modUnit g.uid (fun u => { u with runs := u.runs + 1 })
    | none => s
  | .quartz _ _ => s

/-- The state in which the trap is taken: a run that the trapping word of a group ends is counted (R174, R325). -/
def runEnded (s : State) (a : Agent) (i : Instr) : State := if trapEndsRun i then runCounted s a else s

/-- XMASK for a list of lanes: 1 on the Quartz core whenever the table names lanes (R319). -/
def xmaskOf (a : Agent) (lanes : List Nat) : Word :=
  match a with
  | .group _ _ => laneMask lanes
  | .quartz _ _ => if lanes = [] then 0 else 1

/-- The function's context has been torn down (R331, R332). -/
structure TornDown (t : State) (f : Nat) : Prop where
  torn : (t.func f).torn = true
  units : ∀ n u, t.unit? n = some u → u.func ≠ f
  ctxs : ∀ cl x q, t.ctx? cl x = some q → q.func ≠ f
  queue : (t.func f).cqen = false

/-- The run that TRET leaves (R174). -/
def resumed (fr : Front) : Front :=
  if fr.xpc = fr.frame.xpc0 ∧ fr.xstat.getLsbD 5 = true then
    { fr with pc := fr.xpc.setWidth 57, priv := false, replay := [], hold := none, j := fr.frame.pos, latch := fr.frame.latch }
  else { fr with pc := fr.xpc.setWidth 57, priv := false, replay := [], hold := none, j := 0, latch := [] }

/-- The operand that a replay entry's word retains (R37, R176). -/
def retains (i : Instr) (e : ReplayEntry) : Option (NatMap DWord) :=
  match i.desc with
  | .a _ o => [none, some e.op1, some e.op2, some e.op3].getD
      (match o.h with | .none => 0 | .s1 => 1 | .s2 => 2 | .s3 => 3) none
  | _ => none

/-- The front when an entry has run: its word, when it owes the interrupted run a latch entry, has entered it (R37, R174). -/
def paid (fr : Front) (i : Instr) (e : ReplayEntry) : Front :=
  match e.keeps, retains i e with
  | some j, some v => { fr with frame := { fr.frame with latch := ⟨j, v⟩ :: fr.frame.latch.filter (fun x => x.pos % 3 != j % 3) } }
  | _, _ => fr

/-- The banked register of an index (R175). -/
def banked (fr : Front) (n : Nat) : DWord :=
  [fr.xpc, fr.xcause.setWidth 64, fr.xstat, fr.xaddr, fr.xmask.setWidth 64, BitVec.ofNat 64 fr.replay.length].getD n 0

/-- The half that X selects (R175). -/
def half (x : BitVec 3) (v : DWord) : Word := if x = 1 then (v >>> 32).setWidth 32 else v.setWidth 32

/-- XPC after an XWR on the vector core (R175). -/
def xpcHalf (x : BitVec 3) (old : DWord) (v : Word) : DWord :=
  (if x = 1 then v ++ old.setWidth 32 else (old >>> 32).setWidth 32 ++ v) &&& 0x01FFFFFFFFFFFFF8#64

/-- Field `n` of a replay entry in a lane (R176). -/
def fieldOf (k : CoreKind) (e : ReplayEntry) (n lane : Nat) : DWord :=
  let cut (v : DWord) : DWord := if k = .quartz then v else (v.setWidth 32).setWidth 64
  let use (v : DWord) : DWord := match e.instr with
    | some i => if fieldUsed k i n then v else 0
    | none => 0
  let p : DWord := e.pc.setWidth 64
  let ops : List (NatMap DWord) := [e.op1, e.op2, e.op3]
  if n < 6 then [(e.word.setWidth 32).setWidth 64, e.word >>> 32, (p.setWidth 32).setWidth 64, p >>> 32, e.mask.setWidth 64, e.stat.setWidth 64].getD n 0
  else if n < 9 then use (cut (NatMap.get 0 (ops.getD (n - 6) []) lane))
  else if n < 13 then use (cut (NatMap.get 0 e.dat (4 * lane + (n - 9))))
  else use (NatMap.get 0 (ops.getD (n - 13) []) lane >>> 32)

/-- The value that RPLW leaves in a field (R176). -/
def fieldWritten (k : CoreKind) (e : ReplayEntry) (n : Nat) (v : DWord) : DWord :=
  let cut : DWord := if k = .quartz then v else (v.setWidth 32).setWidth 64
  let used : Bool := match e.instr with
    | some i => fieldUsed k i n
    | none => false
  if n = 4 then (e.mask &&& v.setWidth 32).setWidth 64 else if used then cut else 0

-- Turns.

/-- R28, R149, R199: the agent is the one that its quadrant, or its Quartz core, chooses at this clock, while the slots or
contexts of `stalls` stall. A run that stands within, chosen last, holds the quadrant; otherwise every slot or context that
comes before, counted round from the one after the last chosen, waits or stalls. -/
def Chosen (s : State) (a : Agent) (stalls : List Nat) : Prop :=
  match a with
  | .group k sl =>
    (withinRun s k (lastSlotOf s k (sl / 8)) = true → lastSlotOf s k (sl / 8) = sl) ∧
    (withinRun s k (lastSlotOf s k (sl / 8)) = false →
      ∀ n, n < 8 → (n + 7 - lastSlotOf s k (sl / 8) % 8) % 8 < (sl % 8 + 7 - lastSlotOf s k (sl / 8) % 8) % 8 →
        waits s (.group k (8 * (sl / 8) + n)) = true ∨ 8 * (sl / 8) + n ∈ stalls)
  | .quartz cl c =>
    ∀ n, n < 8 → (n + 7 - (s.cluster cl).lastCtx % 8) % 8 < (c + 7 - (s.cluster cl).lastCtx % 8) % 8 →
      waits s (.quartz cl n) = true ∨ n ∈ stalls

/-- The agent is the last chosen of its quadrant or Quartz core, which has issued at this clock, and what happens in the
clock has come to place `r`; nothing else differs. -/
def tookTurn (s : State) (a : Agent) (r : Nat) : State :=
  match a with
  | .group k sl => { s with rank := r }.setCore k { s.core k with
      lastSlot := NatMap.set 7 (s.core k).lastSlot (sl / 8) (sl % 8)
      issued := NatMap.set 0 (s.core k).issued (sl / 8) (s.clock + 1) }
  | .quartz cl c => { s with rank := r }.setCluster cl { s.cluster cl with lastCtx := c % 8, issued := s.clock + 1 }

/-- The state after `dt` clocks: in a new clock nothing has happened yet. -/
def clocksLater (s : State) (dt : Nat) : State := { s with clock := s.clock + dt, rank := if dt = 0 then s.rank else 0 }

/-- `dt` clocks may pass: none leaves behind a deadline, a write that a die must have applied, or a refill of EBUD (R157,
R251, R298, R317). -/
def Passes (s : State) (dt : Nat) : Prop := dt = 0 ∨ clockFree s (s.clock + dt) = true

/-- The state `s1`, after the clocks of a turn of the agenda, in which agent `a` is to issue. -/
def TurnOf (s s1 : State) (a : Agent) (stalls : List Nat) : Prop :=
  ∃ dt upset later r, s.agenda = ⟨dt, .issue a upset stalls later⟩ :: r ∧ Passes s dt ∧
    s1 = { clocksLater s dt with agenda := r, cur := some a, upset := upset, later := later }

/-- The next step of `s` is an issue by agent `a`, whose turn it is: of the agenda, or with the agenda empty, when nothing
but a run that holds the quadrant stands before it. Its quadrant or Quartz core has not issued at this clock. `s1` is `s`
after the clocks of the turn. -/
def IssueTurn (s s1 : State) (a : Agent) : Prop :=
  issuedNow s1 a = false ∧ ((∃ stalls, TurnOf s s1 a stalls ∧ Chosen s1 a stalls) ∨
    (s.agenda = [] ∧ s.cur = some a ∧ Passes s 1 ∧ s1 = { clocksLater s 1 with upset := 0, later := false } ∧
      Chosen s1 a (List.range 32)))

/-- The agent may issue: nothing holds it or makes it stand (R27, R184, R198, R233). -/
structure MayIssue (s : State) (a : Agent) (f l : Nat) (fr : Front) : Prop where
  front : frontOf s a = some fr
  launch : agentLaunch s a = some (f, l)
  free : fr.hold = none
  runs : standing s a fr = false

/-- The fetch at the agent's program counter translates, and the 8 bytes there, read through the instruction cache of a
vector core or at their home, leave `s2` (R5, R56). -/
def Fetches (s0 : State) (a : Agent) (f : Nat) (fr : Front) (bytes : List Byte) (s2 : State) : Prop :=
  ∃ tr s1 s1', translate s0 a.tlbs f fr.pc.toNat .fetch = (.ok tr, s1) ∧ codeErr s1 a tr.pa tr.key = (none, s1') ∧
    codeAt s1' a f tr.pa tr.key = (bytes, s2)

-- Which words are legal encodings: the field rules of R29 to R43 and of the chapters.

/-- A source in range (R31). -/
def plainSrc (k : CoreKind) (s : Src) : Prop :=
  match k, s with
  | .vector, .reg _ => True
  | .quartz, .reg f => f.toNat < 64
  | _, .lit _ => True
  | _, .latch f => f.toNat < 3
  | _, .sreg f => f.toNat < 64

/-- A 64-bit source of R88. -/
def doubleSrc (s : Src) : Prop :=
  match s with
  | .reg f => f.toNat < 480 ∧ f.toNat % 2 = 0
  | .lit _ => True
  | .latch _ => False
  | .sreg f => f.toNat < 64

/-- A unit's s-register, or on the Quartz core an s-register in mode 00 too: tokens and work handles (R126, R181). -/
def wordSrc (k : CoreKind) (s : Src) : Prop :=
  match k, s with
  | _, .sreg f => f.toNat < 64
  | .quartz, .reg f => f.toNat < 64
  | _, _ => False

/-- The link register (R81). -/
def linkSrc (k : CoreKind) (s : Src) : Prop :=
  match k, s with
  | .vector, .reg f => f.toNat < 480 ∧ f.toNat % 2 = 0
  | .quartz, .reg f => f.toNat < 64
  | .quartz, .sreg f => f.toNat < 64
  | _, _ => False

def noSrc (s : Src) : Prop := s = .reg 0
def predSrc (s : Src) : Prop := ∃ f, s = .reg f ∧ f.toNat < 8
def kSrc (s : Src) : Prop := ∃ f, s = .reg f ∧ 480 ≤ f.toNat
def litSrc (p : Nat → Prop) (s : Src) : Prop := ∃ f, s = .lit f ∧ p f.toNat
/-- Timeline ids (R125). -/
def tlSrc (s : Src) : Prop := litSrc (fun n => n < 3 ∨ 8 ≤ n ∧ n < 16) s

def threadDest (k : CoreKind) (d : BitVec 9) : Prop := k = .quartz → d.toNat < 64
def pairDest (d : BitVec 9) : Prop := d.toNat < 480 ∧ d.toNat % 2 = 0
/-- A condition code below `n`, and a predicate. -/
def condDest (n : Nat) (d : BitVec 9) : Prop := d.toNat / 32 < n ∧ d.toNat / 8 % 4 = 0

/-- A 64-bit operand may be retained only on the Quartz core (R38). -/
def keep64 (k : CoreKind) (l : List Hold) : List Hold := if k = .quartz then l else []
/-- An operand that mode 11 makes 64 bits wide on a vector core. -/
def keepWide (k : CoreKind) (s : Src) (h : Hold) : List Hold :=
  match k, s with
  | .vector, .sreg _ => []
  | _, _ => [h]

/-- A format A word: its destination, its modifier, whether it takes a guard, and which operands it may retain. -/
def legalA (k : CoreKind) (o : AOps) (d x : Prop) (s1 s2 s3 : Src → Prop) (guarded : Bool) (keeps : List Hold) : Prop :=
  d ∧ x ∧ s1 o.s1 ∧ s2 o.s2 ∧ s3 o.s3 ∧ (o.g.en = true → guarded = true ∧ k = .vector) ∧ (o.h = .none ∨ o.h ∈ keeps)

/-- The integer words of X class S, with `m` modifiers: x0 makes D an s-register, and the operands 64 bits wide. -/
def legalInt (k : CoreKind) (o : AOps) (m : Nat) (s2 s3 : Src → Prop) (keeps : List Hold) : Prop :=
  legalA k o (k = .quartz ∨ o.x.toNat % 2 = 1 → o.d.toNat < 64) (o.x.toNat / 2 < m ∧ (k = .quartz → o.x.toNat % 2 = 0))
    (plainSrc k) s2 s3 true (if k = .vector ∧ o.x.toNat % 2 = 1 then [] else keeps)

/-- A format M word (R35, R36). -/
def legalM (o : MOps) (d : Prop) (sz : Prop) (ords : List Order) (scopes : Nat) : Prop :=
  d ∧ plainSrc .vector o.ix ∧ sz ∧ o.ord ∈ ords ∧ o.scope.toNat < scopes

/-- The data register of a load or a store. -/
def loadData (o : MOps) : Prop :=
  (o.sz.toNat = 5 → pairDest o.d) ∧ (o.sz.toNat = 6 → o.d.toNat < 480 ∧ o.d.toNat % 4 = 0)
/-- The data registers of an atomic that takes one operand, or two. -/
def atomData (n : Nat) (o : MOps) : Prop :=
  o.d.toNat < 480 ∧ o.d.toNat % (if o.sz.toNat % 2 = 1 then 2 * n else n) = 0

/-- The modifiers of a half's single form (R39). -/
def halfMods (op x : Nat) : Prop :=
  x % 2 = 0 ∧ (if op = 0x03 ∨ op = 0x04 then x < 6 else if op = 0x12 ∨ op = 0x13 then x < 4
    else if op = 0x2C then x = 0 ∨ x = 4
    else if op ∈ [0x02, 0x20, 0x21, 0x22, 0x27, 0x2A, 0x2B, 0x2D, 0x2E] then True else x = 0)

/-- A half of a pair word (R39, R42). -/
def legalHalf (k : CoreKind) (h : Half) : Prop :=
  (h.op = 0 → h.d = 0 ∧ h.s = .reg 0 ∧ h.h = false ∧ h.x = 0) ∧
  (h.op ≠ 0 → (h.op.toNat < 0x18 ∨ 0x20 ≤ h.op.toNat ∧ h.op.toNat < 0x2F) ∧
    (h.op = 2 → 480 ≤ h.d.toNat) ∧ (h.op ≠ 2 → threadDest k h.d) ∧ plainSrc k h.s ∧ halfMods h.op.toNat h.x.toNat)

/-- The register `n` is read by the half (R41). -/
def halfReadsReg (k : CoreKind) (h : Half) (n : Nat) : Prop :=
  (n = h.d.toNat ∧ (3 ≤ h.op.toNat ∧ h.op.toNat < 0x12 ∨ 0x20 ≤ h.op.toNat ∧ h.op.toNat < 0x25 ∨
    0x2A ≤ h.op.toNat ∧ h.op.toNat < 0x2D)) ∨
  (h.op ≠ 0 ∧ ∃ f, f.toNat = n ∧ (h.s = .reg f ∨ k = .quartz ∧ h.s = .sreg f))

/-- A pair word: reads in distinct banks, one retention, distinct destinations (R40, R41). -/
def legalPair (k : CoreKind) (o : POps) : Prop :=
  legalHalf k o.h0 ∧ legalHalf k o.h1 ∧ ¬ (o.h0.h = true ∧ o.h1.h = true) ∧
  (o.h0.op ≠ 0 → o.h1.op ≠ 0 → o.h0.d ≠ o.h1.d) ∧
  (∀ m n, (halfReadsReg k o.h0 m ∨ halfReadsReg k o.h1 m) → (halfReadsReg k o.h0 n ∨ halfReadsReg k o.h1 n) →
    m % 4 = n % 4 → m = n)

/-- The legal encodings of check 3 of R44, less the format slots, on a core that has the word's class. -/
def legalWord (k : CoreKind) (i : Instr) : Prop :=
  match i with
  | .nop o => legalA k o (o.d = 0) (o.x = 0) noSrc noSrc noSrc true []
  | .pairWord o => legalPair k o
  | .iadd o | .isub o => legalInt k o 3 (plainSrc k) noSrc [.s1, .s2]
  | .imulhi o | .bfx o => legalInt k o 2 (plainSrc k) noSrc [.s1, .s2]
  | .imul o | .imin o | .imax o | .iminu o | .imaxu o | .shl o | .shra o | .shrl o | .rotl o | .and o | .or o | .xor o
  | .andn o => legalInt k o 1 (plainSrc k) noSrc [.s1, .s2]
  | .imad o | .bfi o | .prmt o => legalInt k o 1 (plainSrc k) (plainSrc k) [.s1, .s2, .s3]
  | .ineg o | .iabs o => legalInt k o 2 noSrc noSrc [.s1]
  | .not o | .popc o | .clz o | .brev o | .mov o => legalInt k o 1 noSrc noSrc [.s1]
  | .iaddWide o | .imulWide o | .andWide o | .orWide o | .xorWide o | .iminWide o | .imaxWide o =>
    threadDest k o.d ∧ plainSrc k o.s1
  | .movi o => threadDest k o.d ∧ o.s1 = .lit 0
  | .moviHi o => k = .quartz ∧ threadDest k o.d ∧ wordSrc k o.s1
  | .rdspec o => o.s1 = .reg 0 ∧ o.imm.toNat < 15
  | .kmov o => legalA k o (480 ≤ o.d.toNat) (o.x.toNat % 2 = 0) (plainSrc k) noSrc noSrc true [.s1]
  | .iwiden o => legalA k o (480 ≤ o.d.toNat) (o.x.toNat < 3) (plainSrc k) (plainSrc k) noSrc false [.s1, .s2]
  | .klo o | .khi o => legalA k o (threadDest k o.d) (o.x = 0) kSrc noSrc noSrc true [.s1]
  | .icmp o => legalA k o (condDest 10 o.d) (o.x = 0) (plainSrc k) (plainSrc k) noSrc true [.s1, .s2]
  | .fcmp o => legalA k o (condDest 8 o.d) (o.x = 0) (plainSrc k) (plainSrc k) noSrc true [.s1, .s2]
  | .dcmp o => legalA k o (condDest 8 o.d) (o.x = 0) doubleSrc doubleSrc noSrc true (keep64 k [.s1, .s2])
  | .pand o | .por o | .pxor o => legalA k o (o.d.toNat < 8) (o.x = 0) predSrc predSrc noSrc true [.s1, .s2]
  | .pnot o => legalA k o (o.d.toNat < 8) (o.x = 0) predSrc noSrc noSrc true [.s1]
  | .sel o | .fadd o | .fsub o | .fmul o | .hadd2 o | .hmul2 o =>
    legalA k o (threadDest k o.d) True (plainSrc k) (plainSrc k) noSrc true [.s1, .s2]
  | .lread o | .lshfx o | .lbcast o | .fmin o | .fmax o =>
    legalA k o (threadDest k o.d) (o.x = 0) (plainSrc k) (plainSrc k) noSrc true [.s1, .s2]
  | .hmax2 o => legalA k o (threadDest k o.d) (o.x.toNat % 4 = 0) (plainSrc k) (plainSrc k) noSrc true [.s1, .s2]
  | .lsum o | .lprefix o => legalA k o (threadDest k o.d) (o.x.toNat < 2) (plainSrc k) noSrc noSrc true [.s1]
  | .lmax o | .vote o => legalA k o (threadDest k o.d) (o.x.toNat < 3) (plainSrc k) noSrc noSrc true [.s1]
  | .ffma o | .hfma2 o => legalA k o (threadDest k o.d) True (plainSrc k) (plainSrc k) (plainSrc k) true [.s1, .s2, .s3]
  | .fsqrt o | .f2i o | .i2f o => legalA k o (threadDest k o.d) True (plainSrc k) noSrc noSrc true [.s1]
  | .fclass o | .frcp o | .frsq o | .fexp2 o | .flog2 o | .fsin o | .fcos o =>
    legalA k o (threadDest k o.d) (o.x = 0) (plainSrc k) noSrc noSrc true [.s1]
  | .f2f o => legalA k o (threadDest k o.d) (o.x.toNat ≠ 5 ∧ o.x.toNat ≠ 7) (plainSrc k) noSrc noSrc true [.s1]
  | .dadd o | .dmul o => legalA k o (pairDest o.d) True doubleSrc doubleSrc noSrc true (keep64 k [.s1, .s2])
  | .dmin o | .dmax o => legalA k o (pairDest o.d) (o.x = 0) doubleSrc doubleSrc noSrc true (keep64 k [.s1, .s2])
  | .dfma o => legalA k o (pairDest o.d) True doubleSrc doubleSrc doubleSrc true (keep64 k [.s1, .s2, .s3])
  | .f2d o => legalA k o (pairDest o.d) (o.x = 0) (plainSrc k) noSrc noSrc true [.s1]
  | .d2f o => legalA k o (threadDest k o.d) (o.x.toNat % 2 = 0) doubleSrc noSrc noSrc true (keep64 k [.s1])
  | .cvts o | .cvtl o => legalA k o (threadDest k o.d) True (plainSrc k) (litSrc (fun _ => True)) noSrc true [.s1, .s2]
  | .bra o => noSrc o.s1 ∧ noSrc o.s2 ∧ o.cond = 0
  | .brc o => plainSrc k o.s1 ∧ plainSrc k o.s2 ∧ o.cond.toNat < 10
  | .brp o => predSrc o.s1 ∧ noSrc o.s2 ∧ o.cond.toNat < 2
  | .call o => linkSrc k o.s1 ∧ noSrc o.s2 ∧ o.cond = 0
  | .jmpx o => legalA k o (o.d = 0) (o.x = 0) (plainSrc k) noSrc noSrc true (keepWide k o.s1 .s1)
  | .ret o => legalA k o (o.d = 0) (o.x = 0) (linkSrc k) noSrc noSrc true (keep64 k [.s1])
  | .reform o => legalA k o (o.d = 0) (o.x.toNat < 2) noSrc noSrc noSrc false []
  | .exit o => legalA k o (o.d = 0) (o.x = 0) noSrc noSrc noSrc true []
  | .aset o => o.x.toNat < 2 ∧
    (o.x.toNat = 0 → legalA k o (o.d.toNat < 16) True (plainSrc k) (plainSrc k) (plainSrc k) false
      (keepWide k o.s1 .s1 ++ [.s2, .s3])) ∧
    (o.x.toNat = 1 → legalA k o (o.d.toNat < 16) True (plainSrc k) noSrc noSrc false [.s1])
  | .aget o => legalA k o (threadDest k o.d) (o.x.toNat < 4) (litSrc (· < 16)) noSrc noSrc true [.s1]
  | .ld o | .ldu o | .ldx o | .ldy o => legalM o (loadData o) (o.sz.toNat < 7) [.rlx, .acq, .sc] 6
  | .st o | .stx o => legalM o (loadData o) (o.sz.toNat < 7) [.rlx, .rel, .sc] 6
  | .pref o => legalM o (o.d.toNat < 2) (o.sz = 0) [.rlx] 1
  | .cinv o => legalM o (o.d = 0) (o.sz = 0) [.rlx] 1
  | .cwb o => legalM o (o.d = 0) (o.sz = 0) [.rlx] 6
  | .atomAdd o | .atomAnd o | .atomOr o | .atomXor o | .atomMin o | .atomMax o =>
    legalM o (atomData 1 o) (o.sz.toNat < 4) [.rlx, .acq, .rel, .sc] 6
  | .atomExch o => legalM o (atomData 1 o) (o.sz.toNat < 5) [.rlx, .acq, .rel, .sc] 6
  | .atomIncw o | .atomDecw o => legalM o (atomData 1 o) (o.sz.toNat / 2 = 1) [.rlx, .acq, .rel, .sc] 6
  | .atomAddb o => legalM o (atomData 2 o) (o.sz.toNat / 2 = 1) [.rlx, .acq, .rel, .sc] 6
  | .atomfAdd o | .atomfMin o | .atomfMax o => legalM o (atomData 1 o) (o.sz.toNat = 4) [.rlx, .acq, .rel, .sc] 6
  | .cas o => legalM o (atomData 2 o) (o.sz.toNat < 5) [.rlx, .acq, .rel, .sc] 6
  | .redAdd o | .redAnd o | .redOr o | .redXor o | .redMin o | .redMax o =>
    legalM o (atomData 1 o) (o.sz.toNat < 4) [.rlx, .rel, .sc] 6
  | .updAddI64 o => legalM o (pairDest o.d) (o.sz = 0) [.rlx, .rel] 6
  | .updAddI32 o | .updAddF32 o | .updMinI32 o | .updMaxI32 o | .updMinN32 o | .updMaxN32 o | .updMinF32 o | .updMaxF32 o
  | .updOrB32 o | .updXorB32 o | .updAndB32 o => legalM o True (o.sz = 0) [.rlx, .rel] 6
  | .fence o => legalA k o (o.d.toNat < 6) (1 ≤ o.x.toNat ∧ o.x.toNat < 5) noSrc noSrc noSrc true []
  | .cpy o | .cpyw o | .bgath o | .bscat o =>
    legalA k o (o.d = 0) (o.x = 0) (fun s => ∃ f, s = .sreg f ∧ f.toNat < 64) (plainSrc k) noSrc false [.s2]
  | .cpyf o => legalA k o (o.d = 0) (o.x.toNat < 3) (fun s => ∃ f, s = .sreg f ∧ f.toNat < 64) (plainSrc k) noSrc false [.s2]
  | .cpym o => legalA k o (o.d = 0) (o.x = 0) (fun s => ∃ f, s = .sreg f ∧ f.toNat < 64) (plainSrc k)
    (litSrc (fun n => 1 ≤ n ∧ n < 16)) false [.s2, .s3]
  | .seal o => legalA k o (o.d = 0) (o.x = 0) (plainSrc k) (plainSrc k) noSrc true [.s1, .s2]
  | .reclaim o => legalA k o (o.d = 0) (o.x.toNat < 3) (plainSrc k) noSrc noSrc true [.s1]
  | .bar o | .tret o => legalA k o (o.d = 0) (o.x = 0) noSrc noSrc noSrc false []
  | .binit o | .bexp o | .bwait o => legalA k o (o.d = 0) (o.x = 0) (plainSrc k) (plainSrc k) noSrc false [.s1, .s2]
  | .qinit o => legalA k o (o.d = 0) True (plainSrc k) (plainSrc k) (plainSrc k) false [.s1, .s2, .s3]
  | .qpush o => legalA k o (o.d = 0) (o.x = 0) (plainSrc k) (plainSrc k) noSrc false (.s1 :: keepWide k o.s2 .s2)
  | .qpop o => legalA k o ((o.x.toNat = 1 → pairDest o.d) ∧ (o.x.toNat = 0 → threadDest k o.d))
    (o.x.toNat < 2 ∧ (k = .quartz → o.x.toNat = 0)) (plainSrc k) noSrc noSrc false [.s1]
  | .twait o => legalA k o (o.d = 0) (o.x = 0) tlSrc (plainSrc k) noSrc false (.s1 :: keepWide k o.s2 .s2)
  | .tread o => legalA k o ((2 ≤ o.x.toNat → pairDest o.d) ∧ (o.x.toNat < 2 → threadDest k o.d)) (o.x.toNat < 4)
    tlSrc noSrc noSrc true [.s1]
  | .topk o => legalA k o (threadDest k o.d) (o.x.toNat % 4 < 3) (plainSrc k) noSrc noSrc true [.s1]
  | .bvmask o => legalA k o (threadDest k o.d) (o.x.toNat < 2) noSrc noSrc noSrc true []
  | .mma o => legalA k o (o.d.toNat % 128 = 0) True (plainSrc k) (plainSrc k) (plainSrc k) false [.s1, .s2, .s3]
  | .mmas o => legalA k o (o.d.toNat % 128 < 16) True (plainSrc k) (plainSrc k) (plainSrc k) false [.s1, .s2, .s3]
  | .mzero o | .mdrain o => legalA k o (o.d = 0) (o.x = 0) (plainSrc k) noSrc noSrc false [.s1]
  | .mldm o => legalA k o (o.d.toNat < 16) (o.x = 0) (plainSrc k) noSrc noSrc false [.s1]
  | .mqnt o => legalA k o (o.d = 0) True (plainSrc k) (plainSrc k) (plainSrc k) false [.s1, .s2, .s3]
  | .mchk o => legalA k o (threadDest k o.d) (o.x.toNat < 7) noSrc noSrc noSrc false []
  | .mscl o => legalA k o (o.d = 0) (o.x = 0) (plainSrc k) (plainSrc k) noSrc false [.s1, .s2]
  | .trap o | .sysc o => o.d = 0 ∧ o.s1 = .reg 0
  | .rplx o => legalA k o (threadDest k o.d) (o.x = 0) (plainSrc k) (litSrc (· < 16)) noSrc true [.s1, .s2]
  | .rplw o => legalA k o (threadDest k o.d) (o.x = 0) (plainSrc k) (litSrc (fun n => n = 4 ∨ 6 ≤ n ∧ n < 16)) (plainSrc k)
    true [.s1, .s2, .s3]
  | .rpld o => legalA k o (o.d = 0) (o.x = 0) (plainSrc k) noSrc noSrc false [.s1]
  | .xrd o => legalA k o (threadDest k o.d) (o.x.toNat < 2 ∧ (k = .quartz → o.x.toNat = 0))
    (litSrc (fun n => n < 6 ∧ (o.x.toNat = 1 → n = 0 ∨ n = 2 ∨ n = 3))) noSrc noSrc true [.s1]
  | .xwr o => legalA k o (threadDest k o.d) (o.x.toNat < 2 ∧ (k = .quartz → o.x.toNat = 0)) (litSrc (· = 0)) (plainSrc k)
    noSrc true [.s1, .s2]
  | .rinit o => legalA k o (o.d = 0) (o.x.toNat < 2) (litSrc (· < 16)) (plainSrc k) (plainSrc k) false [.s1, .s2, .s3]
  | .rgrab o => legalA k o (o.d.toNat % 2 = 0) (o.x = 0) (litSrc (· < 16)) noSrc noSrc false [.s1]
  | .lnch o => legalA k o (o.d = 0) (o.x = 0) (wordSrc k) (plainSrc k) noSrc false (keep64 k [.s1] ++ keepWide k o.s2 .s2)
  | .cntw o => legalA k o (o.d = 0) (o.x.toNat < 2) (wordSrc k)
    (fun s => (o.x.toNat = 1 → noSrc s) ∧ (o.x.toNat = 0 → plainSrc k s)) noSrc false
    (keep64 k [.s1] ++ (if o.x.toNat = 1 then [] else keepWide k o.s2 .s2))
  | .cncl o => legalA k o (o.d = 0) (o.x = 0) (wordSrc k) noSrc noSrc false (keep64 k [.s1])
  | .dlread o => legalA k o (threadDest k o.d) (o.x.toNat < 4) (wordSrc k) noSrc noSrc false (keep64 k [.s1])
  | .idem o => legalA k o (o.d = 0) (o.x.toNat < 2) noSrc noSrc noSrc false []
  | _ => True

-- Memory.

/-- Every set of every L2 has room for `n` more lines (R227). -/
def L2Room (s : State) (n : Nat) : Prop := ∀ d line, (setLines (s.die d) line).length + n < 8192

/-- No request is on its way, what a fence waits for was sent earlier, every die has applied every performed write, no sector is
update-only, every host-homed line lies in host memory alone, and every L1 and L2 has room for the lines of one word. -/
structure Settled (s : State) : Prop where
  sent : s.sent = []
  views : s.performed = []
  merged : ∀ sec, (dirOf s sec).st ≠ .u
  host : ∀ pa, homeOf s pa = 4 → (dirOf s (secOf pa)).st = .i
  fences : ∀ n u th, s.unit? n = some u → ∀ id ∈ (u.thread th).fence, id < s.nextSeq
  l1 : ∀ k, (l1Lines s k).length + 32 ≤ 1024
  room : L2Room s 64

/-- The data of the byte's sector stand under the key of the access's slot; host memory is not encrypted (R346). -/
def Keyed (s : State) (pa key : Nat) : Prop :=
  isHost (64 * secOf pa) = true ∨ ∃ k, NatMap.get none s.keys key = some k ∧ NatMap.get .boot s.secKey (secOf pa) = k

/-- The TLB of holder `h` holds an entry of the function for the address that allows the access (R231, R232), and `tr` is what it
translates to. -/
def InTlb (s : State) (h f : Nat) (want : Want) (va : Nat) (tr : Trans) : Prop :=
  ∃ e, (NatMap.get [] s.tlbs h).find? (fun e => e.func == f && decide (e.vpn ≤ va / 4096) &&
      decide (va / 4096 < e.vpn + e.pages) && e.allows want) = some e ∧
    tr = ⟨e.ppn * 4096 + (va - e.vpn * 4096), e.key, e.unc⟩

/-- The accesses `a` of a word of core `h`, by lane and address: each is translated by an entry that the core's TLB holds, meets
no error response, lies in one sector, and has its sector under its key. -/
structure Reached (s : State) (h f : Nat) (want : Want) (a : List (Nat × Nat)) (n : Nat) (l : List LaneT) : Prop where
  lanes : l.map (fun x => (x.lane, x.va)) = a
  found : ∀ x ∈ l, InTlb s h f want x.va x.t
  fine : ∀ x ∈ l, accErr s x.t.pa x.t.key = none
  whole : ∀ x ∈ l, x.t.pa % 64 + n ≤ 64
  keyed : ∀ x ∈ l, Keyed s x.t.pa x.t.key
  sound : ∀ x ∈ l, (∀ c, l1Copy s h (secOf x.t.pa) = some c → c.bad = false) ∧
    (s.die (dieOfCore h)).bad.contains (secOf x.t.pa) = false

/-- No word of data with an uncorrectable error lies in the `n` bytes at `a` of X, W or Y (R355, R356). -/
def SoundAt (bad : List Nat) (a n : Nat) : Prop := ∀ w ∈ bad, overlaps (4 * w) 4 a n = false

/-- The access of a format M word over its array register passes R109 and does not trap on bounds (R110). -/
structure Admitted (s : State) (u : Unit_) (o : MOps) (c : Cap) (spaces : List Nat) (n : Option Nat) : Prop where
  array : arrayBad (u.aregAt s.clock o.ar.toNat) spaces n = false
  bounds : (accessOf (u.aregAt s.clock o.ar.toNat) o c).masked = [] ∨ (u.aregAt s.clock o.ar.toNat).act = false
  lanes : c.active.length ≤ 32

/-- The lanes that access, each with its element's address (R109), and the masked lanes (R110). -/
def accesses (s : State) (u : Unit_) (o : MOps) (c : Cap) : List (Nat × Nat) := (accessOf (u.aregAt s.clock o.ar.toNat) o c).lanes
def masked (s : State) (u : Unit_) (o : MOps) (c : Cap) : List Nat := (accessOf (u.aregAt s.clock o.ar.toNat) o c).masked

/-- The bytes that a thread of the core sees (R241): a relaxed read of a cached page may see the core's L1 copy; a die that
holds the sector as a visitor sees its view; every other read sees the home. -/
def visible (s : State) (core : Nat) (o : Order) (t : Trans) (n : Nat) : List Byte :=
  let d := dieOfCore core
  match (if t.unc = false ∧ o = .rlx then l1Copy s core (secOf t.pa) else none) with
  | some c => (c.data.drop (t.pa % 64)).take n
  | none =>
    if t.unc = false ∧ homeOf s t.pa ≠ d ∧ holds s d (secOf t.pa) = true then NatMap.getRange 0 (s.die d).view t.pa n
    else homeBytes s t.pa n

/-- Bytes of an access by SZ (R35). -/
def width (sz : BitVec 3) : Nat := [1, 1, 2, 2, 4, 8, 16].getD sz.toNat 0

/-- Register `j` of a loaded element (R113). -/
def loadReg (sz : BitVec 3) (b : List Byte) (j : Nat) : Word :=
  let v (n : Nat) : BitVec (8 * n) := BitVec.ofNat (8 * n) (leNat ((b.drop (4 * j)).take n))
  [(v 1).setWidth 32, (v 1).signExtend 32, (v 2).setWidth 32, (v 2).signExtend 32].getD sz.toNat ((v 4).setWidth 32)

/-- Registers of a loaded value (R35, R113). -/
def loadRegs (sz : BitVec 3) : Nat := if sz = 5 then 2 else if sz = 6 then 4 else 1

/-- The writes of a load to a lane's registers from `d` on; none of bytes is a masked lane, which receives 0 (R110). -/
def loaded (d n : Nat) (val : Nat → Word) (b : Bool) : List (Nat × Word) :=
  (List.range n).map (fun j => (d + j, if b then val j else 0))

/-- As ThreadRegs, and the masked lanes' threads get their bounds flag; `clears` says that the word clears the region marks
of present threads (R186). -/
structure MemThreads (s : State) (c : Cap) (u u' : Unit_) (wr : Nat → List (Nat × Word)) (oob : List Nat) (clears : Bool) :
    Prop where
  written : ∀ m ∈ c.active, soleLane s c m → ∀ p ∈ wr m, (u'.thread (laneThread s c.agent m)).reg p.1 = p.2
  kept : ∀ th n, (∀ m ∈ c.active, laneThread s c.agent m = th → n ∉ (wr m).map Prod.fst) →
    (u'.thread th).reg n = (u.thread th).reg n
  flags : ∀ th, (u'.thread th).bounds = true ↔
    (u.thread th).bounds = true ∨ ∃ m ∈ oob, laneThread s c.agent m = th
  others : ∀ th, (u'.thread th).p = (u.thread th).p ∧ (u'.thread th).exited = (u.thread th).exited ∧
    (u'.thread th).mark = if clears = true ∧ ∃ m ∈ c.present, laneThread s c.agent m = th then none else (u.thread th).mark

/-- Registers of other units and agents, X of the other cores, W and Y are as before. -/
structure MemLocal (s t : State) (k sl core uid : Nat) : Prop where
  units : ∀ n, n ≠ uid → t.unit? n = s.unit? n
  groups : ∀ n, n ≠ 32 * k + sl → NatMap.get none t.groups n = NatMap.get none s.groups n
  ctxs : t.ctxs = s.ctxs
  xs : ∀ n, n ≠ core → (t.core n).x = (s.core n).x
  wy : ∀ n, (t.cluster n).w = (s.cluster n).w ∧ (t.cluster n).y = (s.cluster n).y

/-- A format M word of the group: its front, its unit but for the threads and what `mod` says, its threads. -/
structure MemWord (s t : State) (k sl : Nat) (fr : Front) (c : Cap) (g : Group) (u : Unit_) (mod : Unit_ → Unit_)
    (wr : Nat → List (Nat × Word)) (oob : List Nat) (clears : Bool) : Prop where
  frame : MemLocal s t k sl u.core g.uid
  group : ∃ g', t.group? k sl = some g' ∧ { g' with iv := g.iv } = { g with front := frontAfter fr c }
  unit : ∃ u', t.unit? g.uid = some u' ∧ { u' with threads := u.threads } = unitAfter (mod u) c ∧
    MemThreads s c u u' wr oob clears

/-- The bytes that a lane stores (R113): the low bytes of its registers. -/
def storeData (sz : BitVec 3) (c : Cap) (m : Nat) : List Byte :=
  ((leBytes 4 (c.datum m 0).toNat) ++ (leBytes 4 (c.datum m 1).toNat) ++ (leBytes 4 (c.datum m 2).toNat)
    ++ (leBytes 4 (c.datum m 3).toNat)).take (width sz)

/-- Byte `a` after stores in order, the later over the earlier. -/
def storesAt (l : List (Nat × List Byte)) (old : Byte) (a : Nat) : Byte :=
  l.foldl (fun v p => if p.1 ≤ a ∧ a < p.1 + p.2.length then p.2.getD (a - p.1) 0 else v) old

/-- Read-modify-writes in lane order over bytes (R117): each lane's old value, and the bytes after. -/
def rmwRun (n : Nat) (fn : DWord → DWord → DWord → Option DWord) :
    List (Nat × Nat × DWord × DWord) → (Nat → Byte) → List (Nat × DWord) × (Nat → Byte)
  | [], m => ([], m)
  | (lane, a, v, b) :: r, m =>
    let old : DWord := BitVec.ofNat 64 (leNat ((List.range n).map (fun i => m (a + i))))
    let m1 : Nat → Byte := match fn old v b with
      | some w => fun x => if a ≤ x ∧ x < a + n then (leBytes n w.toNat).getD (x - a) 0 else m x
      | none => m
    ((lane, old) :: (rmwRun n fn r m1).1, (rmwRun n fn r m1).2)

/-- A new value of an atomic over w bits (R119); `signed` is the type's order. -/
def newValue (w : Nat) (op : Nat) (signed : Bool) (old v b : BitVec w) : BitVec w :=
  let less := if signed then v.slt old else v.ult old
  [old + v, old &&& v, old ||| v, old ^^^ v, if less then v else old, if less then old else v, v,
    if v ≤ old then 0 else old + 1, if old = 0 ∨ v < old then v else old - 1,
    if old ≤ b ∧ v ≤ b - old then old + v else old].getD op 0

/-- Width of an atomic's element in bits, and its order, from SZ (R35, R118). -/
def rmwWidth (sz : BitVec 3) : Nat := if sz = 1 ∨ sz = 3 then 64 else 32
def newOf (op : Nat) (sz : BitVec 3) (old v b : DWord) : Option DWord :=
  some ((newValue (rmwWidth sz) op (sz = 0 ∨ sz = 1) (old.setWidth _) (v.setWidth _) (b.setWidth _)).setWidth 64)

/-- Operands of each returning atomic, and its new value (R119 to R121). -/
def atomicOf : Instr → Option (MOps × (DWord → DWord → DWord → Option DWord))
  | .atomAdd o => some (o, newOf 0 o.sz)
  | .atomAnd o => some (o, newOf 1 o.sz)
  | .atomOr o => some (o, newOf 2 o.sz)
  | .atomXor o => some (o, newOf 3 o.sz)
  | .atomMin o => some (o, newOf 4 o.sz)
  | .atomMax o => some (o, newOf 5 o.sz)
  | .atomExch o => some (o, newOf 6 o.sz)
  | .atomIncw o => some (o, newOf 7 o.sz)
  | .atomDecw o => some (o, newOf 8 o.sz)
  | .atomAddb o => some (o, newOf 9 o.sz)
  | .atomfAdd o => some (o, fun old v _ => some (BitVec.ofNat 64 (faddP fp32 .rne old.toNat v.toNat)))
  | .atomfMin o => some (o, fun old v _ => some (BitVec.ofNat 64 (fminmax fp32 false old.toNat v.toNat)))
  | .atomfMax o => some (o, fun old v _ => some (BitVec.ofNat 64 (fminmax fp32 true old.toNat v.toNat)))
  | .cas o => some (o, fun old v b => if old = v then some b else none)
  | _ => none

/-- The reductions with their operations (R122), and the updates with their tags (R123). -/
def reductionOf : Instr → Option (MOps × Nat)
  | .redAdd o => some (o, 0)
  | .redAnd o => some (o, 1)
  | .redOr o => some (o, 2)
  | .redXor o => some (o, 3)
  | .redMin o => some (o, 4)
  | .redMax o => some (o, 5)
  | _ => none
def updateOf : Instr → Option (MOps × Nat)
  | .updAddI32 o => some (o, 0)
  | .updAddI64 o => some (o, 1)
  | .updAddF32 o => some (o, 2)
  | .updMinI32 o => some (o, 3)
  | .updMaxI32 o => some (o, 4)
  | .updMinN32 o => some (o, 5)
  | .updMaxN32 o => some (o, 6)
  | .updMinF32 o => some (o, 7)
  | .updMaxF32 o => some (o, 8)
  | .updOrB32 o => some (o, 9)
  | .updXorB32 o => some (o, 10)
  | .updAndB32 o => some (o, 11)
  | _ => none

/-- First and second operand of an atomic's lane (R117). -/
def operand (sz : BitVec 3) (c : Cap) (m n : Nat) : DWord :=
  if rmwWidth sz = 64 then c.datum m (2 * n) ||| (c.datum m (2 * n + 1) <<< 32) else c.datum m n

/-- Registers `d`, and `d + 1` for 8 bytes, of an old value. -/
def oldRegs (d : Nat) (sz : BitVec 3) (v : DWord) : List (Nat × Word) :=
  (d, v.setWidth 32) :: (if rmwWidth sz = 64 then [(d + 1, (v >>> 32).setWidth 32)] else [])

/-- The request that a lane of the group in slot `sl` sends toward its element's home (R238), with the footprint of its word
(R215). -/
def request (s : State) (c : Cap) (sl : Nat) (g : Group) (u : Unit_) (fr : Front) (o : MOps) (i : Nat) (x : LaneT)
    (kind : SentKind) : Sent :=
  { id := s.nextSeq + i, by_ := .thread g.uid (laneThread s c.agent x.lane), func := u.func, die := dieOfCore u.core,
    core := u.core, quad := sl / 8, pa := x.t.pa, va := x.va, key := x.t.key, wordPc := fr.pc.toNat, word := c.seq,
    foot := (accessOf (u.aregAt s.clock o.ar.toNat) o c).foot, kind := kind, preds := [], after := [], through := false }

/-- Must the request of access `y` be performed before that of a later access `x` of the word: they name one element (R115,
R117), or are writes of one thread and the word is a release of that scope (R236, R244)? -/
def followsIn (s : State) (c : Cap) (u : Unit_) (o : MOps) (y x : LaneT) : Prop :=
  y.t.pa = x.t.pa ∨ (o.ord = .rel ∧ laneThread s c.agent y.lane = laneThread s c.agent x.lane ∧
    (4 ≤ o.scope.toNat ∨ homeOf s y.t.pa = dieOfCore u.core))

/-- The word's requests stand on their way, in lane order, each behind those of lower lanes that it follows. -/
def Sends (s t : State) (c : Cap) (sl : Nat) (g : Group) (u : Unit_) (fr : Front) (o : MOps) (xs : List LaneT)
    (kind : LaneT → SentKind) : Prop :=
  t.sent.length = xs.length ∧ ∀ i x, xs[i]? = some x → ∃ q, t.sent[i]? = some q ∧
    { q with after := [], through := false } = request s c sl g u fr o i x (kind x) ∧
    ∀ id, id ∈ q.after ↔ ∃ j y, j < i ∧ xs[j]? = some y ∧ id = s.nextSeq + j ∧ followsIn s c u o y x

-- Engines, seals, barriers, queues.

/-- The word has performed, `s1` is the state with its effect, and `u1` its unit there: then only the front moves on and
the ended run counts. -/
structure After (s1 t : State) (k sl : Nat) (fr : Front) (c : Cap) (g : Group) (u1 : Unit_) : Prop where
  rest : { t with units := s1.units, groups := s1.groups } = s1
  units : ∀ n, n ≠ g.uid → t.unit? n = s1.unit? n
  groups : ∀ n, n ≠ 32 * k + sl → NatMap.get none t.groups n = NatMap.get none s1.groups n
  group : t.group? k sl = some { g with front := frontAfter fr c }
  unit : t.unit? g.uid = some (unitAfter u1 c)

/-- The present threads of the group have parked on the word (R144): its slot is free, and `u1` is its unit before. -/
structure Parks (s1 t : State) (k sl : Nat) (fr : Front) (c : Cap) (g : Group) (u1 : Unit_) (on : ParkOn) : Prop where
  rest : { t with units := s1.units, groups := s1.groups, nextSeq := s1.nextSeq } = s1
  units : ∀ n, n ≠ g.uid → t.unit? n = s1.unit? n
  groups : ∀ n, n ≠ 32 * k + sl → NatMap.get none t.groups n = NatMap.get none s1.groups n
  group : t.group? k sl = none
  unit : t.unit? g.uid = some { u1 with
    runs := u1.runs + 1, parked := u1.parked ++ [⟨g.members.map Prod.snd, g.iv, fr.pc, on, s1.nextSeq⟩] }

/-- The threads' fences have been waited for, with nothing on its way (R236, R244): only what the fences of the unit's threads hold
has gone, and with a fence of system scope host memory behind the homes has been written; with none nothing differs. -/
structure Unfenced (s s1 : State) (uid : Nat) (u u1 : Unit_) (ts : List Nat) : Prop where
  rest : { s1 with units := s.units, mem := s.mem, dir := s.dir } = s
  bytes : ∀ a, homeByte s1 a = homeByte s a
  units : ∀ n, n ≠ uid → s1.unit? n = s.unit? n
  unit : s1.unit? uid = some u1 ∧ { u1 with threads := u.threads } = u
  threads : ∀ th, { u1.thread th with fence := (u.thread th).fence, fenceSys := (u.thread th).fenceSys } = u.thread th
  same : (∀ th ∈ ts, (u.thread th).fenceSys = false) → s1 = s

/-- The kind of engine operation that a word starts (R128). -/
def engineOf : Instr → Option (AOps × OpKind)
  | .cpy o => some (o, .cpy)
  | .cpym o => some (o, .cpym (litField o.s3))
  | .cpyw o => some (o, .cpyw)
  | .cpyf o => some (o, .cpyf o.x.toNat)
  | .bgath o => some (o, .bgath)
  | .bscat o => some (o, .bscat)
  | _ => none

/-- One reference more on each entry that the range touches (R132). -/
def referred (l : List SealEntry) (a len : Nat) : List SealEntry :=
  l.map (fun e => if overlaps e.start e.len a len then { e with refs := e.refs + 1 } else e)

/-- All present lanes hold the operand `v`. -/
def Uniform (c : Cap) (f : Nat → DWord) (v : DWord) : Prop := c.present ≠ [] ∧ ∀ m ∈ c.present, f m = v

/-- No write to [a, a + n) of a core's X touches a byte barrier or a queue header, or a seal-table entry. -/
def XPlain (s : State) (core a n : Nat) : Prop :=
  sealHit s (.x core) a n anySeal = false ∧ (∀ b ∈ (s.core core).barriers, overlaps b 16 a n = false) ∧
    ∀ b ∈ (s.cluster (core / 4)).queues, b.core = core → overlaps b.off 16 a n = false

/-- The same for the 16 bytes of a byte barrier, which may be known already (R136). -/
def BarrierPlain (s : State) (core a : Nat) : Prop :=
  sealHit s (.x core) a 16 anySeal = false ∧ (∀ b ∈ (s.core core).barriers, b ≠ a → overlaps b 16 a 16 = false) ∧
    ∀ b ∈ (s.cluster (core / 4)).queues, b.core = core → overlaps b.off 16 a 16 = false

/-- X of the core but for the listed writes, in order. -/
def XWrote (s t : State) (core : Nat) (l : List (Nat × List Byte)) : Prop :=
  ∀ a, NatMap.get 0 (t.core core).x a = storesAt l (NatMap.get 0 (s.core core).x a) a

/-- Nobody waits on the queue. -/
def NoWaiters (s : State) (f l cl q : Nat) : Prop :=
  waitersOf s f l cl (isPop q) = [] ∧ waitersOf s f l cl (isPush q) = []

/-- The queue object is whole (R138), bound to the core, and no barrier or seal touches it; the entries at HEAD and TAIL lie in a
reservation of its launch (R223). -/
structure QueueAt (s : State) (f l cl q : Nat) (b : QBind) : Prop where
  bound : queueOf s f l cl q = some b
  cap : 1 ≤ xWord s b.core (b.off + 12) ∧ xWord s b.core (b.off + 12) ≤ 256
  plain : sealHit s (.x b.core) b.off (16 + 8 * xWord s b.core (b.off + 12)) anySeal = false
  barriers : ∀ a ∈ (s.core b.core).barriers, overlaps a 16 b.off (16 + 8 * xWord s b.core (b.off + 12)) = false
  alone : NoWaiters s f l cl q
  inX : b.kept = none
  head : qReach s b (xWord s b.core b.off % xWord s b.core (b.off + 12)) = true
  tail : qReach s b (xWord s b.core (b.off + 4) % xWord s b.core (b.off + 12)) = true

/-- The value that a pop takes (R140). -/
def popped (s : State) (b : QBind) : DWord :=
  let at_ := b.off + 16 + 8 * (xWord s b.core b.off % xWord s b.core (b.off + 12))
  BitVec.ofNat 64 (leNat (NatMap.getRange 0 (s.core b.core).x at_ 8))

/-- The registers that a pop writes (R140). -/
def popRegs (o : AOps) (v : DWord) : List (Nat × Word) :=
  (o.d.toNat, v.setWidth 32) :: (if o.x = 1 then [(o.d.toNat + 1, (v >>> 32).setWidth 32)] else [])

-- The matrix path.

/-- The cluster's posted-operation table takes one more entry of the context, and the context's budget covers it (R155,
R157). -/
structure Postable (s : State) (cl x : Nat) (q : Ctx) (cost : Nat) : Prop where
  room : (s.cluster cl).table.length < 32
  own : ((s.cluster cl).table.filter (fun m => m.ctx == x)).length < 16
  budget : cost ≤ q.ebud.toNat

/-- The operation is posted with operands `o1` to `o3`: it stands last in the table under the context's next number, holds
references on what it reads, and has taken its cost from the budget; `put` is what else the word does. -/
def PostedOp (s t : State) (cl x : Nat) (fr : Front) (c : Cap) (q : Ctx) (cost : Nat) (o1 o2 o3 : DWord)
    (refs : List ReadRange) (put : State → State) : Prop :=
  let m : MatOp :=
    ⟨x, q.func, q.launch, c.word, o1, o2, o3, q.sca, q.scb, s.clock, q.tl.i + 1, q.prio.toNat, false, false⟩
  let s1 := put (takeRefs (s.modCluster cl (fun y => { y with table := y.table ++ [m] })) refs (· + 1))
  { t with ctxs := s.ctxs } = { s1 with ctxs := s.ctxs } ∧
    (∀ n, n ≠ 8 * cl + x → NatMap.get none t.ctxs n = NatMap.get none s.ctxs n) ∧
    t.ctx? cl x = some { q with
      ebud := q.ebud - BitVec.ofNat 32 cost, tl := { q.tl with i := q.tl.i + 1 }, front := frontAfter fr c }

/-- The operand checks of a pass (R151 to R153, R158, R159, R170), with scale mode none in both slots: `xa` is where A
begins in its core's X. -/
structure PassOk (s : State) (cl : Nat) (q : Ctx) (rc : LaunchRec) (sparse : Bool) (o : AOps) (v1 v2 v3 : DWord) (xa : Nat) :
    Prop where
  aWord : (xHandle v1).mbz = 0 ∧ (xHandle v1).pitch ≠ 0 ∧ (xHandle v1).xoff % 16 = 0
  aRow : packedBytes (slotWidth (slotFormat (slotOf rc o.x.toNat))) (bWord v2).k ≤ 16 * (xHandle v1).pitch
  aPlace : xPlace s cl q (xHandle v1).core (xHandle v1).xoff (16 * (xHandle v1).pitch * (xHandle v1).rows +
    packedBytes (slotWidth (slotFormat (slotOf rc o.x.toNat))) (bWord v2).k) = some xa
  bTile : (bWord v2).mbz = 0 ∧ (bWord v2).woff % 256 = 0
  bShape : if sparse then (bWord v2).spn ≤ (bWord v2).spm ∧ (bWord v2).k % (bWord v2).spm = 0 else bits v2 40 7 = 0
  yRows : yFits (yHandle v3) ((xHandle v1).rows + 1) = true ∧ (yHandle v3).int = false ∧ (yHandle v3).ncol = 0 ∧
    (yHandle v3).rows = 0
  family : isIntFmt (slotFormat (slotOf rc o.x.toNat)) = isIntFmt (slotFormat (slotOf rc (bWord v2).slot))
  aSeal : coveredFill (sealsOf s (.x (4 * cl + (xHandle v1).core))) 33 xa (16 * (xHandle v1).pitch * (xHandle v1).rows +
    packedBytes (slotWidth (slotFormat (slotOf rc o.x.toNat))) (bWord v2).k) = true
  bSeal : (entryAt s (.w cl) (bWord v2).woff true).isSome = true
  ySeal : sealHit s (.y cl) (yHandle v3).yoff (512 * ((xHandle v1).rows + 1)) anySeal = false
  scales : slotScale (slotOf rc o.x.toNat) = 0 ∧ slotScale (slotOf rc (bWord v2).slot) = 0

/-- What a pass reads: A in X and B in W (R155, R267, R268). -/
def passReads (cl : Nat) (rc : LaunchRec) (sparse : Bool) (o : AOps) (v1 v2 : DWord) (xa : Nat) : List ReadRange :=
  let b := bWord v2
  [(.x (4 * cl + (xHandle v1).core), xa, 16 * (xHandle v1).pitch * (xHandle v1).rows +
      packedBytes (slotWidth (slotFormat (slotOf rc o.x.toNat))) b.k),
   (.w cl, b.woff, b.n * colStride (slotWidth (slotFormat (slotOf rc b.slot))) b.k (if sparse then some (b.spn, b.spm) else none))]

/-- The exact integer dot product of row `i` of A and column `j` of B (R160, R162). -/
def intDot (s : State) (cl : Nat) (m : MatOp) (i j : Nat) : Int :=
  ((List.range (bWord m.o2).k).map (fun k => intElem (slotFormat (m.slots s).1) (aElem s cl m i k) *
    (match bElem s cl m k j with
     | some p => intElem (slotFormat (m.slots s).2) p
     | none => 0))).sum

/-- The group size of a format (R274). -/
def groupSize (fmt : Nat) : Nat := [4, 16, 16, 16, 32, 32, 32].getD fmt 64

/-- The exact value of an element of a floating format (R262, R263). -/
def elemSpec (fmt p : Nat) : FVal :=
  let eighths (v : Int) : FVal := if v = 0 then .fin false 0 0 else .fin (decide (v < 0)) v.natAbs (-3)
  if fmt ≤ 7 then decodeF (fmtSpec fmt) (if fmt = 1 then p / 2 ^ 13 else if fmt = 6 then p % 2 ^ 6 else p)
  else if fmt = 10 then eighths (termOf (p / 16) + termOf p)
  else eighths (termOf p)

/-- The scales of row `i` of A and of column `j` of B in the group that begins at `k` (R165, R272). -/
def scalesAt (s : State) (cl : Nat) (m : MatOp) (i j k : Nat) : FVal × FVal :=
  let h := xHandle m.sca
  (scaleVal (slotScale (m.slots s).1) (NatMap.get 0 (s.core (4 * cl + h.core)).x) (opBase s cl m h.core + h.xoff) i k,
   scaleVal (slotScale (m.slots s).2) (NatMap.get 0 (s.cluster cl).w) (bits m.scb 0 22).toNat j k)

/-- What a floating pass leaves in accumulator (i, j), from `start` (R160, R275): for each group the exact sum of the products,
scaled and rounded once, is added. -/
def floatPass (s : State) (cl : Nat) (m : MatOp) (i j start : Nat) : Nat :=
  let fa := slotFormat (m.slots s).1
  let fb := slotFormat (m.slots s).2
  let n := (bWord m.o2).k
  let g := min (groupSize fa) (groupSize fb)
  (List.range ((n + g - 1) / g)).foldl (fun acc q =>
    let ks := (List.range (min g (n - q * g))).map (fun r => q * g + r)
    let ps := ks.map (fun k => FVal.mul (elemSpec fa (aElem s cl m i k)) (match bElem s cl m k j with
      | some p => elemSpec fb p
      | none => .fin false 0 0))
    let sum := ps.tail.foldl (FVal.add .rne) (ps.headD (.fin false 0 0))
    faddP fp32 .rne acc (roundTo fp32 .rne (FVal.mul (FVal.mul sum (scalesAt s cl m i j (q * g)).1) (scalesAt s cl m i j (q * g)).2)))
    start

/-- The bytes of row `i` that MQNT writes (R164): where they begin in the core's X, and how many they are. -/
def quantRow (s : State) (cl : Nat) (m : MatOp) (i : Nat) : Nat × Nat :=
  let a := xHandle m.o1
  (opBase s cl m a.core + a.xoff + 16 * a.pitch * i, (widthOf (fmtOf (m.slots s).1) * ((yHandle m.o2).ncol + 1) + 7) / 8)

/-- The element that MQNT makes of Y(i, j) (R164). -/
def quantElem (s : State) (cl : Nat) (m : MatOp) (i j : Nat) : Nat :=
  let e := yElem s cl (yHandle m.o2).yoff i j
  let v := if (yHandle m.o2).int then roundTo fp32 .rne (.ofInt (BitVec.ofNat 32 e).toInt) else e
  cvtsSpec (m.slots s).1 (fmulP fp32 .rne v m.o3.toNat)

/-- The operation that the arbiter chooses is granted without a failure (R156, R167), and no word that it reads has an
uncorrectable error (R356). -/
structure Grants (s : State) (cl : Nat) (m : MatOp) : Prop where
  chosen : choose s cl = some m
  fine : grantCause (modMat s cl m (fun x => { x with granted := true })) cl m = none
  sound : readsBad (modMat s cl m (fun x => { x with granted := true })) cl m = false
  quiet : Reported s

-- Homes.

/-- The byte's home is a die of the package, or the host in whose memory it stands alone. -/
def Local (s : State) (pa : Nat) : Prop :=
  homeOf s pa < 4 ∨ (homeOf s pa = 4 ∧ (dirOf s (secOf pa)).st = .i)

/-- The request `q` is on its way and may be performed next at its home, on a die or the host: it meets no error response, its
data stand under its key, no merge is due, no set of an L2 is full, and no two requests bear one number. -/
structure Performs (s : State) (q : Sent) : Prop where
  quiet : Reported s
  found : s.sent.find? (fun r => r.id == q.id) = some q
  ready : sentReady s q = true
  fine : accErr s q.pa q.key = none
  home : Local s q.pa
  keyed : Keyed s q.pa q.key
  merged : (dirOf s (secOf q.pa)).st = .u → ∃ core, q.kind = .register (dirOf s (secOf q.pa)).tag core
  room : L2Room s 0
  ids : (s.sent.map (·.id)).Nodup

/-- A request without what it waits for. -/
def bareSent (q : Sent) : Sent := { q with preds := [], after := [], through := false }

/-- The request has left; no other is gone, and none waits for it any longer (R236). -/
def SentGone (s t : State) (id : Nat) : Prop :=
  t.sent.map bareSent = (s.sent.filter (fun r => r.id != id)).map bareSent ∧ ∀ r ∈ t.sent, id ∉ r.after

/-- No partial of the sector holds an error. -/
def SoundParts (s : State) (sec : Nat) : Prop :=
  (∀ c p, partialOf s c sec = some p → p.bad = false) ∧
  ∀ d x p, collectorOf s d sec = some x → x.part = some p → p.bad = false

/-- Does no other core of core `k`'s cluster hold a partial of the sector (R287)? -/
def alone (s : State) (k sec : Nat) : Bool :=
  (List.range 4).all (fun i => 4 * (k / 4) + i == k || (partialOf s (4 * (k / 4) + i) sec).isNone)

/-- No request waits to write host memory through. -/
def NoThrough (s : State) : Prop := ∀ r ∈ s.sent, r.through = false

/-- The state in which a wake write acts (R300): of a collapse under way, once the step in progress has ended: the merge of the
function's partials, or the save of the next cluster's image. -/
def wakesFrom (s : State) (f : Nat) : State :=
  match (s.func f).wake with
  | .collapsing =>
    if (s.func f).merging = true then
      mergeFunction (s.modFunc f (fun x => { x with merging := false })) f (fun cl => (lastServedBy s f).contains cl)
    else match collapseLeft s f with
      | cl :: _ => collapseCluster s f cl
      | [] => s
  | _ => s

/-- A wake write of a function has acted (R300, R350): a collapse, finished or under way, turns into a waking, and the power of
clusters, dies and channels follows (R349); any other function state ignores it. -/
def Woken (s t : State) (f : Nat) : Prop :=
  let s1 := wakesFrom s f
  ((s.func f).wake ≠ .collapsing → (s.func f).wake ≠ .collapsed → t = s) ∧
  ((s.func f).wake = .collapsing ∨ (s.func f).wake = .collapsed → (s1.func f).torn = false → Reported s1 → s1.sent = [] →
    (∀ sec, (dirOf s1 sec).st ≠ .u) →
    { t with funcs := s.funcs, clusters := s.clusters, dies := s.dies, selfRefresh := s.selfRefresh }
      = { s1 with funcs := s.funcs, clusters := s.clusters, dies := s.dies, selfRefresh := s.selfRefresh } ∧
    (∀ g, g ≠ f → t.func g = s1.func g) ∧ t.func f = { s1.func f with wake := .waking, wakeAt := s.clock } ∧
    ∀ cl, cl < 64 → (t.cluster cl).gate = gateOf t cl)

-- Engines at work.

/-- The TLB of the cluster that core `core` is of, which its copy engine looks up first (R231), holds a translation of the address
that allows the access, and the frame meets no error response. -/
def Hits (s : State) (core f : Nat) (want : Want) (va : Nat) (tr : Trans) : Prop :=
  InTlb s (320 + core / 4) f want va tr ∧ accErr s tr.pa tr.key = none ∧ Keyed s tr.pa tr.key ∧
    (s.die (dieOfCore core)).bad.contains (secOf tr.pa) = false

/-- The operation holds a translation of the address that allows the access, or finds it in its cluster's TLB (R231); the frame meets
no error response, and no copy of it that the die holds has an error. -/
def OpHits (s : State) (o : EngineOp) (want : Want) (va : Nat) (tr : Trans) : Prop :=
  (∃ e ∈ o.pins ++ NatMap.get [] s.tlbs (320 + o.core / 4), e.covers o.func va = true ∧ e.allows want = true ∧ tr = e.trans va) ∧
    accErr s tr.pa tr.key = none ∧ Keyed s tr.pa tr.key ∧ (s.die (dieOfCore o.core)).bad.contains (secOf tr.pa) = false

/-- Source and destination address of byte `x` of a copy (R130), and the word of its destination in which that lies: of 8 bytes in
global memory, else of 4 (R56, R130). -/
def srcByte (d : CopyDesc) (x : Nat) : Nat := d.src + x / d.rowBytes * d.spitch + x % d.rowBytes
def dstByte (d : CopyDesc) (x : Nat) : Nat := d.dst + x / d.rowBytes * d.dpitch + x % d.rowBytes
def wordOf (d : CopyDesc) (x : Nat) : Nat := dstByte d x / (if d.dspace = 0 then 8 else 4)

/-- The operation holds the translations of byte `x` (R231, R297). -/
def InPages (o : EngineOp) (d : CopyDesc) (x : Nat) : Prop :=
  (d.sspace = 0 → ∃ e ∈ o.pins, e.covers o.func (srcByte d x) = true) ∧
  (d.dspace = 0 → (∀ k, o.kind ≠ .cpyf k) → ∃ e ∈ o.pins, e.covers o.func (dstByte d x) = true ∧ e.w = true)

/-- The bytes that an engine of the die sees (R248): the die's view, or the home. -/
def engineSees (s : State) (d : Nat) (t : Trans) (n : Nat) : List Byte :=
  if t.unc = false ∧ homeOf s t.pa ≠ d ∧ holds s d (secOf t.pa) = true then NatMap.getRange 0 (s.die d).view t.pa n
  else homeBytes s t.pa n

/-- The `n` bytes that a copy reads from offset or address `a` of its source space (R127, R130). -/
def CopyReads (s : State) (u : Unit_) (o : EngineOp) (a n : Nat) (data : List Byte) : Prop :=
  ((descOf o.desc).sspace = 1 ∧ SoundAt (s.core u.core).badX (u.xoff + a) n ∧ data = readX s u n a) ∨
  ((descOf o.desc).sspace = 3 ∧ SoundAt (s.cluster (u.core / 4)).badY a n ∧ data = readY s u n a) ∨
  ((descOf o.desc).sspace = 0 ∧ a % 64 + n ≤ 64 ∧ ∃ tr, OpHits s o .read a tr ∧
    data = engineSees s (dieOfCore o.core) tr n)

/-- The operation is in flight for its unit, which is not contained; no fault stops it, no error has ended it, nothing of its own has
been overwritten, and an address has one translation among those that it holds and finds (R232). -/
structure Running (s : State) (op : Nat) (o : EngineOp) (u : Unit_) : Prop where
  quiet : Reported s
  found : opOf s op = some o
  unit : s.unit? o.uid = some u
  plain : u.contain = false ∧ u.buffer = []
  due : u.relaunchDue = false
  answered : o.waiting = none
  fine : o.err = false
  exact : o.sat = false
  apart : o.shadow = []
  agree : ∀ e ∈ o.pins ++ NatMap.get [] s.tlbs (320 + o.core / 4), ∀ e' ∈ o.pins ++ NatMap.get [] s.tlbs (320 + o.core / 4),
    ∀ va, e.covers o.func va = true → e'.covers o.func va = true → e.trans va = e'.trans va

/-- Byte `b` of the copy has landed at a destination core. -/
def landedAt (o : EngineOp) (core b : Nat) : Prop := ∃ p ∈ o.spans core, p.1 ≤ b ∧ b < p.2

/-- The bytes [b, b + n), and no others, have newly landed at a destination core. -/
def Landed (t : State) (op : Nat) (o : EngineOp) (core b n : Nat) : Prop :=
  ∃ o', opOf t op = some o' ∧ { o' with own := o.own, done := o.done, pins := o.pins } = o ∧
    (∀ k, k ≠ core → o'.spans k = o.spans k) ∧
    ∀ a, landedAt o' core a ↔ landedAt o core a ∨ (b ≤ a ∧ a < b + n)

/-- The operation has ended (R126): it has left the engines, its token holds its number and its error bit, and its timeline
has completed the number. -/
structure OpEnds (s t : State) (o : EngineOp) (u : Unit_) : Prop where
  gone : t.engineOps = s.engineOps.filter (fun p => p.id != o.id)
  unit : ∃ u', t.unit? o.uid = some u' ∧ u'.timeline o.tl = (u.timeline o.tl).complete o.num ∧
    u'.sreg o.token = BitVec.ofNat 64 (o.num % 2 ^ 63 + (if o.err = true ∨ o.sat = true then 2 ^ 63 else 0)) ∧
    (∀ n, n ≠ o.token → u'.sreg n = u.sreg n) ∧ { u' with s := u.s, tl := u.tl, tokens := u.tokens } = u
  others : ∀ n, n ≠ o.uid → t.unit? n = s.unit? n
  groups : t.groups = s.groups

/-- No set of the unit waits on a timeline. -/
def NoTwait (u : Unit_) : Prop := ∀ p ∈ u.parked, ∀ tl n, p.on ≠ .twait tl n

/-- R143: position `j` ranks before position `i`. -/
def ranksBefore (op : TopkOp) (j i : Nat) : Bool :=
  let key (n : Nat) : Int := (op.scores.map (scoreKey op.ty op.minDir)).getD n 0
  decide (key i < key j) || (key i == key j && decide (j < i))

/-- How many positions rank before `i`. -/
def rankAt (op : TopkOp) (i : Nat) : Nat := ((List.range op.scores.length).filter (fun j => ranksBefore op j i)).length

/-- Only the unit has changed, into `u'`. -/
def OnlyUnit (s t : State) (uid : Nat) (u' : Unit_) : Prop :=
  t.unit? uid = some u' ∧ (∀ n, n ≠ uid → t.unit? n = s.unit? n) ∧ { t with units := s.units } = s

-- The device's own accesses.

/-- `s'` has the same page tables' roots and rules, keys and poison marks as `s`, and the same bytes at home but for some; no sector
of it has partials. -/
structure Alike (s s' : State) (but : Nat → Prop) : Prop where
  bytes : ∀ a, ¬ but a → homeByte s' a = homeByte s a
  merged : ∀ sec, (dirOf s' sec).st ≠ .u
  roots : ∀ g, (s'.func g).s1root = (s.func g).s1root
  fcfg : s'.fcfg = s.fcfg
  parts : s'.parts = s.parts
  keys : s'.keys = s.keys ∧ s'.secKey = s.secKey
  poison : s'.poison = s.poison

/-- The page tables, none of whose bytes is among `but`, translate the address for the device itself, which walks each time
(R229, R372), without a choice; `tr` is what it translates to, at a home of the package, its sector under its key and without an error. -/
structure Maps (s : State) (f : Nat) (want : Want) (va : Nat) (tr : Trans) (but : Nat → Prop) : Prop where
  walk : ∀ s', Alike s s' but → translate s' [] f va want = (.ok tr, s')
  keyed : Keyed s tr.pa tr.key
  home : Local s tr.pa
  fine : accErr s tr.pa tr.key = none

/-- The `n` bytes from `pa` on. -/
def bytesAt (pa n : Nat) (a : Nat) : Prop := pa ≤ a ∧ a < pa + n

-- Commands.

/-- The entry `b` at address `e` is the next that the function's queue accepts, and its last; it stands read, which left `s1`;
its HANDLE and STATUS stand at `hp` and `sp`, no sector has partials, and no L2 is full. -/
structure AtHead (s s1 : State) (f e : Nat) (b : List Byte) (hp sp : Trans) : Prop where
  quiet : Reported s
  calm : Reported s1
  takes : accepts s f = true
  aligned : e % 64 = 0
  read : readHead s f = (some (e, b), s1)
  last : pendingEntries { s.func f with cqhead := ((s.func f).cqhead + 1) % 65536 } = 0
  handle : Maps s1 f .write (e + 8) hp (fun a => bytesAt hp.pa 8 a ∨ bytesAt sp.pa 4 a)
  status : Maps s1 f .write (e + 4) sp (fun a => bytesAt hp.pa 8 a ∨ bytesAt sp.pa 4 a)
  merged : ∀ sec, (dirOf s1 sec).st ≠ .u
  room : L2Room s1 4

/-- R305: HANDLE and then STATUS with ACC have been written, with DONE and the interrupt where it is set, and HEAD has
advanced; `v` is CODE and DETAIL. -/
def Answered (s1 t : State) (f : Nat) (hp sp : Trans) (h : DWord) (done irq : Bool) (v : Nat) : Prop :=
  (t.func f).cqhead = ((s1.func f).cqhead + 1) % 65536 ∧
  (∀ a, homeByte t a = storesAt [(hp.pa, leBytes 8 h.toNat),
    (sp.pa, leBytes 4 (v + 0x100 + (if done then 0x200 else 0)))] (homeByte s1 a) a) ∧
  t.irqs = s1.irqs ++ (if done && irq then [f] else [])

/-- The IRQ flag of an entry (R303). -/
def irqOf (b : List Byte) : Bool := fld b 1 1 % 2 == 1

/-- The commands by opcode (R304). -/
def commandsOf (f : Nat) : List (Instr × Nat) :=
  [(.job f, 1), (.phase f, 2), (.graph f, 3), (.close f, 4), (.cancel f, 5), (.wait f, 6), (.inval f, 7), (.ctxswSave f, 8),
   (.ctxswResume f, 8)]

/-- The object of a handle, which a command may still name (R305). -/
def OpenAt (s : State) (f : Nat) (h : DWord) (lv : Level) (i : Nat) (o : Obj) : Prop :=
  lookupHandle s f h = .live lv i o ∧ o.ended = false

-- Pre-emption.

/-- R326, rows 1, 2 and 4, for a unit that holds no region's mark: a unit with a group at an unanswered fault is saved at once,
one that has progressed drains for 20 µs, another is saved, with a deferral of 20 µs at most. A unit that drains is decided
anew, and its time ends when the first decision said. -/
def decided (s : State) (uid : Nat) (u : Unit_) : Unit_ :=
  let by_ := min (u.drain.getD (s.clock + 28000)) (s.clock + 28000)
  if (unitGroups s uid u.core).any (fun g => g.2.front.faulted) then
    { u with drain := none, saveBy := some s.clock, restarts := false, atFault := true }
  else if progressed s u then { u with drain := some by_ }
  else { u with drain := none, saveBy := some by_, restarts := false, atFault := false }

/-- The unit takes part in a pre-emption, is not to be saved yet, and its threads do not stand in one region (R186). -/
def Undecided (u : Unit_) : Prop :=
  u.relaunchDue = false ∧ u.saveBy = none ∧ restartMark u = none

/-- What package reset leaves before bring-up begins (R367, R368): every register and table at its reset value, host memory, the
persistent repair map and the rollback counter as they stood, and the model's own turns and counters. -/
def afterReset (s : State) : State :=
  { State.reset with
    agenda := s.agenda, fresh := s.fresh, mem := s.mem.filter (fun p => isHost p.1), repairMap := s.repairMap
    rollback := s.rollback, resets := s.resets + 1 }

/-- Bring-up (R367 to R370): firmware whose public key, signature, digest or version is refused leaves STATE 2 with ERR 1 to 4; a
step that fails leaves STATE 2 or 3 with its STEP and ERR; else every step is done, and slot 0 holds the boot key from step 4 on. -/
def broughtUp (s : State) (fw : Firmware) (b : BringUp) : State :=
  let r := afterReset s
  let run : State := { r with rollback := fw.version, firmware := fw.body, fwVersion := fw.version }
  let keyed : State := { run with keys := [(0, some .boot)] }
  let up : State := { keyed with boot := ⟨1, 7, 0, b.h1Coherent⟩ }
  if sha3 fw.key ≠ Config.fusedKeyHash then { r with boot := ⟨2, 0, 1, false⟩ }
  else if Config.mlDsaVerify fw.key (sha3 (headerBytes fw)) fw.signature = false then { r with boot := ⟨2, 0, 2, false⟩ }
  else if sha3 fw.body ≠ fw.digest then { r with boot := ⟨2, 0, 3, false⟩ }
  else if fw.version < s.rollback then { r with boot := ⟨2, 0, 4, false⟩ }
  else match b.failStep with
    | none => up
    | some (n, x) =>
      if n ≤ 1 then { r with boot := ⟨2, 0, x, false⟩ }
      else if n ≤ 4 then { run with boot := ⟨3, n - 1, x, false⟩ }
      else if n ≤ 7 then { keyed with boot := ⟨3, n - 1, x, decide (n = 7) && b.h1Coherent⟩ }
      else up
end Sys2Proof.Claims

open Sys2Proof.Claims

-- Integer words.

/-- R57, R60 to R65, R67: an integer word of a group writes its 32-bit result to register D of every active lane's thread,
and nothing else changes but the program counter, the run, D's interval when D is a k-register, and the L1 copies that the
read of a finished token drops (R126). -/
def Obligations.IntWordsWriteThreads : Prop :=
  ∀ i s k sl f l fr c g u, OnGroup i s k sl f l fr c g u → isIntA i = true ∨ isWideI i = true → sDestOf .vector i = false →
    ∃ t, exec i s = .next t ∧ WroteThreads i s t k sl fr c g u [dest i] (fun m => [(dest i, int32 i c m)])

/-- R57, R58, R60 to R65, R67: with x0 = 1 an integer word of a group computes 64-bit results, and where they are equal in every
active lane it writes them to the unit's s-register; with no lane active it writes nothing. A word of the same clock reads what
the s-register held before that clock, and a word of a later one what was written. On the Quartz core it writes its
64-bit result into an s-register of the context. -/
def Obligations.IntWordsWriteSRegisters : Prop :=
  (∀ i s k sl f l fr c g u, OnGroup i s k sl f l fr c g u → isIntA i = true → sDestOf .vector i = true →
    (c.active = [] → ∃ t, exec i s = .next t ∧ WroteUnit i s t k sl fr c g u u) ∧
    (∀ v, c.active ≠ [] → (∀ m ∈ c.active, int64V i c m = v) →
      ∃ t, exec i s = .next t ∧ WroteUnit i s t k sl fr c g u (u.putSreg s.clock (dest i) v))) ∧
  (∀ (u : Unit_) now d v n, (u.putSreg now d v).sregAt now n = u.sregAt now n ∧
    ∀ t, t ≠ now → (u.putSreg now d v).sregAt t n = if n = d then v else u.sreg n) ∧
  (∀ i s cl x f l fr c q, OnQuartz i s cl x f l fr c q → isIntA i = true ∨ isWideI i = true ∨ isMoviHi i = true →
    ∃ t, exec i s = .next t ∧ WroteCtx s t cl x fr c (q.setSreg (dest i) (int64Q i c)))

/-- R57, R67 to R70, R73 to R76, R107: KMOV, RDSPEC, KLO, KHI, SEL, LREAD, LSHFX, LBCAST, LSUM, LMAX, VOTE, LPREFIX and
AGET write the rule's result to register D of every active lane's thread, and nothing else but D's interval. AGET reads the array
register as it stood before this clock (R58, R105). That core k stands on die k / 64 is log entry 65, the model's numbering. -/
def Obligations.IndexAndLaneWordsWriteThreads : Prop :=
  ∀ i s k sl f l fr c g u (v : Nat → Word), OnGroup i s k sl f l fr c g u → isIndexWord i = true →
    (∀ m ∈ c.active, indexSpec s c g u (recOf s f l) i m = some (v m)) →
    ∃ t, exec i s = .next t ∧ WroteThreads i s t k sl fr c g u [dest i] (fun m => [(dest i, v m)])

/-- R91 to R93, R95, R96, R98 to R103: the floating-point words with a 32-bit result, by the tables of those rules. The results
of the approximations are free values of Config inside the bounds of R96 (log entries 17 and 18). CVTS to SP1 and SP2 takes the
model's choice, log entry 31, of the one code that stands for a value. -/
def Obligations.FloatWordsWriteThreads : Prop :=
  (∀ i s k sl f l fr c g u (v : Nat → Nat), OnGroup i s k sl f l fr c g u → isFloatWord i = true →
    (∀ m ∈ c.active, floatSpec c i m = some (v m)) →
    ∃ t, exec i s = .next t ∧ WroteThreads i s t k sl fr c g u [dest i] (fun m => [(dest i, BitVec.ofNat 32 (v m))])) ∧
  (∀ i s k sl f l fr c g u (v : Nat → Word), OnGroup i s k sl f l fr c g u → isSlotWord i = true →
    (∀ m ∈ c.active, slotSpec s c u (recOf s f l) i m = some (v m)) →
    ∃ t, exec i s = .next t ∧ WroteThreads i s t k sl fr c g u [dest i] (fun m => [(dest i, v m)]))

/-- R88, R92, R93, R100: the words with a 64-bit result write the pair D, D + 1, the low half first. -/
def Obligations.DoubleWordsWritePairs : Prop :=
  ∀ i s k sl f l fr c g u (v : Nat → Nat), OnGroup i s k sl f l fr c g u → isDoubleWord i = true →
    (∀ m ∈ c.active, doubleSpec c i m = some (v m)) →
    ∃ t, exec i s = .next t ∧ WroteThreads i s t k sl fr c g u [] (fun m =>
      [(dest i, BitVec.ofNat 32 (v m)), (dest i + 1, BitVec.ofNat 32 (v m / 2 ^ 32))])

/-- R71, R72, R94: compares and predicate logic write one predicate of every active lane's thread. -/
def Obligations.PredicateWordsWritePredicates : Prop :=
  ∀ i s k sl f l fr c g u (v : Nat → Bool), OnGroup i s k sl f l fr c g u → isPredWord i = true →
    (∀ m ∈ c.active, predSpec s c u i m = some (v m)) →
    ∃ t, exec i s = .next t ∧ WrotePreds i s t k sl fr c g u (dest i % 8) v

/-- R31, R37, R57, R58, R88: what a word's operands read. The present lanes are the group's, and the active ones those whose
thread the guard lets take part; each source reads, in every present lane, a thread register or pair, a literal in the form of its
position, a latch entry, a unit s-register as it stood before this clock, or a predicate; each data register of format M is
read; and σ of each source is R59's. R40, R42: the halves of a pair word both read before either writes, and each writes the
result of its single form; a NOP half writes nothing. Log entry 68 names the width of a literal beside a 64-bit operation. -/
def Obligations.PairWordReadsBeforeItWrites : Prop :=
  ((∀ i s k sl g u w fr c, s.group? k sl = some g → s.unit? g.uid = some u → NatMap.wf none g.lanes = true →
    capture s (.group k sl) i w fr = some c →
    c.present = g.members.map Prod.fst ∧
    (∀ m, m ∈ c.active ↔ ∃ th, (m, th) ∈ g.members ∧ guardLets i (u.thread th) = true) ∧
    (∀ n kd p, n < 3 → (sources i)[n]? = some (kd, p) → kd ≠ .none →
      ([c.i1, c.i2, c.i3].getD n .top = sigmaSpec g p) ∧ ∀ m th, (m, th) ∈ g.members →
        [c.a1 m, c.a2 m, c.a3 m].getD n 0 = operandSpec i (n + 1) kd u s.clock (u.thread th) fr.latch m p) ∧
    (∀ d o, i.desc = .m d o → ∀ m th j, (m, th) ∈ g.members → j < dataCount d o.sz →
      c.datum m j = ((u.thread th).reg (o.d.toNat + j)).setWidth 64)) ∧
  (∀ i s cl x q w fr c, s.ctx? cl x = some q → capture s (.quartz cl x) i w fr = some c →
    c.present = [0] ∧ c.active = [0] ∧
    ∀ n kd p, n < 3 → (sources i)[n]? = some (kd, p) → kd ≠ .none →
      [c.a1 0, c.a2 0, c.a3 0].getD n 0 = operandQ i (n + 1) q p)) ∧
  (∀ o s k sl f l fr c g u, OnGroup (.pairWord o) s k sl f l fr c g u →
    ∃ t, exec (.pairWord o) s = .next t ∧ WroteThreads (.pairWord o) s t k sl fr c g u [o.h0.d.toNat, o.h1.d.toNat] (fun m =>
      (if o.h0.op = 0 then [] else
        [(o.h0.d.toNat, half32 c o.h0 m ((u.thread (laneThread s c.agent m)).reg o.h0.d.toNat) ((c.a1 m).setWidth 32))]) ++
      (if o.h1.op = 0 then [] else
        [(o.h1.d.toNat, half32 c o.h1 m ((u.thread (laneThread s c.agent m)).reg o.h1.d.toNat) ((c.a2 m).setWidth 32))]))) ∧
  (∀ o s cl x f l fr c q, OnQuartz (.pairWord o) s cl x f l fr c q →
    ∃ t, exec (.pairWord o) s = .next t ∧ WroteCtx s t cl x fr c
      (let q1 := if o.h0.op = 0 then q else q.setSreg o.h0.d.toNat (half64 o.h0 (q.sreg o.h0.d.toNat) (c.a1 0))
       if o.h1.op = 0 then q1 else q1.setSreg o.h1.d.toNat (half64 o.h1 (q.sreg o.h1.d.toNat) (c.a2 0))))
/-- R59, R213, the interval invariant: every word, whatever it does, leaves every k-register of every thread of its group inside
the group's interval, where the unit lies in its grid as R45 and R192 place it, no set of it waits for a queue value, and a
TRET has no entry to run again. The premise that lanes are a table in canonical form is StepKeepsReportsAndLanes. A group drawn
from a bin that holds its threads' values holds them, and a dissolved group's threads stand in a bin that holds theirs. -/
def Obligations.WordsKeepIntervals : Prop :=
  (∀ i s k sl f l fr c g u t, OnGroup i s k sl f l fr c g u → (∀ o, i = .tret o → fr.replay = []) → NoPopper s g.uid →
    (∀ p ∈ g.members, InGrid u (recOf s f l) p.2) → LanesInv s → IvHolds s k sl → exec i s = .next t → IvHolds t k sl) ∧
  (∀ s core t sl g, Reported s → NatMap.wf none s.units = true →
    (∀ uid u, (uid, some u) ∈ s.units → ∀ b ∈ u.bins, b.spilled = false ∧ ∀ th ∈ b.threads, BinHolds u b th) →
    exec (.binDraw core) s = .next t → s.group? core sl = none → t.group? core sl = some g → IvHolds t core sl) ∧
  (∀ s core sl g u t, Reported s → s.group? core sl = some g → s.unit? g.uid = some u → IvHolds s core sl →
    exec (.groupDissolve core sl) s = .next t → ∀ p ∈ g.members, ∃ u' b, t.unit? g.uid = some u' ∧ b ∈ u'.bins ∧
      b.key = ⟨g.front.pc, none⟩ ∧ p.2 ∈ b.threads ∧ BinHolds u' b p.2)

/-- R59 and R66, with R18, R70, R74 and R95: the new interval of a k destination is the table's N, cut at the signed 32-bit
range, and joined with the old interval when a present lane was not active; a cross-lane word with no lane active leaves it. R69:
IWIDEN with equal bounds, low not above high, gives its register the interval [lo, hi]; where the old interval lay inside,
nothing else changes; otherwise, unless the action is TRAP, every thread's value is clamped. -/
def Obligations.IntWordsSetIntervals : Prop :=
  (∀ i s k sl f l fr c g u n, OnGroup i s k sl f l fr c g u → hasIvSpec i = true → sDestOf .vector i = false →
      dest i = 480 + n → (∀ o, i = .lbcast o → ∀ m ∈ c.active, ∀ m' ∈ c.active, c.a2 m = c.a2 m') →
      ∃ t g', exec i s = .next t ∧ t.group? k sl = some g' ∧
        ivGet g'.iv n = (let v := cutTop (ivSpec g u (recOf s f l) i c.i1 c.i2 c.i3)
          if isCrossLane i = true ∧ c.active = [] then ivGet g.iv n
          else if c.active = c.present then v else Iv.hull (ivGet g.iv n) v)) ∧
  (∀ o s k sl f l fr c g u (lo hi : Word), OnGroup (.iwiden o) s k sl f l fr c g u →
      c.present ≠ [] → (∀ m ∈ c.present, c.a1 m = lo.setWidth 64 ∧ c.a2 m = hi.setWidth 64) → lo.toInt ≤ hi.toInt →
      (Iv.inside (ivGet g.iv (o.d.toNat - 480)) ⟨lo.toInt, hi.toInt⟩ = true ∨ o.x = 1 ∨
        (o.x = 0 ∧ (recOf s f l).flags.getLsbD 2 = false) ∨
        (∀ m ∈ c.present, lo.toInt ≤ ((u.thread (laneThread s c.agent m)).reg o.d.toNat).toInt ∧
          ((u.thread (laneThread s c.agent m)).reg o.d.toNat).toInt ≤ hi.toInt)) →
      ∃ t g' u', exec (.iwiden o) s = .next t ∧ t.group? k sl = some g' ∧ t.unit? g.uid = some u' ∧
        g'.front = frontAfter fr c ∧ ivGet g'.iv (o.d.toNat - 480) = ⟨lo.toInt, hi.toInt⟩ ∧
        (∀ n, 480 + n ≠ o.d.toNat → ivGet g'.iv n = ivGet g.iv n) ∧
        (Iv.inside (ivGet g.iv (o.d.toNat - 480)) ⟨lo.toInt, hi.toInt⟩ = true → u' = unitAfter u c) ∧
        (Iv.inside (ivGet g.iv (o.d.toNat - 480)) ⟨lo.toInt, hi.toInt⟩ = false → ∀ m ∈ c.present,
          let th := laneThread s c.agent m
          let old := ((u.thread th).reg o.d.toNat).toInt
          ((∀ n ∈ c.present, laneThread s c.agent n = th → n = m) →
            ((u'.thread th).reg o.d.toNat).toInt = max lo.toInt (min old hi.toInt)) ∧
          (old < lo.toInt ∨ hi.toInt < old → (u'.thread th).bounds = true)))

/-- R85: NOP, opcode 0x000 of format A, changes no state other than the program counter and the place in the run, on either
core, whatever its guard is; its E bit ends a run like any other. Its other fields are 0. The pair NOP, OP7 0x00, writes
nothing. -/
def Obligations.NopOnlyAdvances : Prop :=
  (∀ o s k sl f l fr c g u, OnGroup (.nop o) s k sl f l fr c g u →
    ∃ t, exec (.nop o) s = .next t ∧ WroteUnit (.nop o) s t k sl fr c g u u) ∧
  (∀ o s cl x f l fr c q, OnQuartz (.nop o) s cl x f l fr c q →
    ∃ t, exec (.nop o) s = .next t ∧ WroteCtx s t cl x fr c q) ∧
  (∀ o, (Instr.nop o).wf .vector = true ↔
    o.d = 0 ∧ o.s1 = .reg 0 ∧ o.s2 = .reg 0 ∧ o.s3 = .reg 0 ∧ o.h = .none ∧ o.x = 0) ∧
  (∀ o, ∃ w, encode (.nop o) = some w ∧ bits w 53 10 = 0) ∧
  (∀ o s k sl f l fr c g u, OnGroup (.pairWord o) s k sl f l fr c g u → o.h0.op = 0 → o.h1.op = 0 →
    ∃ t, exec (.pairWord o) s = .next t ∧ WroteUnit (.pairWord o) s t k sl fr c g u u) ∧
  (∀ o s cl x f l fr c q, OnQuartz (.pairWord o) s cl x f l fr c q → o.h0.op = 0 → o.h1.op = 0 →
    ∃ t, exec (.pairWord o) s = .next t ∧ WroteCtx s t cl x fr c q)

/-- R77 to R81, one next program counter: when every present thread goes to one address, the group goes there as one,
with its threads, registers and intervals, which for BRC are those of the side that every thread took, refined as R79's table
says, or the hull of both. A JMPX or RET target is the low 57 bits of its 64-bit value (log entry 30, the model's reading). -/
def Obligations.TransfersMoveWholeGroup : Prop :=
  ∀ i s k sl f l fr c g u pc, OnGroup i s k sl f l fr c g u → c.present ≠ [] → targetsAligned c fr i →
    (∀ m ∈ c.present, nextPc s fr c u i m = some pc) →
    ∃ t iv, exec i s = .next t ∧ Jumped i s t k sl fr g u u iv pc ∧ ((∀ o, i ≠ .brc o) → iv = g.iv) ∧
      ∀ o, i = .brc o → ∀ n, n < 32 → ivGet iv n = joinedBy g o c n

/-- R77, several next program counters: outside a handler the group is dissolved, and each present thread is filed in the
bin of its own next address, whose intervals come to contain the group's, or for BRC those of the thread's side, refined as R79's
table says. A JMPX or RET target is the low 57 bits of its 64-bit value (log entry 30, the model's reading). -/
def Obligations.TransfersFileDivergedThreads : Prop :=
  ∀ i s k sl f l fr c g u (pcs : Nat → Pc), OnGroup i s k sl f l fr c g u → fr.priv = false → targetsAligned c fr i →
    (∀ m ∈ c.present, nextPc s fr c u i m = some (pcs m)) →
    (∃ m ∈ c.present, ∃ n ∈ c.present, pcs m ≠ pcs n) →
    ∃ t u', exec i s = .next t ∧ t.group? k sl = none ∧ t.unit? g.uid = some u' ∧ u'.threads = u.threads ∧
      u'.runs = u.runs + 1 ∧ ∀ m ∈ c.present, FiledWith u' ⟨pcs m, none⟩ (laneThread s c.agent m)
        (match i with | .brc o => sideIn g o c m | _ => ivGet g.iv)

/-- R81: CALL writes the address of the next word into the link pair of every present thread and moves the group. R78, R80,
R81 on the Quartz core: BRA, BRC, JMPX, CALL and RET move the context; BRC compares 64 bits. A JMPX or RET target is the low 57
bits of its 64-bit value (log entry 30, the model's reading). -/
def Obligations.CallsAndQuartzTransfers : Prop :=
  ((∀ o n s k sl f l fr c g u, OnGroup (.call o) s k sl f l fr c g u → c.present ≠ [] → o.s1 = .reg n →
    ∃ t u', exec (.call o) s = .next t ∧ OnlyGroup (.call o) s t k sl g u ∧
      t.group? k sl = some { g with front := frontAt fr (branchTarget fr o) } ∧ t.unit? g.uid = some u' ∧
      { u' with threads := u.threads } = { u with runs := u.runs + 1 } ∧
      ThreadRegs s c u u' (fun _ => [(n.toNat, ((fr.pc + 8).setWidth 64).setWidth 32),
        (n.toNat + 1, (((fr.pc + 8).setWidth 64) >>> 32).setWidth 32)])) ∧
  (∀ o n s cl x f l fr c q, OnQuartz (.call o) s cl x f l fr c q → o.s1 = .reg n ∨ o.s1 = .sreg n →
    ∃ t, exec (.call o) s = .next t ∧
      JumpedCtx s t cl x fr (q.setSreg n.toNat ((fr.pc + 8).setWidth 64)) (branchTarget fr o))) ∧
  ((∀ o s cl x f l fr c q, OnQuartz (.bra o) s cl x f l fr c q →
    ∃ t, exec (.bra o) s = .next t ∧ JumpedCtx s t cl x fr q (branchTarget fr o)) ∧
  (∀ o s cl x f l fr c q, OnQuartz (.brc o) s cl x f l fr c q →
    ∃ t, exec (.brc o) s = .next t ∧
      JumpedCtx s t cl x fr q (if condSpec o.cond (c.a1 0) (c.a2 0) then branchTarget fr o else fr.pc + 8)) ∧
  (∀ o s cl x f l fr c q v, OnQuartz (.jmpx o) s cl x f l fr c q →
    v = (match o.s1 with | .lit _ => fr.pc.setWidth 64 + c.a1 0 | _ => c.a1 0) → bits v 0 3 = 0 →
    ∃ t, exec (.jmpx o) s = .next t ∧ JumpedCtx s t cl x fr q (v.setWidth 57)) ∧
  (∀ o s cl x f l fr c q, OnQuartz (.ret o) s cl x f l fr c q → bits (c.a1 0) 0 3 = 0 →
    ∃ t, exec (.ret o) s = .next t ∧ JumpedCtx s t cl x fr q ((c.a1 0).setWidth 57)))

/-- R82: REFORM, opcode 0x056 of format A and class V, files every present thread at the next word, even when all share that
address; REFORM.W also by warp. X is 0 or 1, its other fields are 0, and an enabled guard is an illegal encoding. -/
def Obligations.ReformFilesEveryThread : Prop :=
  (∀ o, (Instr.reform o).wf .vector = true ↔ o.d = 0 ∧ o.s1 = .reg 0 ∧ o.s2 = .reg 0 ∧ o.s3 = .reg 0 ∧ o.h = .none ∧
    (o.x = 0 ∨ o.x = 1) ∧ o.g.en = false) ∧
  (∀ o, ∃ w, encode (.reform o) = some w ∧ bits w 53 10 = 0x056 ∧ (Instr.reform o).classOk .quartz = false) ∧
  ∀ o s k sl f l fr c g u, OnGroup (.reform o) s k sl f l fr c g u →
    (∀ m ∈ c.present, laneThread s c.agent m < 1024) →
    ∃ t u', exec (.reform o) s = .next t ∧ t.group? k sl = none ∧ t.unit? g.uid = some u' ∧ u'.threads = u.threads ∧
      u'.runs = u.runs + 1 ∧ ∀ m ∈ c.present,
        let key : BinKey := ⟨fr.pc + 8, if o.x = 1 then some (laneThread s c.agent m / 32) else none⟩
        FiledWith u' key (laneThread s c.agent m) (ivGet g.iv)

/-- R83: EXIT ends every active thread; with lanes left over the group goes on at the next word without them, and with none
left the slot is free. On the Quartz core it ends the context's program. -/
def Obligations.ExitEndsActiveThreads : Prop :=
  (∀ o s k sl f l fr c g u, OnGroup (.exit o) s k sl f l fr c g u → u.arrived = [] →
    (∃ th ∈ u.live, ∀ m ∈ c.active, laneThread s c.agent m ≠ th) →
    ∃ t u', exec (.exit o) s = .next t ∧ t.unit? g.uid = some u' ∧
      { u' with threads := u.threads } = { u with runs := u.runs + 1 } ∧
      (∀ m ∈ c.active, (u'.thread (laneThread s c.agent m)).exited = true) ∧
      (∀ th, { u'.thread th with exited := (u.thread th).exited } = u.thread th) ∧
      (c.active = c.present → t.group? k sl = none) ∧
      ((∃ m ∈ c.present, m ∉ c.active) → ∃ g', t.group? k sl = some g' ∧ g'.front = frontAt fr (fr.pc + 8) ∧
        ∀ m, NatMap.get none g'.lanes m = if m ∈ c.active then none else NatMap.get none g.lanes m)) ∧
  (∀ o s k sl f l fr c g u, OnGroup (.exit o) s k sl f l fr c g u →
    ∃ t, exec (.exit o) s = .next t ∧ (c.active = c.present → t.group? k sl = none)) ∧
  (∀ o s cl x f l fr c q, OnQuartz (.exit o) s cl x f l fr c q →
    ∃ t, exec (.exit o) s = .next t ∧ JumpedCtx s t cl x fr { q with exiting := true } fr.pc)


-- Traps and handlers.

/-- R44, R171, R174, R319: outside a handler, the first of checks 1 to 6 that fails raises its cause, with the word's address
and the present lanes; the agent enters the handler, a run that the word ends is counted (R325), and nothing else changes.
The run position 0, with no resume, of a word with its E bit 1, and that TRAP or SYSC failing a check makes no entry and sets
XPC past itself, are the model's reading (log entries 35 and 36). -/
def Obligations.FailedCheckEntersHandler : Prop :=
  ∀ i s a f l fr c n, Arrives i s a f l fr c → Fails s a fr (recOf s f l) i n → (∀ m, m < n → ¬Fails s a fr (recOf s f l) i m) →
    fr.priv = false → (recOf s f l).trapentry ≠ 0 →
    exec i s = .next (setFront (runEnded s a i) a
      (trapped a fr c i (recOf s f l).trapentry n (fr.pc.setWidth 64) (xmaskOf a c.present)))

/-- R173, R171, R186: TRAP and SYSC raise causes 0x16 and 0x17 with the literal in XADDR, make no replay entry, and set XPC
to the next word; on a group they end the run, which is counted, and clear the region marks of the present threads (R320,
R325). The position 0 of the ended run is the model's reading (log entry 35). -/
def Obligations.TrapAndSyscEnterHandler : Prop :=
  ∀ i imm cause te s f l fr c, (∃ o : IOps, o.imm = imm ∧ ((i = .trap o ∧ cause = 0x16) ∨ (i = .sysc o ∧ cause = 0x17))) →
    (recOf s f l).trapentry = te → te ≠ 0 → fr.priv = false →
    (∀ k sl g u, OnGroup i s k sl f l fr c g u →
      ∃ t u', exec i s = .next t ∧ OnlyGroup i s t k sl g u ∧
        t.group? k sl = some { g with front := softFront (.group k sl) fr te cause (imm.setWidth 64) (laneMask c.present) } ∧
        t.unit? g.uid = some u' ∧ { u' with threads := u.threads } = { u with runs := u.runs + 1 } ∧
        ∀ th, { u'.thread th with mark := (u.thread th).mark } = u.thread th ∧
          (u'.thread th).mark = if ∃ m ∈ c.present, laneThread s c.agent m = th then none else (u.thread th).mark) ∧
    (∀ cl x q, OnQuartz i s cl x f l fr c q →
      ∃ t, exec i s = .next t ∧ OnlyCtx s t cl x ∧ t.ctx? cl x = some { q with
        front := softFront (.quartz cl x) fr te cause (imm.setWidth 64) 1 })

/-- R57, R171, R319, R320, check 7 of R44: a 64-bit result that differs between active lanes raises NONUNIFORM; XADDR is the
lowest active lane's value and XMASK the lanes that differ from it; the word is an entry of the replay queue. The run position
0 of a word with its E bit 1 is the model's reading (log entry 35). -/
def Obligations.NonuniformResultTraps : Prop :=
  ∀ i s k sl f l fr c g u m r, OnGroup i s k sl f l fr c g u → isIntA i = true → sDestOf .vector i = true →
    c.active = m :: r → (∃ n ∈ r, int64V i c n ≠ int64V i c m) → fr.priv = false → (recOf s f l).trapentry ≠ 0 →
    exec i s = .next (setFront (runEnded (tokenAcquire s u i) (.group k sl) i) (.group k sl)
      (trapped (.group k sl) fr c i (recOf s f l).trapentry 7 (int64V i c m)
      (laneMask (r.filter (fun n => int64V i c n != int64V i c m)))))

/-- R172, R331: a trap condition in privileged mode, or with TRAPENTRY 0, tears the function's context down. -/
def Obligations.NestedTrapIsFatal : Prop :=
  (∀ i s a f l fr c n, Arrives i s a f l fr c → Fails s a fr (recOf s f l) i n →
    fr.priv = true ∨ (recOf s f l).trapentry = 0 → ∃ t, exec i s = .next t ∧ TornDown t f) ∧
  (∀ i s k sl f l fr c g u, OnGroup i s k sl f l fr c g u → isSoft i = true →
    fr.priv = true ∨ (recOf s f l).trapentry = 0 → ∃ t, exec i s = .next t ∧ TornDown t f)

/-- R320: the fields of XSTAT. That core k stands on cluster k / 4 and die k / 64, and cluster cl on die cl / 16, is the
model's numbering (log entry 65). -/
def Obligations.XstatFieldsStand : Prop :=
  ∀ latch rpos resume, rpos < 24 →
    (∀ k sl, k < 256 → sl < 32 → let v := xstatOf (.group k sl) latch rpos resume
      bits v 28 36 = 0 ∧ bits v 25 3 = 0 ∧ v.getLsbD 24 = false ∧ bits v 22 2 = BitVec.ofNat 2 (k / 64) ∧
      bits v 16 6 = BitVec.ofNat 6 (k / 4) ∧ bits v 14 2 = BitVec.ofNat 2 (k % 4) ∧ bits v 9 5 = BitVec.ofNat 5 sl ∧
      v.getLsbD 5 = resume ∧ bits v 0 5 = BitVec.ofNat 5 rpos) ∧
    (∀ cl x, cl < 64 → x < 8 → let v := xstatOf (.quartz cl x) latch rpos resume
      bits v 28 36 = 0 ∧ bits v 25 3 = BitVec.ofNat 3 x ∧ v.getLsbD 24 = true ∧ bits v 22 2 = BitVec.ofNat 2 (cl / 16) ∧
      bits v 16 6 = BitVec.ofNat 6 cl ∧ bits v 9 7 = 0 ∧ v.getLsbD 5 = resume ∧ bits v 0 5 = BitVec.ofNat 5 rpos) ∧
    (∀ a m, m < 3 → ((xstatOf a latch rpos resume).getLsbD (6 + m) = true ↔
      ∃ e ∈ latch, e.pos % 3 = m ∧ e.pos < rpos ∧ rpos ≤ e.pos + 2))

/-- R174: with no unfinished entry TRET leaves privileged mode and resumes the interrupted run, or begins a new one at XPC;
a shadow runs with its leader again (R358). -/
def Obligations.TretResumesRun : Prop :=
  (∀ o s k sl f l fr c g u, OnGroup (.tret o) s k sl f l fr c g u → fr.replay = [] →
    ∃ t, exec (.tret o) s = .next t ∧ OnlyGroup (.tret o) s t k sl g u ∧
      t.group? k sl = some { g with front := resumed fr, paired := g.shadow.isSome } ∧
      t.unit? g.uid = some { u with runs := u.runs + 1 }) ∧
  (∀ o s cl x f l fr c q, OnQuartz (.tret o) s cl x f l fr c q → fr.replay = [] →
    ∃ t, exec (.tret o) s = .next t ∧ OnlyCtx s t cl x ∧ t.ctx? cl x = some { q with front := resumed fr })

/-- R37, R174, R177: TRET runs an unfinished integer word with the operands of its entry, for the lanes in MASK, into the
destination that the word names, and enters the operand that it retains into the latch, before it resumes the run. That MASK's lanes act as the present lanes is the model's
reading (log entry 37). -/
def Obligations.TretReissuesEntry : Prop :=
  ∀ o i e s k sl f l fr c g u, OnGroup (.tret o) s k sl f l fr c g u → fr.replay = [e] → decode e.word = .word i →
    isIntA i = true → sDestOf .vector i = false → 7 < e.stat.toNat ∨ e.stat = 0 →
    ∃ t g' u', exec (.tret o) s = .next t ∧ OnlyGroup i s t k sl g u ∧ t.group? k sl = some g' ∧
      t.unit? g.uid = some u' ∧ { g' with iv := g.iv } = { g with front := resumed (paid fr i e), paired := g.shadow.isSome } ∧
      { u' with threads := u.threads } = { u with runs := u.runs + 1 } ∧
      ThreadRegs s { c with active := c.present.filter (fun m => e.mask.getLsbD m) } u u' (fun m => [(dest i,
        intSpec 32 i ((NatMap.get 0 e.op1 m).setWidth 32) ((NatMap.get 0 e.op2 m).setWidth 32)
          ((NatMap.get 0 e.op3 m).setWidth 32))])

/-- R175: XRD gives every active lane the half of the banked register that X selects, all 64 bits on the Quartz core; XWR gives
XPC as it was and writes its half, bits [2:0] and [63:57] as 0, and a value that is not uniform is fatal (R172, R188). A k
destination takes TOP (R59), with no active lane too (log entry 32). Every other index, and .hi of a 32-bit register, is an
illegal encoding, and so is XWR of another register. That S2 of XRD must be 0 is the model's reading (log entry 33). -/
def Obligations.BankedRegistersReadAndWrite : Prop :=
  (∀ o s k sl f l fr c g u, OnGroup (.xrd o) s k sl f l fr c g u → ∃ t, exec (.xrd o) s = .next t ∧
    WroteThreads (.xrd o) s t k sl fr c g u [o.d.toNat] (fun _ => [(o.d.toNat, half o.x (banked fr (litField o.s1)))])) ∧
  (∀ o s cl x f l fr c q, OnQuartz (.xrd o) s cl x f l fr c q → ∃ t, exec (.xrd o) s = .next t ∧
    WroteCtx s t cl x fr c (q.setSreg o.d.toNat (banked fr (litField o.s1)))) ∧
  (∀ o s k sl f l fr c g u v, OnGroup (.xwr o) s k sl f l fr c g u → c.active ≠ [] → (∀ m ∈ c.active, c.a2 m = v) →
    ∃ t, exec (.xwr o) s = .next t ∧
      WroteThreads (.xwr o) s t k sl { fr with xpc := xpcHalf o.x fr.xpc (v.setWidth 32) } c g u [o.d.toNat]
        (fun _ => [(o.d.toNat, half o.x fr.xpc)])) ∧
  (∀ o s k sl f l fr c g u, OnGroup (.xwr o) s k sl f l fr c g u → c.active = [] → ∃ t, exec (.xwr o) s = .next t ∧
    WroteThreads (.xwr o) s t k sl fr c g u [o.d.toNat] (fun _ => [])) ∧
  (∀ o s k sl f l fr c g u, OnGroup (.xwr o) s k sl f l fr c g u → (∃ m ∈ c.active, ∃ n ∈ c.active, c.a2 m ≠ c.a2 n) →
    ∃ t, exec (.xwr o) s = .next t ∧ TornDown t f) ∧
  (∀ i o s k sl f l fr c g u n, i = .xrd o ∨ i = .xwr o → OnGroup i s k sl f l fr c g u →
    (i = .xwr o → ∃ v, ∀ m ∈ c.active, c.a2 m = v) → o.d.toNat = 480 + n →
    Iv.inside (ivGet g.iv n) ⟨-(2 ^ 31), 2 ^ 31 - 1⟩ = true →
    ∃ t g', exec i s = .next t ∧ t.group? k sl = some g' ∧ ivGet g'.iv n = ⟨-(2 ^ 31), 2 ^ 31 - 1⟩) ∧
  (∀ o k, (Instr.xrd o).wf k = true ↔ (k = .quartz → o.d.toNat < 64 ∧ o.x = 0 ∧ o.g.en = false) ∧ (o.x = 0 ∨ o.x = 1) ∧
    (∃ i : BitVec 9, o.s1 = .lit i ∧ i.toNat < 6 ∧ (o.x = 1 → i.toNat = 0 ∨ i.toNat = 2 ∨ i.toNat = 3)) ∧
    o.s2 = .reg 0 ∧ o.s3 = .reg 0 ∧ (o.h = .none ∨ o.h = .s1)) ∧
  (∀ o k, (Instr.xwr o).wf k = true ↔ (k = .quartz → o.d.toNat < 64 ∧ o.x = 0 ∧ o.g.en = false) ∧ (o.x = 0 ∨ o.x = 1) ∧
    o.s1 = .lit 0 ∧ plainSrc k o.s2 ∧ o.s3 = .reg 0 ∧ o.h ≠ .s3) ∧
  (∀ o s cl x f l fr c q, OnQuartz (.xwr o) s cl x f l fr c q → ∃ t, exec (.xwr o) s = .next t ∧
    WroteCtx s t cl x { fr with xpc := c.a2 0 &&& 0x01FFFFFFFFFFFFF8 } c (q.setSreg o.d.toNat fr.xpc))

/-- R176, R177: RPLX reads a field of an entry, RPLW gives the old value and writes the field in the active lanes and no other
field or lane, and RPLD removes the entry, those above moving down; on the Quartz core fields have 64 bits and one lane. -/
def Obligations.ReplayWordsEditEntries : Prop :=
  ((∀ o s k sl f l fr c g u n e, OnGroup (.rplx o) s k sl f l fr c g u → c.present ≠ [] → n < 2 ^ 32 →
    (∀ m ∈ c.present, c.a1 m = BitVec.ofNat 64 n) → fr.replay[n]? = some e → ∃ t, exec (.rplx o) s = .next t ∧
    WroteThreads (.rplx o) s t k sl fr c g u [o.d.toNat] (fun m =>
      [(o.d.toNat, (fieldOf .vector e (litField o.s2) m).setWidth 32)])) ∧
  (∀ o s k sl f l fr c g u n e, OnGroup (.rplw o) s k sl f l fr c g u → c.present ≠ [] → n < 2 ^ 32 →
    (∀ m ∈ c.present, c.a1 m = BitVec.ofNat 64 n) → fr.replay[n]? = some e →
    (litField o.s2 = 4 → ∃ v, ∀ m ∈ c.active, c.a3 m = v) →
    ∃ t e', exec (.rplw o) s = .next t ∧
      WroteThreads (.rplw o) s t k sl { fr with replay := fr.replay.set n e' } c g u [o.d.toNat] (fun m =>
        [(o.d.toNat, (fieldOf .vector e (litField o.s2) m).setWidth 32)]) ∧
      (∀ m ∈ c.active, fieldOf .vector e' (litField o.s2) m = fieldWritten .vector e (litField o.s2) (c.a3 m)) ∧
      (∀ n' m, n' ≠ litField o.s2 ∨ m ∉ c.active ∧ n' ≠ 4 → fieldOf .vector e' n' m = fieldOf .vector e n' m)) ∧
  (∀ o s k sl f l fr c g u n, OnGroup (.rpld o) s k sl f l fr c g u → c.present ≠ [] → n < fr.replay.length →
    fr.replay.length ≤ 16 → (∀ m ∈ c.present, c.a1 m = BitVec.ofNat 64 n) → ∃ t, exec (.rpld o) s = .next t ∧
    WroteUnit (.rpld o) s t k sl { fr with replay := fr.replay.eraseIdx n } c g u u)) ∧
  ((∀ o s cl x f l fr c q e, OnQuartz (.rplx o) s cl x f l fr c q → fr.replay[(c.a1 0).toNat]? = some e →
    ∃ t, exec (.rplx o) s = .next t ∧
      WroteCtx s t cl x fr c (q.setSreg o.d.toNat (fieldOf .quartz e (litField o.s2) 0))) ∧
  (∀ o s cl x f l fr c q e, OnQuartz (.rplw o) s cl x f l fr c q → fr.replay[(c.a1 0).toNat]? = some e →
    ∃ t e', exec (.rplw o) s = .next t ∧
      WroteCtx s t cl x { fr with replay := fr.replay.set (c.a1 0).toNat e' } c
        (q.setSreg o.d.toNat (fieldOf .quartz e (litField o.s2) 0)) ∧
      fieldOf .quartz e' (litField o.s2) 0 = fieldWritten .quartz e (litField o.s2) (c.a3 0) ∧
      (∀ n', n' ≠ litField o.s2 → fieldOf .quartz e' n' 0 = fieldOf .quartz e n' 0)) ∧
  (∀ o s cl x f l fr c q, OnQuartz (.rpld o) s cl x f l fr c q → (c.a1 0).toNat < fr.replay.length →
    ∃ t, exec (.rpld o) s = .next t ∧
      WroteCtx s t cl x { fr with replay := fr.replay.eraseIdx (c.a1 0).toNat } c q))

-- Encoding, fetching, reset, and what every step keeps.

/-- Chapter 02: decoding the encoding of a well-formed word gives the word back, with every operand; and every constructor
that is no event has an encoding. -/
def Obligations.DecodeOfEncode : Prop :=
  (∀ i k w, i.wf k = true → encode i = some w → decode w = .word i) ∧ ∀ i, (encode i).isSome = true ↔ i.desc ≠ .event

/-- R29 to R32, R43: a 64-bit word that decodes to an instruction is the encoding of that instruction, so that no bit of it is
dropped; and on a core that has the word's class, its encoding is legal exactly when each of its fields is as R30 to R43 and
the word's chapter say (`legalWord`): which operand forms, D classes, X, SZ, ORD, SCOPE and COND values, literals, guards and
retentions it takes, and for a pair word its halves and banks (R35, R36, R38 to R42). That S2 of XRD must be 0, and that a
token or a handle named by H counts as read as 64 bits, is the model's reading (log entry 33). -/
def Obligations.EncodeOfDecode : Prop :=
  (∀ w i, decode w = .word i → encode i = some w) ∧
  ∀ k i, i.classOk k = true → (i.wf k = true ↔ legalWord k i)

/-- Chapter 02 and the worked words of the later chapters, written out from their encodings. -/
def Obligations.WorkedWordsDecode : Prop :=
  let g : Guard := ⟨false, false, 0⟩
  decode 0x003E33C281000000 = .word (.iadd ⟨false, 483, .reg 481, .lit 4, .reg 0, g, .none, 0, false⟩) ∧
  decode 0x41810058220480E0 = .word (.pairWord ⟨false, ⟨3, 4, .reg 11, false, 0⟩, ⟨0x22, 9, .reg 14, false, 0⟩⟩) ∧
  decode 0x1860623C00020094 = .word (.st ⟨false, 6, 2, .reg 480, 16, g, 4, .rel, 4⟩) ∧
  decode 0xB020000000000000 = .word (.tret ⟨true, 0, .reg 0, .reg 0, .reg 0, g, .none, 0, false⟩) ∧
  decode 0x306154008180A000 = .word (.rplw ⟨false, 21, .lit 0, .lit 6, .reg 20, g, .none, 0, false⟩) ∧
  decode (BitVec.ofNat 64 (0x01F * 2 ^ 53)) = .unassigned 0x01F

/-- R28, R44, R56, R149, R199, and the model's own agenda: with an issue turn at the head that is the agent's by the
choice of its quadrant or Quartz core, or with an empty agenda and a current agent, step fetches the 8 bytes at the
agent's program counter through its function's translation, and is exec of the instruction they decode to, at the state
that the fetch leaves, in which the agent is the last chosen unless the word stalls; then the step's error records are in their logs, the bins that it spilled
lie in the save area, the gates of collapsed functions stand as R349 has them, and it is noted which units stand in no
slot (`settled`). A word in the clock of what comes after it is refused. The turn of an agent that waits only passes its clocks; a turn out of the order of R149 and R199, or a
second word of a quadrant in one clock, is refused. An event turn passes its clocks and is exec of the event in its place
in the clock; a finish turn ends the agent's oldest unfinished word; a word as an event is refused, and with nothing to do
one clock passes. Clocks that would leave a deadline, a bounded write or a refill behind do not pass (R157, R251, R298,
R317). The agenda that gives the turns, the refusal of a turn that cannot be, the places within a clock, the unfinished
words and the instruction cache are the model's choice (log entries 1, 12, 13, 14, 16 and 69). -/
def Obligations.StepRunsDecodedWord : Prop :=
  (∀ s s1 s2 a f l fr bytes i, IssueTurn s s1 a → MayIssue s1 a f l fr → Fetches s1 a f fr bytes s2 →
    decodeBytes bytes = .word i →
    (s2.rank ≤ issueRank a i → stallsNow s2 a i = false →
      step s = settled (exec i (tookTurn s2 a (issueRank a i)))) ∧
    (s2.rank ≤ issueRank a i → stallsNow s2 a i = true → step s = settled (exec i s2)) ∧
    (issueRank a i < s2.rank → step s = .refused (.notEnabled "ORDER"))) ∧
  ((∀ s s1 a stalls fr, TurnOf s s1 a stalls → frontOf s1 a = some fr → (fr.hold ≠ none ∨ standing s1 a fr = true) →
    step s = settled (.next s1)) ∧
  (∀ s s1 a stalls fr, TurnOf s s1 a stalls → frontOf s1 a = some fr → fr.hold = none → standing s1 a fr = false →
    ¬ Chosen s1 a stalls ∨ issuedNow s1 a = true → step s = .refused (.notEnabled "ISSUE")) ∧
  (∀ s t r, s.agenda = t :: r → ¬ Passes s t.dt → step s = .refused (.notEnabled "CLOCK"))) ∧
  ((∀ s dt r i n, s.agenda = ⟨dt, .event i⟩ :: r → Passes s dt → i.desc = .event →
    let s1 := { clocksLater s dt with agenda := r, upset := 0 }
    (eventRank { clocksLater s dt with agenda := r } i = none → step s = settled (exec i s1)) ∧
    (eventRank { clocksLater s dt with agenda := r } i = some n → s1.rank ≤ n →
      step s = settled (exec i { s1 with rank := n })) ∧
    (eventRank { clocksLater s dt with agenda := r } i = some n → n < s1.rank →
      step s = .refused (.notEnabled "ORDER"))) ∧
  (∀ s dt r i, s.agenda = ⟨dt, .event i⟩ :: r → Passes s dt → i.desc ≠ .event →
    step s = .refused (.notEnabled "no agent")) ∧
  (∀ s dt r a, s.agenda = ⟨dt, .finish a⟩ :: r → Passes s dt →
    let s1 := { clocksLater s dt with agenda := r }
    (s1.rank ≤ agentRank a → step s = settled (finishOldest a { s1 with rank := agentRank a, upset := 0 })) ∧
    (agentRank a < s1.rank → step s = .refused (.notEnabled "ORDER"))) ∧
  (∀ s, s.agenda = [] → s.cur = none → (Passes s 1 → step s = settled (.next { clocksLater s 1 with upset := 0, later := false })) ∧
    (¬ Passes s 1 → step s = .refused (.notEnabled "CLOCK"))))

/-- R43, R44 check 1, R171, R319: a word with an unassigned opcode raises ILLEGAL_INSTR; it is the entry behind those of the
unfinished words, and with its E bit 1 it ends the run, which is counted (R325), once those have finished; behind 16 of them it
waits (R322). That a word with its E bit 1 waits for them, and its run position 0, are the model's reading (log entries 14 and
35). -/
def Obligations.UnassignedOpcodeTraps : Prop :=
  ∀ s s1 s2 a f l fr w n, IssueTurn s s1 a → MayIssue s1 a f l fr → Fetches s1 a f fr (leBytes 8 w) s2 → w < 2 ^ 64 →
    decode (BitVec.ofNat 64 w) = .unassigned n → MayIssue s2 a f l fr → Reported s2 → fr.priv = false →
    (recOf s2 f l).trapentry ≠ 0 → s2.rank ≤ agentRank a →
    let e : Bool := decide (w / 2 ^ 63 % 2 = 1)
    let s3 := tookTurn s2 a (agentRank a)
    ((fr.unfinished ≠ [] ∧ e = true) ∨ 16 ≤ fr.unfinished.length → step s = settled (.next s2)) ∧
    (fr.unfinished = [] ∨ e = false → fr.unfinished.length < 16 →
      step s = settled (.next (setFront (if e then runCounted s3 a else s3) a
        (entered a fr (recOf s2 f l).trapentry fr.unfinished.length 1 (fr.pc.setWidth 64) (presentMask s2 a)
          (older fr ++ [⟨BitVec.ofNat 64 w, fr.pc, presentMask s2 a, 1, [], [], [], [], none, none⟩]) (fr.pc + 8)
          (if e then 0 else fr.j + 1) (!e)))))

/-- R337 to R346, R350, R366, R368: after package reset every register of every function's window reads 0, the partitions'
budget caps read 128, PFEB all ones, the slices 2,000 µs; PLIM holds 2,300 W and no throttled time; no key slot is valid,
no function exists but the physical one, and every register of the package reads 0, BOOTST too. The invariants hold:
memory in canonical form, no record waiting, lanes in canonical form. The empty agenda, ROUTE as 0, the slots last
chosen and the canonical form are the model's choice (log entries 1, 9, 7 and 4). -/
def Obligations.ResetLeavesValuesAndInvariants : Prop :=
  ((∀ f off, windowRead State.reset f off = 0) ∧
  (∀ p o, partRead (State.reset.part p) o = if o = 20 then 128 else 0) ∧
  State.reset.pfebRef = 0xFFFFFFFF ∧ State.reset.pfebCap = 0xFFFFFFFF ∧ State.reset.plimit = 2300 ∧ State.reset.throttled = 0 ∧
  (∀ f, State.reset.fcfgOf f = ⟨2000, 0, 0, 0, 0, 0, 0, 0, false⟩) ∧
  (∀ n, NatMap.get none State.reset.keys n = none) ∧ (∀ f, funcExists State.reset f = decide (f = 0)) ∧
  (∀ off size, regRead State.reset 0 off size = 0) ∧ State.reset.agenda = [] ∧ State.reset.cur = none) ∧
  (MemInv State.reset ∧ Reported State.reset ∧ LanesInv State.reset)

/-- Every step keeps the bytes of memory in canonical form, at the memories and at the homes. The canonical form, and
0 as what an unlisted byte reads as, are the model's choice (log entry 4). -/
def Obligations.StepKeepsMemoryCanonical : Prop := ∀ s t, MemInv s → step s = .next t → MemInv t

/-- R361: every error record reaches its logs, or is counted as dropped, within the step that raises it. Every step
also keeps the lanes of every group a table in canonical form, which WordsKeepIntervals rests on. That every record
reaches its logs within its step is the model's choice (log entry 79). -/
def Obligations.StepKeepsReportsAndLanes : Prop :=
  (∀ s t, Reported s → step s = .next t → Reported t) ∧
  (∀ s t, LanesInv s → step s = .next t → LanesInv t)

-- Memory.

/-- R105, R106: ASET sets all of an array register, or with .ext its extent alone, from operands that the present lanes
agree on; VALID is set. Nothing else changes. As R58 says of s-registers, a word of the same clock reads what the array
registers held before that clock, and a word of a later one what was written. -/
def Obligations.AsetSetsArrayRegister : Prop :=
  ∀ o s k sl f l fr c g u (b v w : DWord) (e at_ : Word), OnGroup (.aset o) s k sl f l fr c g u → c.present ≠ [] →
    (o.x = 0 → (∀ m ∈ c.present, wide c true true o.s1 (c.a1 m) = b ∧ c.a2 m = v ∧ c.a3 m = w) →
      e = v.setWidth 32 → at_ = w.setWidth 32 →
      bits at_ 7 25 = 0 → (bits at_ 0 3).toNat ≤ 4 → bits at_ 3 2 ≠ 3 → b.toNat % 2 ^ (bits at_ 0 3).toNat = 0 →
      b.toNat + e.toNat * 2 ^ (bits at_ 0 3).toNat ≤
        (if bits at_ 3 2 = 0 then 2 ^ 57 else if bits at_ 3 2 = 1 then u.xbytes else 2097152) →
      ∃ t, exec (.aset o) s = .next t ∧ WroteUnit (.aset o) s t k sl fr c g u
        (u.putAreg s.clock (o.d.toNat % 16) ⟨b, e, at_ ||| 64⟩)) ∧
    (o.x = 1 → (∀ m ∈ c.present, c.a1 m = v) → e = v.setWidth 32 → (u.aregAt s.clock (o.d.toNat % 16)).attr.getLsbD 6 = true →
      { u.aregAt s.clock (o.d.toNat % 16) with ext := e }.fits u.xbytes = true →
      ∃ t, exec (.aset o) s = .next t ∧ WroteUnit (.aset o) s t k sl fr c g u
        (u.putAreg s.clock (o.d.toNat % 16) { u.aregAt s.clock (o.d.toNat % 16) with ext := e })) ∧
    (∀ v m n, (u.putAreg s.clock m v).aregAt s.clock n = u.aregAt s.clock n ∧
      ∀ now, now ≠ s.clock → (u.putAreg s.clock m v).aregAt now n = if n = m then v else u.areg n)

/-- R110 to R115, R241: LD gives each active lane its element's bytes as its core sees them, extended as its type
says; a masked lane receives 0 and its thread's bounds flag. LDU does so for the one index of all active lanes. Every
byte of memory reads at its home as before. When a die has applied a write is the model's reading (log entries 25, 26
and 27). -/
def Obligations.LoadsReturnVisibleBytes : Prop :=
  (∀ o s k sl f l fr c g u xs, OnGroup (.ld o) s k sl f l fr c g u → Settled s → u.buffer = [] → Admitted s u o c [0] (some (width o.sz)) →
    Reached s u.core u.func .read (accesses s u o c) (width o.sz) xs →
    ∃ t, exec (.ld o) s = .next t ∧ (∀ a, homeByte t a = homeByte s a) ∧ (t.core u.core).x = (s.core u.core).x ∧
      MemWord s t k sl fr c g u id (fun m => match xs.find? (fun x => x.lane == m) with
        | some x => loaded o.d.toNat (loadRegs o.sz)
            (loadReg o.sz (visible (tokenAcquire s u (.ld o)) u.core o.ord x.t (width o.sz))) true
        | none => loaded o.d.toNat (loadRegs o.sz) (fun _ => 0) false) (masked s u o c) false) ∧
  (∀ o s k sl f l fr c g u v, OnGroup (.ldu o) s k sl f l fr c g u → Settled s → u.buffer = [] →
    Admitted s u o c [0] (some (width o.sz)) → (∀ m ∈ c.active, c.a1 m = v) →
    (∀ x, Reached s u.core u.func .read ((accesses s u o c).take 1) (width o.sz) [x] →
      ∃ t, exec (.ldu o) s = .next t ∧ (∀ a, homeByte t a = homeByte s a) ∧ (t.core u.core).x = (s.core u.core).x ∧
        MemWord s t k sl fr c g u id (fun _ => loaded o.d.toNat (loadRegs o.sz)
          (loadReg o.sz (visible (tokenAcquire s u (.ldu o)) u.core o.ord x.t (width o.sz))) true) [] false) ∧
    (accesses s u o c = [] →
      ∃ t, exec (.ldu o) s = .next t ∧ (∀ a, homeByte t a = homeByte s a) ∧ (t.core u.core).x = (s.core u.core).x ∧
        MemWord s t k sl fr c g u id (fun _ => loaded o.d.toNat (loadRegs o.sz) (fun _ => 0) false) (masked s u o c) false))

/-- R112 to R115, R132: LDX, and LDU over an X array, read the unit's X, and LDY the cluster's sealed Y; STX writes the
unit's X in lane order, where no seal-table entry, byte barrier or queue header is touched. No byte read has an uncorrectable error
(R356). That LDY reads a sealed range that is being reclaimed is the model's reading, log entry 29. -/
def Obligations.LocalWordsAccessXAndY : Prop :=
  (∀ o s k sl f l fr c g u, OnGroup (.ldx o) s k sl f l fr c g u → Settled s → Admitted s u o c [1] (some (width o.sz)) →
    (∀ p ∈ accesses s u o c, SoundAt (s.core u.core).badX (u.xoff + p.2) (width o.sz)) →
    ∃ t, exec (.ldx o) s = .next t ∧ (∀ a, homeByte t a = homeByte s a) ∧ (t.core u.core).x = (s.core u.core).x ∧
      MemWord s t k sl fr c g u id (fun m => match (accesses s u o c).find? (fun x => x.1 == m) with
        | some x => loaded o.d.toNat (loadRegs o.sz)
            (loadReg o.sz (NatMap.getRange 0 (s.core u.core).x (u.xoff + x.2) (width o.sz))) true
        | none => loaded o.d.toNat (loadRegs o.sz) (fun _ => 0) false) (masked s u o c) false) ∧
  (∀ o s k sl f l fr c g u v x, OnGroup (.ldu o) s k sl f l fr c g u → Settled s → Admitted s u o c [1] (some (width o.sz)) →
    (∀ m ∈ c.active, c.a1 m = v) → (accesses s u o c).head? = some x →
    SoundAt (s.core u.core).badX (u.xoff + x.2) (width o.sz) →
    ∃ t, exec (.ldu o) s = .next t ∧ (∀ a, homeByte t a = homeByte s a) ∧ (t.core u.core).x = (s.core u.core).x ∧
      MemWord s t k sl fr c g u id (fun _ => loaded o.d.toNat (loadRegs o.sz)
        (loadReg o.sz (NatMap.getRange 0 (s.core u.core).x (u.xoff + x.2) (width o.sz))) true) [] false) ∧
  (∀ o s k sl f l fr c g u v, OnGroup (.ldu o) s k sl f l fr c g u → Settled s → Admitted s u o c [1] (some (width o.sz)) →
    (∀ m ∈ c.active, c.a1 m = v) → accesses s u o c = [] →
    ∃ t, exec (.ldu o) s = .next t ∧ (∀ a, homeByte t a = homeByte s a) ∧ (t.core u.core).x = (s.core u.core).x ∧
      MemWord s t k sl fr c g u id (fun _ => loaded o.d.toNat (loadRegs o.sz) (fun _ => 0) false) (masked s u o c) false) ∧
  (∀ o s k sl f l fr c g u, OnGroup (.ldy o) s k sl f l fr c g u → Settled s → Admitted s u o c [2] (some (width o.sz)) →
    (∀ p ∈ accesses s u o c, ∃ e ∈ (s.cluster (u.core / 4)).ySeals, e.state ≠ .filling ∧ e.start ≤ p.2 ∧
      p.2 + width o.sz ≤ e.start + e.len) →
    (∀ p ∈ accesses s u o c, SoundAt (s.cluster (u.core / 4)).badY p.2 (width o.sz)) →
    ∃ t, exec (.ldy o) s = .next t ∧ (∀ a, homeByte t a = homeByte s a) ∧ (t.core u.core).x = (s.core u.core).x ∧
      MemWord s t k sl fr c g u id (fun m => match (accesses s u o c).find? (fun x => x.1 == m) with
        | some x => loaded o.d.toNat (loadRegs o.sz)
            (loadReg o.sz (NatMap.getRange 0 (s.cluster (u.core / 4)).y x.2 (width o.sz))) true
        | none => loaded o.d.toNat (loadRegs o.sz) (fun _ => 0) false) (masked s u o c) false) ∧
  (∀ o s k sl f l fr c g u, OnGroup (.stx o) s k sl f l fr c g u → Admitted s u o c [1] (some (width o.sz)) → Settled s →
    (∀ p ∈ accesses s u o c, sealHit s (.x u.core) (u.xoff + p.2) (width o.sz) anySeal = false ∧
      (∀ b ∈ (s.core u.core).barriers, overlaps b 16 (u.xoff + p.2) (width o.sz) = false) ∧
      ∀ b ∈ (s.cluster (u.core / 4)).queues, b.core = u.core → overlaps b.off 16 (u.xoff + p.2) (width o.sz) = false) →
    ∃ t, exec (.stx o) s = .next t ∧ (∀ a, homeByte t a = homeByte s a) ∧
      (∀ a, NatMap.get 0 (t.core u.core).x a =
        storesAt ((accesses s u o c).map (fun p => (u.xoff + p.2, storeData o.sz c p.1))) (NatMap.get 0 (s.core u.core).x a) a) ∧
      MemWord s t k sl fr c g u id (fun _ => []) (masked s u o c) false)

/-- R112, R113, R115, R238, R359: ST sends each lane's bytes toward its element's home, in lane order, and no byte of
memory changes before they are performed (HOME_WRITE_REQUEST); the bytes of a contained unit go to its buffer. Where
two lanes name one element the higher lane's request waits for the lower's, so that the highest lane's value remains. The
lane order of the requests of one store is the model's reading (log entry 27). -/
def Obligations.StoresSendTheirBytes : Prop :=
  ∀ o s k sl f l fr c g u xs, OnGroup (.st o) s k sl f l fr c g u → Settled s → Admitted s u o c [0] (some (width o.sz)) →
    Reached s u.core u.func .write (accesses s u o c) (width o.sz) xs →
    (u.contain = false ∨ u.relaunchable = false →
      ∃ t, exec (.st o) s = .next t ∧ (∀ a, homeByte t a = homeByte s a) ∧ (t.core u.core).x = (s.core u.core).x ∧
        Sends s t c sl g u fr o xs (fun x => .write (storeData o.sz c x.lane)) ∧
        MemWord s t k sl fr c g u id (fun _ => []) (masked s u o c) false) ∧
    (u.contain = true → u.relaunchable = true →
      (u.buffer.map (fun w => w.data.length)).sum + xs.length * width o.sz ≤ 65536 →
      ∃ t, exec (.st o) s = .next t ∧ (∀ a, homeByte t a = homeByte s a) ∧ (t.core u.core).x = (s.core u.core).x ∧
        t.sent = [] ∧
        MemWord s t k sl fr c g u (fun v => { v with buffer := v.buffer ++ xs.map (fun x =>
          ⟨laneThread s c.agent x.lane, 6, fr.pc.toNat, x.va, x.t.pa, x.t.key, storeData o.sz c x.lane⟩) }) (fun _ => []) (masked s u o c) false)

/-- R117 to R121: each atomic runs its lanes in order at the elements' homes, or in the unit's X: every lane's
registers receive the old value that its own operation saw, the new value is written, a masked lane receives 0, and
every other byte is as before. The catching up of the die at a home (log entry 26), and that a guarded word clears the region marks
of every thread of its group (R186, log entry 37), are the model's reading. -/
def Obligations.AtomicsReadModifyWrite : Prop :=
  (∀ i o fn s k sl f l fr c g u xs q, OnGroup i s k sl f l fr c g u → atomicOf i = some (o, fn) → Settled s →
    u.contain = false → (u.aregAt s.clock o.ar.toNat).space = 0 → Admitted s u o c [0] (some (rmwWidth o.sz / 8)) →
    Reached s u.core u.func .write (accesses s u o c) (rmwWidth o.sz / 8) xs →
    q = rmwRun (rmwWidth o.sz / 8) fn (xs.map (fun x => (x.lane, x.t.pa, operand o.sz c x.lane 0, operand o.sz c x.lane 1)))
      (homeByte s) →
    ∃ t, exec i s = .next t ∧ (∀ a, homeByte t a = q.2 a) ∧ (t.core u.core).x = (s.core u.core).x ∧
      MemWord s t k sl fr c g u id (fun m => match q.1.find? (fun p => p.1 == m) with
        | some p => oldRegs o.d.toNat o.sz p.2
        | none => oldRegs o.d.toNat o.sz 0) (masked s u o c) true) ∧
  (∀ i o fn s k sl f l fr c g u q, OnGroup i s k sl f l fr c g u → atomicOf i = some (o, fn) → Settled s →
    u.contain = false → Admitted s u o c [1] (some (rmwWidth o.sz / 8)) →
    (∀ p ∈ accesses s u o c, sealHit s (.x u.core) (u.xoff + p.2) (rmwWidth o.sz / 8) anySeal = false ∧
      SoundAt (s.core u.core).badX (u.xoff + p.2) (rmwWidth o.sz / 8) ∧
      (∀ b ∈ (s.core u.core).barriers, overlaps b 16 (u.xoff + p.2) (rmwWidth o.sz / 8) = false) ∧
      ∀ b ∈ (s.cluster (u.core / 4)).queues, b.core = u.core →
        overlaps b.off 16 (u.xoff + p.2) (rmwWidth o.sz / 8) = false) →
    q = rmwRun (rmwWidth o.sz / 8) fn ((accesses s u o c).map (fun p =>
      (p.1, u.xoff + p.2, operand o.sz c p.1 0, operand o.sz c p.1 1))) (NatMap.get 0 (s.core u.core).x) →
    ∃ t, exec i s = .next t ∧ (∀ a, NatMap.get 0 (t.core u.core).x a = q.2 a) ∧ (∀ a, homeByte t a = homeByte s a) ∧
      MemWord s t k sl fr c g u id (fun m => match q.1.find? (fun p => p.1 == m) with
        | some p => oldRegs o.d.toNat o.sz p.2
        | none => oldRegs o.d.toNat o.sz 0) (masked s u o c) true)

/-- R122, R238: RED sends each lane's operation toward its element's home and writes no register; in X it runs at once.
R123, R285: the first UPD to a sector that the core holds no partial of makes a partial of the lane's value combined into the
tag's identity, and registers it; to an uncached or host-homed element it is sent as an operation of its own. That a guarded word
clears the region marks of every thread of its group (R186) is the model's reading (log entry 37). -/
def Obligations.ReductionsAndUpdatesContribute : Prop :=
  (∀ i o op s k sl f l fr c g u xs, OnGroup i s k sl f l fr c g u → reductionOf i = some (o, op) → Settled s →
    u.contain = false → Admitted s u o c [0] (some (rmwWidth o.sz / 8)) →
    Reached s u.core u.func .write (accesses s u o c) (rmwWidth o.sz / 8) xs →
    ∃ t, exec i s = .next t ∧ (∀ a, homeByte t a = homeByte s a) ∧ (t.core u.core).x = (s.core u.core).x ∧
      Sends s t c sl g u fr o xs (fun x => .red op o.sz (operand o.sz c x.lane 0)) ∧
      MemWord s t k sl fr c g u id (fun _ => []) (masked s u o c) true) ∧
  (∀ i o op s k sl f l fr c g u, OnGroup i s k sl f l fr c g u → reductionOf i = some (o, op) → Settled s →
    u.contain = false → Admitted s u o c [1] (some (rmwWidth o.sz / 8)) →
    (∀ p ∈ accesses s u o c, sealHit s (.x u.core) (u.xoff + p.2) (rmwWidth o.sz / 8) anySeal = false ∧
      SoundAt (s.core u.core).badX (u.xoff + p.2) (rmwWidth o.sz / 8) ∧
      (∀ b ∈ (s.core u.core).barriers, overlaps b 16 (u.xoff + p.2) (rmwWidth o.sz / 8) = false) ∧
      ∀ b ∈ (s.cluster (u.core / 4)).queues, b.core = u.core →
        overlaps b.off 16 (u.xoff + p.2) (rmwWidth o.sz / 8) = false) →
    ∃ t, exec i s = .next t ∧ (∀ a, homeByte t a = homeByte s a) ∧
      (∀ a, NatMap.get 0 (t.core u.core).x a = (rmwRun (rmwWidth o.sz / 8) (newOf op o.sz) ((accesses s u o c).map (fun p =>
        (p.1, u.xoff + p.2, operand o.sz c p.1 0, 0))) (NatMap.get 0 (s.core u.core).x)).2 a) ∧
      MemWord s t k sl fr c g u id (fun _ => []) (masked s u o c) true) ∧
  (∀ i o tag s k sl f l fr c g u x v, OnGroup i s k sl f l fr c g u → updateOf i = some (o, tag) → Settled s →
    u.contain = false → Admitted s u o c [0] (some (tagSize tag)) → Reached s u.core u.func .write (accesses s u o c) (tagSize tag) [x] →
    v = (if tag = 1 then c.datum x.lane 0 ||| (c.datum x.lane 1 <<< 32) else c.datum x.lane 0) →
    ∃ t, exec i s = .next t ∧ (∀ a, homeByte t a = homeByte s a) ∧ (t.core u.core).x = (s.core u.core).x ∧
      MemWord s t k sl fr c g u id (fun _ => []) (masked s u o c) true ∧
      (x.t.unc = true ∨ homeOf s x.t.pa = 4 → t.sent = [request s c sl g u fr o 0 x (.upd tag v)]) ∧
      (x.t.unc = false → homeOf s x.t.pa ≠ 4 → partialOf s u.core (secOf x.t.pa) = none →
        t.sent = [request s c sl g u fr o 0 x (.register tag u.core)] ∧
        partialOf t u.core (secOf x.t.pa) =
          some ⟨tag, [(x.t.pa % 64 / tagSize tag, some (combine tag (identity tag) v))], [], [u.func], false⟩))

/-- R109, R110, R319: a lane outside the extent of an array whose action is TRAP raises BOUNDS with its index and the lanes
out of range, and no lane accesses; an array register of the wrong space, size or VALID raises ARRAY_TYPE. These words are LD, ST,
LDX, STX and LDY. That XADDR holds a negative index sign-extended to 64 bits is the model's choice, log entry 30, and that the
position of a run that the word ends is 0, log entry 35. -/
def Obligations.BadAccessTraps : Prop :=
  ∀ i o spaces n s k sl f l fr c g u, OnGroup i s k sl f l fr c g u →
    (i = .ld o ∧ spaces = [0]) ∨ (i = .st o ∧ spaces = [0]) ∨ (i = .ldx o ∧ spaces = [1]) ∨ (i = .stx o ∧ spaces = [1]) ∨
      (i = .ldy o ∧ spaces = [2]) → n = some (width o.sz) → fr.priv = false → (recOf s f l).trapentry ≠ 0 →
    (arrayBad (u.aregAt s.clock o.ar.toNat) spaces n = true → exec i s = .next (setFront (runEnded (tokenAcquire s u i) (.group k sl) i) (.group k sl)
      (trapped (.group k sl) fr c i (recOf s f l).trapentry 0x0A (BitVec.ofNat 64 o.ar.toNat) (laneMask c.active)))) ∧
    (∀ m r, arrayBad (u.aregAt s.clock o.ar.toNat) spaces n = false → masked s u o c = m :: r →
      (u.aregAt s.clock o.ar.toNat).act = true →
      exec i s = .next (setFront (runEnded (tokenAcquire s u i) (.group k sl) i) (.group k sl)
        (trapped (.group k sl) fr c i (recOf s f l).trapentry 8
          (BitVec.ofInt 64 (((c.a1 m).setWidth 32).toInt + o.off.toInt)) (laneMask (m :: r)))))

/-- R111, R116, R124, R243, R244: BVMASK gathers the bounds flags of the present lanes into D of the active lanes, whose flags it
clears unless .keep, and no other register changes; PREF.l1 fills the core's L1 with the lines, as the die sees them, and PREF.l2
fills the die's L2 or asks their home for them, and neither changes a byte of memory or X; CINV drops the lines' L1 copies; CWB
sends a request for each sector of its lines; FENCE.acq at cluster scope or wider drops the core's L1, and a fence with nothing
on its way changes no byte of memory. -/
def Obligations.CacheWordsAndFences : Prop :=
  (∀ o s k sl f l fr c g u, OnGroup (.bvmask o) s k sl f l fr c g u → ∃ t u', exec (.bvmask o) s = .next t ∧
    OnlyGroup (.bvmask o) s t k sl g u ∧ t.unit? g.uid = some u' ∧ { u' with threads := u.threads } = unitAfter u c ∧
    (∃ g', t.group? k sl = some g' ∧ { g' with iv := g.iv } = { g with front := frontAfter fr c }) ∧
    (∀ m ∈ c.active, soleLane s c m → ∀ i, i < 32 → (((u'.thread (laneThread s c.agent m)).reg o.d.toNat).getLsbD i = true ↔
      i ∈ c.present ∧ (u.thread (laneThread s c.agent i)).bounds = true)) ∧
    (∀ th n, n ≠ o.d.toNat ∨ (∀ m ∈ c.active, laneThread s c.agent m ≠ th) → (u'.thread th).reg n = (u.thread th).reg n) ∧
    (∀ th, (u'.thread th).bounds = true ↔ (u.thread th).bounds = true ∧
      (o.x = 1 ∨ ∀ m ∈ c.active, laneThread s c.agent m ≠ th))) ∧
  (∀ o s k sl f l fr c g u xs, OnGroup (.pref o) s k sl f l fr c g u → Settled s →
    arrayBad (u.aregAt s.clock o.ar.toNat) [0] none = false → c.active.length ≤ 32 → Reached s u.core u.func .read (accesses s u o c) 1 xs →
    (∀ x ∈ xs, ∀ i, i < 4 → Keyed s (64 * (4 * lineOf x.t.pa + i)) x.t.key) →
    ∃ t, exec (.pref o) s = .next t ∧ (∀ a, homeByte t a = homeByte s a) ∧ (t.core u.core).x = (s.core u.core).x ∧
      MemWord s t k sl fr c g u id (fun _ => []) [] false ∧
      ∀ x ∈ xs, x.t.unc = false → ∀ i, i < 4 → let sec := 4 * lineOf x.t.pa + i; let d := dieOfCore u.core
        accErr s (64 * sec) x.t.key = none → (s.die d).bad.contains sec = false → partialOf s u.core sec = none →
        (o.d = 0 → ∃ y, NatMap.get none (t.core u.core).l1 sec = some y ∧
          (l1Copy (tokenAcquire s u (.pref o)) u.core sec = none →
            y.data = visible s u.core .acq { x.t with pa := 64 * sec } 64)) ∧
        (o.d ≠ 0 → if homeOf s (64 * sec) = d then ∃ n ∈ (t.die d).lines, n.line = lineOf x.t.pa
          else holds s d sec = true ∨ sec ∈ (t.die d).fills)) ∧
  (∀ o s k sl f l fr c g u xs, OnGroup (.cinv o) s k sl f l fr c g u → arrayBad (u.aregAt s.clock o.ar.toNat) [0] none = false →
    Reached s u.core u.func .read (accesses s u o c) 1 xs →
    ∃ t, exec (.cinv o) s = .next t ∧ (∀ a, homeByte t a = homeByte s a) ∧ (t.core u.core).x = (s.core u.core).x ∧
      (∀ x ∈ xs, ∀ i, i < 4 → NatMap.get none (t.core u.core).l1 (4 * lineOf x.t.pa + i) = none) ∧
      t.sent = s.sent ∧ MemWord s t k sl fr c g u id (fun _ => []) [] false) ∧
  (∀ o s k sl f l fr c g u x, OnGroup (.cwb o) s k sl f l fr c g u → Settled s →
    arrayBad (u.aregAt s.clock o.ar.toNat) [0] none = false → Reached s u.core u.func .read (accesses s u o c) 1 [x] →
    ∃ t, exec (.cwb o) s = .next t ∧ (∀ a, homeByte t a = homeByte s a) ∧ (t.core u.core).x = (s.core u.core).x ∧
      t.sent = (List.range 4).map (fun i => { request s c sl g u fr o i x (.clean (o.scope = 5)) with
        pa := 64 * (4 * lineOf x.t.pa + i) }) ∧
      MemWord s t k sl fr c g u id (fun _ => []) [] false) ∧
  (∀ o s k sl f l fr c g u, OnGroup (.fence o) s k sl f l fr c g u → Settled s →
    ∃ t, exec (.fence o) s = .next t ∧ (∀ a, homeByte t a = homeByte s a) ∧
      (c.active ≠ [] → o.x ≠ 2 → 2 ≤ o.d.toNat → (t.core u.core).l1 = []) ∧ (t.core u.core).x = (s.core u.core).x ∧
      MemWord s t k sl fr c g u id (fun _ => []) [] false) ∧
  (∀ o s cl x f l fr c q, OnQuartz (.fence o) s cl x f l fr c q →
    ∃ t, exec (.fence o) s = .next t ∧ WroteCtx s t cl x fr c q)

-- Engines and synchronisation.

/-- R125 to R129, R132: an engine word whose descriptor passes, whose peers stand and whose sources are sealed starts
an operation: it takes the next number of its timeline, holds references on its source's entries and, into W, a
filling entry; no byte of memory or X changes at issue. The causes of a descriptor's traps are partly the model's
reading (log entry 40), and so are the references over the hull of the rows, and none for BSCAT's packed source (log entry 75). -/
def Obligations.EngineWordsStartOperations : Prop :=
  ∀ i o kd s k sl f l fr c g u v off b d, OnGroup i s k sl f l fr c g u → engineOf i = some (o, kd) → Settled s →
    u.contain = false → Uniform c c.a2 v → off = (v.setWidth 32).toNat → off % 64 = 0 → off + 64 ≤ u.xbytes →
    b = NatMap.getRange 0 (s.core u.core).x (u.xoff + off) 64 → d = descOf b → descOk kd u d = true →
    (∀ n ∈ destCores kd u, peerOn s u n = true) → sealSrc kd s u d = none → sealDst kd s u d = none →
    SoundAt (s.core u.core).badX (u.xoff + off) 64 → (∀ x ∈ s.engineOps, x.id < s.nextSeq) →
    ∃ t counted, exec i s = .next t ∧ (∀ a, homeByte t a = homeByte s a) ∧ (t.core u.core).x = (s.core u.core).x ∧
      t.engineOps = s.engineOps ++ [{
        id := s.nextSeq, kind := kd, uid := g.uid, func := u.func, core := u.core, xoff := off,
        desc := b, token := tokenReg o.s1, tl := opTimeline kd, num := (u.timeline (opTimeline kd)).i + 1, done := [],
        err := false, sat := false, waiting := none, shadow := [], own := [], pins := [], counted := counted }] ∧
      (t.core u.core).seals = (if kd ≠ .bscat ∧ d.sspace = 1 then
        referred (s.core u.core).seals (u.xoff + d.src) (srcLen kd d) else (s.core u.core).seals) ∧
      (t.cluster (u.core / 4)).ySeals = (if d.sspace = 3 ∧ kd ≠ .bscat then
        referred (s.cluster (u.core / 4)).ySeals d.src (srcLen kd d) else (s.cluster (u.core / 4)).ySeals) ∧
      (t.cluster (u.core / 4)).wSeals = (if d.dspace = 2 then
        (s.cluster (u.core / 4)).wSeals ++ [⟨d.dst, dstLen kd d, .filling, 0, none, false⟩]
        else (s.cluster (u.core / 4)).wSeals) ∧
      MemWord s t k sl fr c g u (fun v => v.setTimeline (opTimeline kd)
        { v.timeline (opTimeline kd) with i := (v.timeline (opTimeline kd)).i + 1 }) (fun _ => []) [] (clearsMark i)

/-- R132 to R134, R261: SEAL adds a sealed entry; RECLAIM makes the sealed entry that begins there reclaiming, and a reclaiming
entry without references goes at once, or later with its last reference. -/
def Obligations.SealEntriesLiveAndDie : Prop :=
  (∀ o s k sl f l fr c g u v w off len, OnGroup (.seal o) s k sl f l fr c g u → c.active ≠ [] → Uniform c c.a1 v →
    Uniform c c.a2 w → off = (v.setWidth 32).toNat → len = (w.setWidth 32).toNat → off % 256 = 0 → len % 256 = 0 → len ≠ 0 →
    off + len ≤ u.xbytes → (∀ e ∈ (s.core u.core).seals, overlaps e.start e.len (u.xoff + off) len = false) →
    (s.core u.core).seals.length < 32 → copyInto s u (u.xoff + off) len = false →
    ∃ t, exec (.seal o) s = .next t ∧ After (setSeals (tokenAcquire s u (.seal o)) (.x u.core)
      ((s.core u.core).seals ++ [⟨u.xoff + off, len, .sealed, 0, some g.uid, false⟩])) t k sl fr c g u) ∧
  (∀ o s k sl f l fr c g u v off tab a, OnGroup (.reclaim o) s k sl f l fr c g u → c.active ≠ [] → Uniform c c.a1 v →
    off = (v.setWidth 32).toNat → (o.x = 0 ∧ tab = .x u.core ∧ a = u.xoff + off ∧ off < u.xbytes) ∨
      (o.x = 1 ∧ tab = .w (u.core / 4) ∧ a = off) ∨ (o.x = 2 ∧ tab = .y (u.core / 4) ∧ a = off) →
    (∃ e ∈ sealsOf s tab, e.start = a ∧ e.state = .sealed) →
    ∃ t, exec (.reclaim o) s = .next t ∧ (∀ b, homeByte t b = homeByte s b) ∧ (∀ n, (t.core n).x = (s.core n).x) ∧
      sealsOf t tab = ((sealsOf s tab).map (fun e =>
        if e.start = a ∧ e.state = .sealed then { e with state := .reclaiming } else e)).filter (fun e =>
          !(e.state == .reclaiming && e.refs == 0)) ∧
      (∀ tab', tab' ≠ tab → sealsOf t tab' = sealsOf s tab') ∧ t.group? k sl = some { g with front := frontAfter fr c } ∧
      t.unit? g.uid = some (unitAfter u c)) ∧
  (∀ sp place start s tab, Reported s → tab = (match sp with
      | .x => SealTab.x place
      | .w => .w place
      | .y => .y place) →
    (∃ e ∈ sealsOf s tab, e.start = start ∧ e.state = .reclaiming ∧ e.refs = 0) →
    ∃ t, exec (.sealEntryRemove sp place start) s = .next t ∧ t.mem = s.mem ∧ t.home = s.home ∧ t.units = s.units ∧
      sealsOf t tab = (sealsOf s tab).filter (fun e => !(e.state == .reclaiming && e.refs == 0)))

/-- R135 to R137, R144: BAR parks the present threads while a thread of the unit has still to arrive, and with the last
arrival files every parked thread behind its BAR; BINIT and BEXP write the object's fields, and a BEXP whose sum passes 32 bits
traps; BWAIT goes on when PHASE differs, and parks otherwise. That 16 bytes are a barrier once a word or a credit has named them is
the model's reading, log entry 75. -/
def Obligations.BarrierWordsArriveAndWait : Prop :=
  (∀ o s k sl f l fr c g u, OnGroup (.bar o) s k sl f l fr c g u → Settled s →
    (∃ th ∈ u.live, th ∉ u.arrived ∧ ∀ m ∈ c.present, laneThread s c.agent m ≠ th) →
    ∃ t s1 u1, exec (.bar o) s = .next t ∧ Unfenced s s1 g.uid u u1 (c.present.map (laneThread s c.agent)) ∧
      Parks s1 t k sl fr c g { u1 with arrived := mergeAsc u.arrived (c.present.map (laneThread s c.agent)) } .bar) ∧
  (∀ o s k sl f l fr c g u, OnGroup (.bar o) s k sl f l fr c g u → Settled s → c.present ≠ [] →
    (∀ th ∈ u.live, th ∈ u.arrived ∨ ∃ m ∈ c.present, laneThread s c.agent m = th) →
    ∃ t u', exec (.bar o) s = .next t ∧ t.group? k sl = none ∧ t.unit? g.uid = some u' ∧ u'.arrived = [] ∧
      (∀ th, { u'.thread th with fence := (u.thread th).fence, fenceSys := (u.thread th).fenceSys } = u.thread th) ∧ u'.runs = u.runs + 1 ∧ (∀ p ∈ u'.parked, p.on ≠ .bar) ∧
      (∀ m ∈ c.present, Filed u' ⟨fr.pc + 8, none⟩ (laneThread s c.agent m)) ∧
      ∀ p ∈ u.parked, p.on = .bar → ∀ th ∈ p.threads, Filed u' ⟨p.pc + 8, none⟩ th) ∧
  (∀ o s k sl f l fr c g u v w a, OnGroup (.binit o) s k sl f l fr c g u → Uniform c c.a1 v → Uniform c c.a2 w →
    a = (v.setWidth 32).toNat → a % 16 = 0 → a + 16 ≤ u.xbytes → BarrierPlain s u.core (u.xoff + a) →
    barrierWaited s u.core (u.xoff + a) = false →
    ∃ t, exec (.binit o) s = .next t ∧ XWrote s t u.core
        [(u.xoff + a, leBytes 4 (w.setWidth 32).toNat ++ leBytes 4 0 ++ leBytes 4 0)] ∧
      (u.xoff + a) ∈ (t.core u.core).barriers ∧ (∀ b, homeByte t b = homeByte s b) ∧
      MemWord s t k sl fr c g u id (fun _ => []) [] false) ∧
  (∀ o s k sl f l fr c g u v w a, OnGroup (.bexp o) s k sl f l fr c g u → Uniform c c.a1 v → Uniform c c.a2 w →
    a = (v.setWidth 32).toNat → a % 16 = 0 → a + 16 ≤ u.xbytes → BarrierPlain s u.core (u.xoff + a) →
    let sum := xWord s u.core (u.xoff + a) + (w.setWidth 32).toNat
    (2 ^ 32 ≤ sum → fr.priv = false → (recOf s f l).trapentry ≠ 0 →
      exec (.bexp o) s = .next (setFront (runEnded (tokenAcquire s u (.bexp o)) (.group k sl) (.bexp o)) (.group k sl)
        (trapped (.group k sl) fr c (.bexp o) (recOf s f l).trapentry 0x0E (BitVec.ofNat 64 a) (laneMask c.present)))) ∧
    (sum < 2 ^ 32 → xWord s u.core (u.xoff + a + 4) < sum ∨ sum = 0 →
      ∃ t, exec (.bexp o) s = .next t ∧ XWrote s t u.core [(u.xoff + a, leBytes 4 sum)] ∧
        (u.xoff + a) ∈ (t.core u.core).barriers ∧ (∀ b, homeByte t b = homeByte s b) ∧
        MemWord s t k sl fr c g u id (fun _ => []) [] false) ∧
    (sum < 2 ^ 32 → sum ≠ 0 → sum ≤ xWord s u.core (u.xoff + a + 4) →
      ∃ t u', exec (.bexp o) s = .next t ∧ t.unit? g.uid = some u' ∧ XWrote s t u.core
          [(u.xoff + a, leBytes 4 0), (u.xoff + a + 4, leBytes 4 (xWord s u.core (u.xoff + a + 4) - sum)),
           (u.xoff + a + 8, leBytes 4 ((xWord s u.core (u.xoff + a + 8) + 1) % 2 ^ 32))] ∧
        ∀ p ∈ u.parked, p.on = .bwait a (BitVec.ofNat 32 (xWord s u.core (u.xoff + a + 8))) →
          ∀ th ∈ p.threads, Filed u' ⟨p.pc + 8, none⟩ th)) ∧
  (∀ o s k sl f l fr c g u v w a, OnGroup (.bwait o) s k sl f l fr c g u → Uniform c c.a1 v → Uniform c c.a2 w →
    a = (v.setWidth 32).toNat → a % 16 = 0 → a + 16 ≤ u.xbytes →
    let s1 := nameBarrier (tokenAcquire s u (.bwait o)) u.core (u.xoff + a)
    (xWord s u.core (u.xoff + a + 8) ≠ (w.setWidth 32).toNat →
      ∃ t, exec (.bwait o) s = .next t ∧ After s1 t k sl fr c g u) ∧
    (xWord s u.core (u.xoff + a + 8) = (w.setWidth 32).toNat →
      ∃ t, exec (.bwait o) s = .next t ∧ Parks s1 t k sl fr c g u (.bwait a (w.setWidth 32))))

/-- R138 to R140, R144: QINIT binds the queue and writes its header; QPUSH with an allowance enters its value at TAIL, and
parks without one; QPOP takes the value at HEAD into every active lane or the context's s-register, all ones from a closed
queue, and parks on an empty one. -/
def Obligations.QueueWordsPushAndPop : Prop :=
  (∀ o s k sl f l fr c g u v w x q a cap, OnGroup (.qinit o) s k sl f l fr c g u → Uniform c c.a1 v → Uniform c c.a2 w →
    Uniform c c.a3 x → q = (v.setWidth 32).toNat → a = (w.setWidth 32).toNat → cap = 2 ^ (o.x.toNat + 1) → q < 16 → u.live ≠ [] →
    (x.setWidth 32).toNat ≤ cap → a % 16 = 0 → a + 16 + 8 * cap ≤ u.xbytes → (∀ b, queueOf s u.func u.launch (u.core / 4) q = some b →
      xWord s b.core b.off = xWord s b.core (b.off + 4)) → sealHit s (.x u.core) (u.xoff + a) (16 + 8 * cap) anySeal = false →
    (∀ b ∈ (s.core u.core).barriers, overlaps b 16 (u.xoff + a) (16 + 8 * cap) = false) →
    (∀ b ∈ (s.cluster (u.core / 4)).queues, b.core = u.core → (b.func = u.func ∧ b.launch = u.launch ∧ b.q = q) ∨
      overlaps b.off 16 (u.xoff + a) (16 + 8 * cap) = false) → (∀ p, NoWaiters s u.func u.launch (u.core / 4) p) →
    ∃ t, exec (.qinit o) s = .next t ∧ XWrote s t u.core
        [(u.xoff + a, leBytes 4 0 ++ leBytes 4 0 ++ leBytes 4 (x.setWidth 32).toNat ++ leBytes 4 cap)] ∧
      (t.cluster (u.core / 4)).queues = (s.cluster (u.core / 4)).queues.filter (fun b =>
        !(b.func == u.func && b.launch == u.launch && b.q == q)) ++ [⟨u.func, u.launch, q, u.core, u.xoff + a, false, none⟩] ∧
      (∀ b, homeByte t b = homeByte s b) ∧ MemWord s t k sl fr c g u id (fun _ => []) [] false) ∧
  (∀ o s k sl f l fr c g u v w q b, OnGroup (.qpush o) s k sl f l fr c g u → Settled s → u.contain = false →
    Uniform c c.a1 v → Uniform c c.a2 w → q = (v.setWidth 32).toNat → QueueAt s u.func u.launch (u.core / 4) q b →
    b.core = u.core →
    (0 < xWord s u.core (b.off + 8) →
      ∃ t, exec (.qpush o) s = .next t ∧ XWrote s t u.core
          [(b.off + 16 + 8 * (xWord s u.core (b.off + 4) % xWord s u.core (b.off + 12)), leBytes 8 w.toNat),
           (b.off + 4, leBytes 4 ((xWord s u.core (b.off + 4) + 1) % 2 ^ 32)),
           (b.off + 8, leBytes 4 (xWord s u.core (b.off + 8) - 1))] ∧
        (∀ a, homeByte t a = homeByte s a) ∧ MemWord s t k sl fr c g u id (fun _ => []) [] true) ∧
    (xWord s u.core (b.off + 8) = 0 →
      ∃ t u', exec (.qpush o) s = .next t ∧ t.group? k sl = none ∧ t.unit? g.uid = some u' ∧ u'.runs = u.runs + 1 ∧
        u'.parked = u.parked ++ [⟨g.members.map Prod.snd, g.iv, fr.pc, .qpush q w, s.nextSeq⟩])) ∧
  (∀ o s k sl f l fr c g u v q b, OnGroup (.qpop o) s k sl f l fr c g u → Uniform c c.a1 v → q = (v.setWidth 32).toNat →
    QueueAt s u.func u.launch (u.core / 4) q b →
    (xWord s b.core b.off ≠ xWord s b.core (b.off + 4) →
      ∃ t, exec (.qpop o) s = .next t ∧ XWrote s t b.core [(b.off, leBytes 4 ((xWord s b.core b.off + 1) % 2 ^ 32)),
          (b.off + 8, leBytes 4 ((xWord s b.core (b.off + 8) + 1) % 2 ^ 32))] ∧ (t.core k).l1 = [] ∧
        ∃ u', t.unit? g.uid = some u' ∧ MemThreads s c u u' (fun _ => popRegs o (popped s b)) [] true) ∧
    (xWord s b.core b.off = xWord s b.core (b.off + 4) → b.closed = true →
      ∃ t, exec (.qpop o) s = .next t ∧ MemWord s t k sl fr c g u id (fun _ => popRegs o (BitVec.allOnes 64)) [] true) ∧
    (xWord s b.core b.off = xWord s b.core (b.off + 4) → b.closed = false →
      ∃ t u', exec (.qpop o) s = .next t ∧ t.group? k sl = none ∧ t.unit? g.uid = some u' ∧ u'.runs = u.runs + 1 ∧
        u'.parked = u.parked ++
          [⟨g.members.map Prod.snd, g.iv, fr.pc, .qpop q o.d (o.x == 1), s.nextSeq⟩])) ∧
  (∀ o s cl x f l fr c q b, OnQuartz (.qpop o) s cl x f l fr c q → QueueAt s f l cl (c.a1 0).toNat b →
    clusterUnitsExited s f l cl = false → xWord s b.core b.off ≠ xWord s b.core (b.off + 4) →
    ∃ t q', exec (.qpop o) s = .next t ∧ t.ctx? cl x = some q' ∧ q'.front = frontAfter fr c ∧
      { q' with front := q.front } = q.setSreg o.d.toNat (popped s b))

/-- R141 to R144: TWAIT goes on, with the core's L1 dropped, when its number has completed, and parks otherwise; TREAD gives
C or I; TOPK reads its descriptor and scores and starts an operation of the core's rank engine. -/
def Obligations.TimelineAndRankWords : Prop :=
  (∀ o s k sl f l fr c g u n, OnGroup (.twait o) s k sl f l fr c g u → Uniform c c.a2 n →
    let tl := timelineOf s u (litField o.s1)
    (n.toNat ≤ tl.c → (litField o.s1 < 3 → n.toNat ≤ tl.i) →
      ∃ t, exec (.twait o) s = .next t ∧ After (dropL1 (tokenAcquire s u (.twait o)) u.core) t k sl fr c g u) ∧
    (tl.c < n.toNat → (litField o.s1 < 3 → n.toNat ≤ tl.i) →
      ∃ t, exec (.twait o) s = .next t ∧
        Parks (tokenAcquire s u (.twait o)) t k sl fr c g u (.twait (litField o.s1) n.toNat))) ∧
  (∀ o s k sl f l fr c g u, OnGroup (.tread o) s k sl f l fr c g u → ∃ t, exec (.tread o) s = .next t ∧
    let tl := timelineOf s u (litField o.s1)
    let v : DWord := BitVec.ofNat 64 (if o.x.getLsbD 0 then tl.i else tl.c)
    WroteThreads (.tread o) s t k sl fr c g u [o.d.toNat] (fun _ => (o.d.toNat, v.setWidth 32) ::
      (if o.x.getLsbD 1 then [(o.d.toNat + 1, (v >>> 32).setWidth 32)] else []))) ∧
  (∀ o s k sl f l fr c g u v off (w : Nat → Nat), OnGroup (.topk o) s k sl f l fr c g u → Uniform c c.a1 v → c.active ≠ [] →
    off = (v.setWidth 32).toNat → off % 32 = 0 → off + 32 ≤ u.xbytes →
    (∀ i, w i = leNat (NatMap.getRange 0 (s.core u.core).x (u.xoff + off + 4 * i) 4)) → w 0 % 4 = 0 → w 1 % 4 = 0 →
    1 ≤ w 2 → w 2 ≤ 65536 → 1 ≤ w 3 → w 3 ≤ min (w 2) 4096 → w 5 = 0 → w 6 = 0 → w 7 = 0 → w 0 + 4 * w 2 ≤ u.xbytes →
    w 1 + 4 * w 3 ≤ u.xbytes →
    ∃ t g', exec (.topk o) s = .next t ∧ t.group? k sl = some g' ∧
      { g' with iv := g.iv } = { g with front := frontAfter fr c } ∧ t.unit? g.uid = some (unitAfter u c) ∧
      { t with groups := s.groups, units := s.units, topks := s.topks } = tokenAcquire s u (.topk o) ∧
      t.topks = s.topks ++ [{
        core := u.core, uid := g.uid, threads := c.active.map (laneThread s c.agent), d := o.d,
        ty := o.x.toNat % 4, minDir := o.x.getLsbD 2, dst := u.xoff + w 1, k := w 3, ibase := BitVec.ofNat 32 (w 4),
        scores := (List.range (w 2)).map (fun i =>
          BitVec.ofNat 32 (leNat (NatMap.getRange 0 (s.core u.core).x (u.xoff + w 0 + 4 * i) 4))) }])

-- The matrix path.

/-- R155, R157 to R159, R163, R164, R170: MMA, MMAS, MZERO, MLDM, MDRAIN and MQNT whose operand words pass their checks are
posted; MQNT also enters its destination in its core's X seal table, filling. A pass holds references on what it reads by R151 to
R154 and R168; that A's range is the span of its rows is the model's reading, log entry 41. -/
def Obligations.MatrixWordsPost : Prop :=
  (∀ i o sparse s cl x f l fr c q xa cost, OnQuartz i s cl x f l fr c q → (i = .mma o ∧ sparse = false) ∨
    (i = .mmas o ∧ sparse = true) → cost = 2 ^ (bits o.d 7 2).toNat * (((xHandle (c.a1 0)).rows + 256) / 256) →
    PassOk s cl q (recOf s f l) sparse o (c.a1 0) (c.a2 0) (c.a3 0) xa → Postable s cl x q cost →
    ∃ t, exec i s = .next t ∧ PostedOp s t cl x fr c q cost (c.a1 0) (c.a2 0) (c.a3 0)
      (passReads cl (recOf s f l) sparse o (c.a1 0) (c.a2 0) xa) id) ∧
  (∀ i o s cl x f l fr c q y, OnQuartz i s cl x f l fr c q → i = .mzero o ∨ (i = .mdrain o ∧
      yTaken s cl < 32 ∧ failedHit q y.yoff (512 * (y.rows + 1)) = none) → y = yHandle (c.a1 0) →
    yFits y (y.rows + 1) = true → y.int = false → y.ncol = 0 → y.acc = false →
    sealHit s (.y cl) y.yoff (512 * (y.rows + 1)) anySeal = false → Postable s cl x q 0 →
    ∃ t, exec i s = .next t ∧ PostedOp s t cl x fr c q 0 (c.a1 0) 0 0 [] id) ∧
  (∀ o s cl x f l fr c q a p e, OnQuartz (.mldm o) s cl x f l fr c q → a = xHandle (c.a1 0) → a.mbz = 0 → a.pitch = 0 →
    a.rows = 0 → a.xoff % 256 = 0 → xPlace s cl q a.core a.xoff 4096 = some p →
    entryAt s (.x (4 * cl + a.core)) p true = some e → p + 4096 ≤ e.start + e.len → Postable s cl x q 0 →
    ∃ t, exec (.mldm o) s = .next t ∧ PostedOp s t cl x fr c q 0 (c.a1 0) 0 0 [(.x (4 * cl + a.core), p, 4096)] id) ∧
  (∀ o s cl x f l fr c q a y p len v, OnQuartz (.mqnt o) s cl x f l fr c q → a = xHandle (c.a1 0) → y = yHandle (c.a2 0) →
    len = (16 * a.pitch * (y.rows + 1) + 255) / 256 * 256 → a.mbz = 0 → a.pitch ≠ 0 → a.rows = 0 → a.xoff % 256 = 0 →
    packedBytes (slotWidth (slotFormat (slotOf (recOf s f l) o.x.toNat))) (y.ncol + 1) ≤ 16 * a.pitch →
    xPlace s cl q a.core a.xoff len = some p → yFits y (y.rows + 1) = true → y.acc = false →
    slotScale (slotOf (recOf s f l) o.x.toNat) = 0 → sealHit s (.x (4 * cl + a.core)) p len anySeal = false →
    sealHit s (.y cl) y.yoff (512 * (y.rows + 1)) anySeal = false → (s.core (4 * cl + a.core)).seals.length < 32 →
    failedHit q y.yoff (512 * (y.rows + 1)) = none → v = (match o.s3 with
      | .lit n => BitVec.ofNat 64 (roundTo fp32 .rne (FVal.ofInt n.toInt))
      | _ => ((c.a3 0).setWidth 32).setWidth 64) → Postable s cl x q 0 →
    ∃ t, exec (.mqnt o) s = .next t ∧ PostedOp s t cl x fr c q 0 (c.a1 0) (c.a2 0) v []
      (fun st => setSeals st (.x (4 * cl + a.core))
        (sealsOf st (.x (4 * cl + a.core)) ++ [⟨p, len, .filling, 0, none, false⟩])))

/-- R165, R166: MSCL sets SCA and SCB; MCHK gives CHKST, EBUD, C, I or the context's place, waits under .sync until C is I,
and under .clr clears CHKST and the failed range. R155, R157, R168: a granted operation completes, leaves the table, and its
number completes on the context's timeline; at a microsecond boundary every context's budget grows by EBREF up to EBCAP of its
partition, or those of PFEB (R342). That MSCL checks one byte at
the base of its X range at issue, and that a granted operation counts in the table until it completes, is the model's reading
(log entry 41). That cluster n stands on die n / 16 is log entry 65, the model's numbering. -/
def Obligations.MatrixStatusAndCompletion : Prop :=
  ((∀ o s cl x f l fr c q a p, OnQuartz (.mscl o) s cl x f l fr c q → a = xHandle (c.a1 0) → a.mbz = 0 → a.pitch = 0 →
    a.rows = 0 → a.xoff % 256 = 0 → xPlace s cl q a.core a.xoff 1 = some p → bits (c.a2 0) 22 42 = 0 →
    (c.a2 0).toNat % 256 = 0 →
    ∃ t, exec (.mscl o) s = .next t ∧ WroteCtx s t cl x fr c { q with sca := c.a1 0, scb := c.a2 0 }) ∧
  (∀ o s cl x f l fr c q v, OnQuartz (.mchk o) s cl x f l fr c q → (o.x = 5 → q.tl.c = q.tl.i) →
    v = [q.chkst.toNat, q.chkst.toNat, q.ebud.toNat, q.tl.c, q.tl.i, q.tl.c].getD o.x.toNat
      (x + 2 ^ 8 * cl + 2 ^ 16 * (cl / 16)) →
    ∃ t q1, exec (.mchk o) s = .next t ∧ (o.x ≠ 1 → q1 = q) ∧ (o.x = 1 → q1 = { q with chkst := 0, failed := none }) ∧
      WroteCtx s t cl x fr c (q1.setSreg o.d.toNat (BitVec.ofNat 64 v))) ∧
  (∀ o s cl x f l fr c q, OnQuartz (.mchk o) s cl x f l fr c q → o.x = 5 → q.tl.c ≠ q.tl.i → exec (.mchk o) s = .next s)) ∧
  ((∀ s cl seq m q, Reported s →
    (s.cluster cl).table.find? (fun y => decide (8 * y.num + y.ctx = seq) && y.granted) = some m → s.ctx? cl m.ctx = some q →
    ∃ t q', exec (.matrixOperationComplete cl seq) s = .next t ∧ (t.cluster cl).table = (s.cluster cl).table.erase m ∧
      t.ctx? cl m.ctx = some q' ∧ { q' with tl := q.tl } = q ∧ q'.tl.i = q.tl.i ∧
      (m.num = q.tl.c + 1 → m.num ≤ q'.tl.c) ∧ t.mem = s.mem ∧ t.home = s.home) ∧
  (∀ s, Reported s → s.clock % 1400 = 0 → s.refilled ≠ s.clock / 1400 + 1 →
    ∃ t, exec .ebudRefill s = .next t ∧ { t with ctxs := s.ctxs, refilled := s.refilled } = s ∧
      ∀ cl x, x < 8 → t.ctx? cl x = (s.ctx? cl x).map (fun q =>
        let p := s.part (s.fcfgOf q.func).part
        let ref := if q.func = 0 then s.pfebRef else p.ebref
        let cap := if q.func = 0 then s.pfebCap else p.ebcap
        { q with ebud := BitVec.ofNat 32 (min (q.ebud.toNat + ref.toNat) cap.toNat) })))

/-- R156, R160, R163, R167: the granted operation performs. MZERO clears its Y rows; MLDM copies 4,096 bytes of X into
its m-register; MDRAIN enters its rows in the Y seal table; MQNT writes each element of its rows, converted as R164 says, and no
other byte of any X, W or Y; a floating pass leaves in each accumulator what R160 and R275 give, an integer pass adds the exact dot
products, wrapped to 32 bits, and both leave the columns past N and every X. Details of the passes are the model's reading (log
entry 41). -/
def Obligations.MatrixGrantPerforms : Prop :=
  (∀ s cl m o y, Grants s cl m → m.instr = some (.mzero o) → y = yHandle m.o1 →
    ∃ t, exec (.matrixGrant cl []) s = .next t ∧ ∀ a, NatMap.get 0 (t.cluster cl).y a =
      if y.yoff ≤ a ∧ a < y.yoff + 512 * (y.rows + 1) then 0 else NatMap.get 0 (s.cluster cl).y a) ∧
  (∀ s cl m o q, Grants s cl m → m.instr = some (.mldm o) → s.ctx? cl m.ctx = some q →
    ∃ t q', exec (.matrixGrant cl []) s = .next t ∧ t.ctx? cl m.ctx = some q' ∧ { q' with m := q.m } = q ∧
      ∀ b, b < 4096 → NatMap.get 0 q'.m (4096 * (o.d.toNat % 16) + b) =
        NatMap.get 0 (s.core (4 * cl + (xHandle m.o1).core)).x (opBase s cl m (xHandle m.o1).core + (xHandle m.o1).xoff + b)) ∧
  (∀ s cl m o y, Grants s cl m → m.instr = some (.mdrain o) → y = yHandle m.o1 →
    ∃ t, exec (.matrixGrant cl []) s = .next t ∧ (t.cluster cl).y = (s.cluster cl).y ∧ (t.cluster cl).ySeals =
      (s.cluster cl).ySeals ++ [⟨y.yoff, 512 * (y.rows + 1), .filling, 0, none, false⟩]) ∧
  (∀ s cl m o core, Grants s cl m → m.instr = some (.mqnt o) → core = 4 * cl + (xHandle m.o1).core →
    (xHandle m.o1).core < 4 → (quantRow s cl m 0).2 ≤ 16 * (xHandle m.o1).pitch → fmtOf (m.slots s).1 < 12 →
    (∀ i, i ≤ (yHandle m.o2).rows → (∀ b ∈ (s.core core).barriers, overlaps b 16 (quantRow s cl m i).1 (quantRow s cl m i).2 = false) ∧
      ∀ b ∈ (s.cluster cl).queues, b.core = core → overlaps b.off 16 (quantRow s cl m i).1 (quantRow s cl m i).2 = false) →
    ∃ t, exec (.matrixGrant cl []) s = .next t ∧ t.mem = s.mem ∧ t.home = s.home ∧
      (∀ n, (t.cluster n).y = (s.cluster n).y ∧ (t.cluster n).w = (s.cluster n).w) ∧ (∀ n, n ≠ core → t.core n = s.core n) ∧
      (∀ a, (∀ i, i ≤ (yHandle m.o2).rows → a < (quantRow s cl m i).1 ∨ (quantRow s cl m i).1 + (quantRow s cl m i).2 ≤ a) →
        NatMap.get 0 (t.core core).x a = NatMap.get 0 (s.core core).x a) ∧
      ∀ i j, i ≤ (yHandle m.o2).rows → j ≤ (yHandle m.o2).ncol →
        packedElem (NatMap.get 0 (t.core core).x) (quantRow s cl m i).1 (widthOf (fmtOf (m.slots s).1)) j = quantElem s cl m i j) ∧
  (∀ s cl m, Grants s cl m → m.isPass = true → ∃ t, exec (.matrixGrant cl []) s = .next t ∧ t.mem = s.mem ∧
    t.home = s.home ∧ t.cores = s.cores ∧
    (∀ a, a < (yHandle m.o3).yoff ∨ (yHandle m.o3).yoff + 512 * ((xHandle m.o1).rows + 1) ≤ a ∨
        4 * (bWord m.o2).n ≤ (a - (yHandle m.o3).yoff) % 512 →
      NatMap.get 0 (t.cluster cl).y a = NatMap.get 0 (s.cluster cl).y a) ∧
    (isIntFmt (slotFormat (m.slots s).1) = true → ∀ i j, i ≤ (xHandle m.o1).rows → j < (bWord m.o2).n →
      BitVec.ofNat 32 (yElem t cl (yHandle m.o3).yoff i j) = BitVec.ofInt 32 (intDot s cl m i j +
        (if (yHandle m.o3).acc then (BitVec.ofNat 32 (yElem s cl (yHandle m.o3).yoff i j)).toInt else 0))) ∧
    (isIntFmt (slotFormat (m.slots s).1) = false → slotFormat (m.slots s).1 < 12 → slotFormat (m.slots s).2 < 12 →
      isIntFmt (slotFormat (m.slots s).2) = false → ∀ i j, i ≤ (xHandle m.o1).rows → j < (bWord m.o2).n →
      yElem t cl (yHandle m.o3).yoff i j =
        floatPass s cl m i j (if (yHandle m.o3).acc then yElem s cl (yHandle m.o3).yoff i j else 0)))

-- Ranges and work handles.

/-- R178 to R180: RINIT sends its request to the launch's range engine and goes on; the engine's oldest request is performed:
an RINIT sets its entry, unless it is .once and the entry is set. RGRAB sends a request and holds its group; the reply takes
max(MIN, ceil(rem / 2P)) of what remains, gives start and length to every present lane, clears the region marks (R186), and the
group goes on at the next word; a request whose group has gone changes nothing else. That the marks are those of every thread of
the group is the model's reading (log entry 37). -/
def Obligations.RangeWordsShareWork : Prop :=
  (∀ o s k sl f l fr c g u v w d, OnGroup (.rinit o) s k sl f l fr c g u → Uniform c c.a2 v → Uniform c c.a3 w →
    bits w 0 16 ≠ 0 → bits w 16 16 ≠ 0 → d = rangeDie s u.func u.launch →
    ∃ t, exec (.rinit o) s = .next t ∧ After ((tokenAcquire s u (.rinit o)).modDie d (fun x => { x with
      rangeReqs := x.rangeReqs ++ [.init u.func u.launch (litField o.s1) (v.setWidth 32) (w.setWidth 32) (o.x == 1)] }))
      t k sl fr c g u) ∧
  (∀ s die f l q total pm once r ls, Reported s → (s.die die).rangeReqs = .init f l q total pm once :: r →
    launchOf s f l = some ls →
    ∃ t, exec (.rinitPerform die) s = .next t ∧ (t.die die).rangeReqs = r ∧
      launchOf t f l = some (if once && (NatMap.get none ls.ranges q).isSome then ls else { ls with
        ranges := NatMap.set none ls.ranges q (some ⟨total.toNat, (bits pm 0 16).toNat, (bits pm 16 16).toNat, 0⟩) }) ∧
      { t with dies := s.dies, funcs := s.funcs } = s) ∧
  (∀ o s k sl f l fr c g u d, OnGroup (.rgrab o) s k sl f l fr c g u → d = rangeDie s u.func u.launch →
    ∃ t, exec (.rgrab o) s = .next t ∧ t.group? k sl = some { g with front := { fr with hold := some (.range d) } } ∧
      (t.die d).rangeReqs = (s.die d).rangeReqs ++ [.grab k sl g.uid (litField o.s1) o.d c.word] ∧
      { t with dies := s.dies, groups := s.groups } = s) ∧
  (∀ s die k sl uid q d w r, Reported s → (s.die die).rangeReqs = .grab k sl uid q d w :: r →
    (∀ g, s.group? k sl = some g → g.uid ≠ uid ∨ ∀ n, g.front.hold ≠ some (.range n)) →
    exec (.rgrabReply die) s = .next (s.modDie die (fun x => { x with rangeReqs := r }))) ∧
  (∀ s die k sl q w r g u o ls e start len d, Reported s → NatMap.wf none g.lanes = true → g.front.hold = some (.range d) →
     (s.die die).rangeReqs = .grab k sl g.uid q o.d w :: r →
    decode w = .word (.rgrab o) → o.g.en = false → s.group? k sl = some g → s.unit? g.uid = some u → u.stopping = false →
    launchOf s u.func u.launch = some ls → NatMap.get none ls.ranges q = some e → start = e.next →
    len = (if e.total - e.next = 0 then 0 else min (e.total - e.next)
      (max e.min ((e.total - e.next + 2 * e.p - 1) / (2 * e.p)))) → e.p ≠ 0 →
    ∃ t g' u', exec (.rgrabReply die) s = .next t ∧ (t.die die).rangeReqs = r ∧ t.group? k sl = some g' ∧
      g'.lanes = g.lanes ∧ g'.front.hold = none ∧ g'.front.pc = g.front.pc + 8 ∧ t.unit? g.uid = some u' ∧
      (∀ p ∈ g.members, (u'.thread p.2).reg o.d.toNat = BitVec.ofNat 32 start ∧
        (u'.thread p.2).reg (o.d.toNat + 1) = BitVec.ofNat 32 len) ∧
      (∀ th n, n ≠ o.d.toNat → n ≠ o.d.toNat + 1 → (u'.thread th).reg n = (u.thread th).reg n) ∧
      (∀ th, (u'.thread th).mark = if ∃ p ∈ g.members, p.2 = th then none else (u.thread th).mark) ∧
      launchOf t u.func u.launch = some { ls with
        ranges := NatMap.set none ls.ranges q (some { e with next := e.next + len }) })

/-- R181 to R186: LNCH gives a waiting device-launched node its argument, does nothing to a node of a cancelled graph, and raises
the work-handle trap for one that waits for no LNCH; CNTW goes on when its object has ended or, under
.ge, has counted enough, having acquired at package scope (R243), and parks otherwise; CNCL marks a live object cancelled, closed, at once; each of them does nothing
to a retired object, of which DLREAD gives only how it ended; IDEM sets and clears the region marks of the present threads. -/
def Obligations.WorkHandleWords : Prop :=
  (∀ o s k sl f l fr c g u h v i ob ls, OnGroup (.lnch o) s k sl f l fr c g u → Settled s → u.contain = false →
    Uniform c c.a1 h → Uniform c c.a2 v → lookupHandle s f h = .live .launch i ob → launchOf s f i = some ls →
    ls.devlnch = true → ls.arg = none →
    (∀ q, objOf s f .graph ls.obj.parent = some q → q.gen = ls.obj.parentGen → q.cancelAt = none) →
    ∃ t, exec (.lnch o) s = .next t ∧ launchOf t f i = some { ls with arg := some v } ∧
      (∀ a, homeByte t a = homeByte s a) ∧ (t.core u.core).x = (s.core u.core).x ∧
      MemWord s t k sl fr c g u id (fun _ => []) [] true) ∧
  (∀ o s k sl f l fr c g u h v i ob ls, OnGroup (.lnch o) s k sl f l fr c g u → Settled s → u.contain = false →
    Uniform c c.a1 h → Uniform c c.a2 v → lookupHandle s f h = .live .launch i ob → launchOf s f i = some ls →
    ((∃ q, objOf s f .graph ls.obj.parent = some q ∧ q.gen = ls.obj.parentGen ∧ q.cancelAt ≠ none) →
      ∃ t, exec (.lnch o) s = .next t ∧ launchOf t f i = some ls ∧ (∀ a, homeByte t a = homeByte s a) ∧
        MemWord s t k sl fr c g u id (fun _ => []) [] true) ∧
    ((∀ q, objOf s f .graph ls.obj.parent = some q → q.gen = ls.obj.parentGen → q.cancelAt = none) →
      ls.devlnch = false ∨ ls.arg ≠ none → fr.priv = false → (recOf s f l).trapentry ≠ 0 →
      exec (.lnch o) s = .next (setFront (runEnded (tokenAcquire s u (.lnch o)) (.group k sl) (.lnch o)) (.group k sl)
        (trapped (.group k sl) fr c (.lnch o) (recOf s f l).trapentry 0x12 h (laneMask c.present))))) ∧
  (∀ o s k sl f l fr c g u h v b, OnGroup (.lnch o) s k sl f l fr c g u → Settled s → u.contain = false →
    Uniform c c.a1 h → Uniform c c.a2 v → lookupHandle s f h = .retired b →
    ∃ t, exec (.lnch o) s = .next t ∧ { t with units := s.units, groups := s.groups, cores := s.cores } = s ∧
      MemWord s t k sl fr c g u id (fun _ => []) [] true) ∧
  (∀ o s k sl f l fr c g u h v n, OnGroup (.cntw o) s k sl f l fr c g u → Uniform c c.a1 h → (o.x = 0 → Uniform c c.a2 v) →
    n = (match o.s2 with
      | .lit m => (m.signExtend 32).toNat
      | _ => (c.a2 c.lowP).toNat) →
    (((∃ b, lookupHandle s f h = .retired b) ∨ ∃ lv i ob, lookupHandle s f h = .live lv i ob ∧
        (o.x = 1 → containsLaunch s f l lv i = false) ∧ (ob.ended = true ∨ (o.x = 0 ∧ n ≤ ob.count))) →
      ∃ t, exec (.cntw o) s = .next t ∧ After (acquirePackage (tokenAcquire s u (.cntw o)) k) t k sl fr c g u) ∧
    (∀ lv i ob, lookupHandle s f h = .live lv i ob → (o.x = 1 → containsLaunch s f l lv i = false) → ob.ended = false →
      (o.x = 0 → ob.count < n) →
      ∃ t, exec (.cntw o) s = .next t ∧
        Parks (tokenAcquire s u (.cntw o)) t k sl fr c g u (.cntw h n (o.x == 1)))) ∧
  (∀ o s cl x f l fr c q b, OnQuartz (.cntw o) s cl x f l fr c q → lookupHandle s f (c.a1 0) = .retired b →
    ∃ t, exec (.cntw o) s = .next t ∧ WroteCtx s t cl x fr c q) ∧
  (∀ o s cl x f l fr c q n lv i ob, OnQuartz (.cntw o) s cl x f l fr c q → lookupHandle s f (c.a1 0) = .live lv i ob →
    n = (match o.s2 with
      | .lit m => (m.signExtend 32).toNat
      | _ => (c.a2 0).toNat) → (o.x = 1 → containsLaunch s f l lv i = false) →
    (ob.ended = true ∨ (o.x = 0 ∧ n ≤ ob.count) → ∃ t, exec (.cntw o) s = .next t ∧ WroteCtx s t cl x fr c q) ∧
    (ob.ended = false → (o.x = 0 → ob.count < n) → ∃ t, exec (.cntw o) s = .next t ∧
      { t with ctxs := s.ctxs, nextSeq := s.nextSeq } = s ∧ t.ctx? cl x = some { q with
        front := frontAt fr fr.pc, park := some ⟨[0], [], fr.pc, .cntw (c.a1 0) n (o.x == 1), s.nextSeq⟩ })) ∧
  (∀ o s k sl f l fr c g u h b, OnGroup (.cncl o) s k sl f l fr c g u → u.contain = false → Uniform c c.a1 h →
    lookupHandle s f h = .retired b →
    ∃ t, exec (.cncl o) s = .next t ∧ { t with units := s.units, groups := s.groups, cores := s.cores } = s ∧
      MemWord s t k sl fr c g u id (fun _ => []) [] true) ∧
  (∀ o s k sl f l fr c g u h lv i ob, OnGroup (.cncl o) s k sl f l fr c g u → u.contain = false → Uniform c c.a1 h →
    lookupHandle s f h = .live lv i ob → ob.ended = false → ob.cancelAt = none →
    (lv = .launch → ∀ ls, launchOf s f i = some ls → launchFinished s f i ls = false) →
    ∃ t, exec (.cncl o) s = .next t ∧ objOf t f lv i =
        some { ob with asked := some (ob.asked.getD s.clock), cancelAt := some s.clock, closed := true } ∧
      t.mem = s.mem ∧ t.home = s.home ∧ t.cores = (tokenAcquire s u (.cncl o)).cores ∧
      (lv = .launch → ∀ n v, s.unit? n = some v → v.func = f → v.launch = i → ∃ v', t.unit? n = some v' ∧ v'.stopping = true)) ∧
  (∀ o s k sl f l fr c g u h v, OnGroup (.dlread o) s k sl f l fr c g u → Uniform c c.a1 h →
    ((∃ lv i ob, lookupHandle s f h = .live lv i ob ∧ v = [dlRem s.clock ob, ob.events % 2 ^ 32,
        [ObjState.pending, .running, .complete, .cancelled].idxOf ob.st + (if ob.expired then 16 else 0),
        ob.count % 2 ^ 32].getD o.x.toNat 0) ∨
      (∃ b, lookupHandle s f h = .retired b ∧ v = if o.x = 2 then (if b then 3 else 2) else 0)) →
    ∃ t, exec (.dlread o) s = .next t ∧
      WroteThreads (.dlread o) s t k sl fr c g u [o.d.toNat] (fun _ => [(o.d.toNat, BitVec.ofNat 32 v)])) ∧
  (∀ o s k sl f l fr c g u, OnGroup (.idem o) s k sl f l fr c g u → ∃ t u', exec (.idem o) s = .next t ∧
    OnlyGroup (.idem o) s t k sl g u ∧ t.group? k sl = some { g with front := frontAfter fr c } ∧
    t.unit? g.uid = some u' ∧ { u' with threads := u.threads } = unitAfter u c ∧
    ∀ th, { u'.thread th with mark := (u.thread th).mark } = u.thread th ∧ (u'.thread th).mark =
      if ∃ m ∈ c.present, laneThread s c.agent m = th then (if o.x = 0 then some fr.pc else none) else (u.thread th).mark)

-- Homes.

/-- R238 to R241, R282 to R288, R292, R251: what homes and holders of copies do. A read leaves the home's bytes as
they are and makes a visitor a tracked holder whose fill is queued; a write, a reduction or a contribution that is
performed changes the bytes that it names, and lets go what waited for it (R236); a registration, which the collector of its
die notes, and a clean change none; a fill, an applied write, a dropped
copy and a moved partial change the holder that they name; a merge that meets an error poisons the line, with a record (R294). When a home serves, and the predecessor sets that stand for
vector clocks, are the model's (log entries 25 and 55). -/
def Obligations.HomesServeRequests : Prop :=
  ((∀ s pa d who, who = .die d ∨ (∃ k, who = .core k ∧ dieOfCore k = d) → Reported s → populated pa = true → homeOf s pa < 4 → poisoned s pa = false → d < 4 → d ≠ homeOf s pa →
    holds s d (secOf pa) = false → (dirOf s (secOf pa)).st ≠ .u → L2Room s 0 →
    ∃ t, exec (.homeReadRequest pa who) s = .next t ∧ (∀ a, homeByte t a = homeByte s a) ∧
      (dirOf t (secOf pa)).st = .s ∧ (dirOf t (secOf pa)).dies.getLsbD d = true ∧
      (t.die d).fills.contains (secOf pa) = true ∧
      { t with home := s.home, dir := s.dir, dies := s.dies } = s) ∧
  (∀ s pa who, who = .die (homeOf s pa) ∨ (who = .host ∧ s.boot.h1c = false) → Reported s → populated pa = true →
    homeOf s pa < 4 → poisoned s pa = false → ((dirOf s (secOf pa)).st = .u → SoundParts s (secOf pa)) → L2Room s 0 →
    ∃ t, exec (.homeReadRequest pa who) s = .next t ∧ (dirOf t (secOf pa)).st ≠ .i ∧ (dirOf t (secOf pa)).st ≠ .u ∧
      t.mem = s.mem ∧ ((dirOf s (secOf pa)).st ≠ .u → ∀ a, homeByte t a = homeByte s a)) ∧
  (∀ s pa d k x p, Reported s → populated pa = true → homeOf s pa < 4 → poisoned s pa = false → d < 4 → k < 4 →
    holds s d (secOf pa) = false → (dirOf s (secOf pa)).st = .u → collectorOf s k (secOf pa) = some x → x.part = some p → p.bad = true →
    ∃ s1 r, exec (.homeReadRequest pa (.die d)) s = .next (writeReport s1 r) ∧ r.cls = 3 ∧ r.cause = 3 ∧
      r.pa = some (256 * lineOf pa) ∧ r.len = 256 ∧
      (∀ i, i < 4 → s1.poison.contains (4 * lineOf pa + i) = true ∧ (dirOf s1 (4 * lineOf pa + i)).st = .m)) ∧
  (∀ s q data, Performs s q → q.kind = .write data → q.pa % 64 + data.length ≤ 64 →
    ∃ t, exec (.homeWriteRequest q.id) s = .next t ∧ SentGone s t q.id ∧
      ∀ a, homeByte t a = storesAt [(q.pa, data)] (homeByte s a) a) ∧
  (∀ s q op sz val w n, Performs s q → q.kind = .red op sz val → op < 6 → sz.toNat < 4 → n = rmwWidth sz / 8 →
    q.pa % 64 + n ≤ 64 → newOf op sz (BitVec.ofNat 64 (leNat (homeBytes s q.pa n))) val 0 = some w →
    ∃ t, exec (.homeAtomic q.id) s = .next t ∧ SentGone s t q.id ∧
      ∀ a, homeByte t a = storesAt [(q.pa, leBytes n w.toNat)] (homeByte s a) a) ∧
  (∀ s q tag val w, Performs s q → q.kind = .upd tag val → q.pa % 64 + tagSize tag ≤ 64 →
    w = combine tag (BitVec.ofNat 64 (leNat (homeBytes s q.pa (tagSize tag)))) val →
    ∃ t, exec (.homeAtomic q.id) s = .next t ∧ SentGone s t q.id ∧
      ∀ a, homeByte t a = storesAt [(q.pa, leBytes (tagSize tag) w.toNat)] (homeByte s a) a) ∧
  (∀ s q tag core e, Performs s q → homeOf s q.pa < 4 → NoThrough s → q.kind = .register tag core → e = dirOf s (secOf q.pa) →
    (sliceCollectors s (dieOfCore core) (secOf q.pa)).contains (secOf q.pa / 4) = true ∨
      (sliceCollectors s (dieOfCore core) (secOf q.pa)).length < 256 →
    ∃ t e' k, exec (.updRegistration q.id) s = .next t ∧ SentGone s t q.id ∧
      collectorOf t (dieOfCore core) (secOf q.pa) = some k ∧ k.clus.getLsbD (core / 4 % 16) = true ∧
      k.part = (collectorOf s (dieOfCore core) (secOf q.pa)).bind (·.part) ∧
      e' = dirOf t (secOf q.pa) ∧ e'.st = .u ∧ e'.tag = tag ∧ e'.dirty = (e.st != .i && (e.dirty || e.st == .m)) ∧
      (if dieOfCore core = homeOf s q.pa then e'.clus.getLsbD (core / 4 % 16) else e'.dies.getLsbD (dieOfCore core)) = true ∧
      ∀ a, homeByte t a = homeByte s a) ∧
  (∀ s q e, Performs s q → homeOf s q.pa < 4 → NoThrough s → q.kind = .clean true → e = dirOf s (secOf q.pa) →
    e.st = .m ∨ (e.st = .s ∧ e.dirty = true) →
    ∃ t, exec (.homeCwb q.id) s = .next t ∧ SentGone s t q.id ∧
      (∀ a, homeByte t a = homeByte s a) ∧ (∀ a, secOf a = secOf q.pa → NatMap.get 0 t.mem a =
        if isHost (64 * secOf q.pa) = false ∨ NatMap.get false s.hostDirty a = true then homeByte s a else NatMap.get 0 s.mem a) ∧
      dirOf t (secOf q.pa) = { e with st := if e.st = .m then .e else .s, dirty := false })) ∧
  ((∀ s d line i, Reported s → d < 4 → i < 4 → homeOf s (256 * line) ≠ 4 → (dirOf s (4 * line + i)).st = .s →
    (dirOf s (4 * line + i)).dies.getLsbD d = true → holds s d (4 * line + i) = false →
    (∀ j, j < 4 → (s.die d).fills.contains (4 * line + j) = false) →
    ∃ t, exec (.dropNotice d line) s = .next t ∧ (dirOf t (4 * line + i)).dies.getLsbD d = false ∧
      (∀ a, homeByte t a = homeByte s a) ∧ { t with dir := s.dir, performed := s.performed, follows := s.follows } = s) ∧
  (∀ s d line, Reported s → d < 4 → homeOf s (256 * line) = 4 → (NatMap.get 0 s.hostHeld line).getLsbD d = true →
    (∀ j, j < 4 → holds s d (4 * line + j) = false ∧ (s.die d).fills.contains (4 * line + j) = false) →
    ∃ t, exec (.dropNotice d line) s = .next t ∧ (NatMap.get 0 t.hostHeld line).getLsbD d = false ∧
      { t with hostHeld := s.hostHeld, performed := s.performed, follows := s.follows } = s) ∧
  (∀ s d h w, Reported s → d < 4 → h < 4 → s.performed.find? (fun w => w.pending.contains d && homeOf s w.pa == h) = some w →
    appliedAt s d (w.preds.filter (fun i => i != w.id)) = true → holds s d (secOf w.pa) = true →
    ∃ t, exec (.writeApply d h) s = .next t ∧ { t with performed := s.performed, follows := s.follows, dies := s.dies } = s ∧
      (∀ n, n ≠ d → t.die n = s.die n) ∧ (∀ a, NatMap.get 0 (t.die d).view a =
        storesAt [(w.pa, w.data)] (NatMap.get 0 (s.die d).view a) a) ∧
      ((∀ v ∈ s.performed, v.pending.Nodup) → ∀ v ∈ t.performed, v.id = w.id → d ∉ v.pending)) ∧
  (∀ s d line q, Reported s → d < 4 → s.performed = [] → q ∈ (s.die d).fills → q / 4 = line →
    ∃ t, exec (.lineFill d line) s = .next t ∧ holds t d q = true ∧ { t with dies := s.dies, follows := s.follows } = s ∧
      ((t.die d).bad.contains q = true ↔ s.poison.contains q = true ∨ (s.die d).bad.contains q = true) ∧ ∀ a, secOf a = q → NatMap.get 0 (t.die d).view a =
        if homeOf s (64 * q) = 4 then NatMap.get 0 s.mem a else homeByte s a) ∧
  (∀ s k sec x, Reported s → NatMap.get none (s.core k).l1 sec = some x →
    ∃ t, exec (.l1CopyExpire k sec) s = .next t ∧ { t with cores := s.cores } = s ∧
      ∀ n m, NatMap.get none (t.core n).l1 m = if n = k ∧ m = sec then none else NatMap.get none (s.core n).l1 m)) ∧
  ((∀ s k sec p d, Reported s → d = dieOfCore k → partialOf s k sec = some p → s.sent.any (isRegister k sec) = false →
    (sliceCollectors s d sec).contains (sec / 4) = true ∨ (sliceCollectors s d sec).length < 256 →
    ∃ t x, exec (.partialEvict k sec) s = .next t ∧ { t with cores := s.cores, dies := s.dies, dir := s.dir } = s ∧
      (∀ n, n ≠ sec → dirOf t n = dirOf s n) ∧ dirOf t sec = (if homeOf s (64 * sec) = d ∧ (dirOf s sec).st = .u ∧ alone s k sec = true then
        { dirOf s sec with clus := (dirOf s sec).clus &&& ~~~(1#16 <<< (k / 4 % 16)) } else dirOf s sec) ∧
      partialOf t k sec = none ∧ collectorOf t d sec = some x ∧
      x.part = some (Partial.join ((collectorOf s d sec).bind (·.part)) p) ∧
      (∀ b, b < 16 → x.clus.getLsbD b = if b = k / 4 % 16 ∧ alone s k sec = true then false
        else ((collectorOf s d sec).map (·.clus)).any (·.getLsbD b)) ∧
      (∀ n, n ≠ k → t.core n = s.core n) ∧ ∀ n, n ≠ d → t.die n = s.die n) ∧
  (∀ s d sec x p, Reported s → d < 4 → collectorOf s d sec = some x → x.part = some p → p.bad = false → (dirOf s sec).st = .u → recallCores s sec (dirOf s sec) d = [] →
    NatMap.wf none p.els = true → (∀ x ∈ p.els, tagSize p.tag * (x.1 + 1) ≤ 64) →
    ∃ t, exec (.collectorEvict d sec) s = .next t ∧ (dirOf t sec).st = .u ∧ collectorOf t d sec = none ∧
      (if homeOf s (64 * sec) = d then (dirOf t sec).clus = 0 else (dirOf t sec).dies.getLsbD d = false) ∧
      t.mem = s.mem ∧ ∀ a, homeByte t a = (let e := (a - 64 * sec) / tagSize p.tag
        match (if secOf a = sec then NatMap.get none p.els e else none) with
        | some v => (leBytes (tagSize p.tag) (combine p.tag (BitVec.ofNat 64 (leNat (homeBytes s
            (64 * sec + tagSize p.tag * e) (tagSize p.tag)))) v).toNat).getD ((a - 64 * sec) % tagSize p.tag) 0
        | none => homeByte s a)) ∧
  (∀ s d sec x p, Reported s → d < 4 → collectorOf s d sec = some x → x.part = some p → p.bad = true → (dirOf s sec).st = .u →
    ∃ s1 r, exec (.collectorEvict d sec) s = .next (writeReport s1 r) ∧ r.cls = 3 ∧ r.cause = 3 ∧ r.len = 256 ∧
      ∀ i, i < 4 → s1.poison.contains (4 * (sec / 4) + i) = true) ∧
  (∀ s line, Reported s → populated (256 * line) = true → homeOf s (256 * line) ≠ 4 →
    (∃ i, i < 4 ∧ (dirOf s (4 * line + i)).st ≠ .i) →
    (∃ s1 r, exec (.directoryError line false) s = .next (writeReport s1 r) ∧ r.cls = 3 ∧ r.cause = 3 ∧
      r.pa = some (256 * line) ∧ r.len = 256 ∧ ∀ i, i < 4 → s1.poison.contains (4 * line + i) = true ∧
        (dirOf s1 (4 * line + i)).st = .m) ∧
    ((∀ i, i < 4 → (dirOf s (4 * line + i)).st = .i ∨
        (allPartials s (4 * line + i) = [] ∧ copiesEqual s (4 * line + i) = true)) →
      ∃ s1 r, exec (.directoryError line true) s = .next (writeReport s1 r) ∧ r.cls = 2 ∧ r.cause = 3 ∧
        r.pa = some (256 * line) ∧ r.len = 256 ∧ s1.poison = s.poison ∧ (∀ a, homeByte s1 a = homeByte s a) ∧
        ∀ i, i < 4 → (dirOf s (4 * line + i)).st ≠ .i → dirOf s1 (4 * line + i) = ⟨.m, false, 0, 0, 0, false⟩)))

-- The host, the fabric, and errors in data.

/-- The write from the host's home that a die applies next to a line; what it follows has been applied there (R240, R293). -/
def HostNext (s : State) (d line : Nat) (w : PWrite) : Prop :=
  s.performed.find? (fun w => w.pending.contains d && homeOf s w.pa == 4 && lineOf w.pa == line) = some w ∧
  appliedAt s d (w.preds.filter (fun i => i != w.id)) = true

/-- The partial that the L2 of die `d` holds of a sector, in the die's collector (R287). -/
def diePart (s : State) (d sec : Nat) : Option Partial := (collectorOf s d sec).bind (·.part)

/-- Does the error stand in the data at the home: HBM4E, the second tier, or the L2 of the home die, where that holds the sector and
no partial of it (R294, R355)? -/
def atHome (s : State) (pa site : Nat) (w : EccSite) : Bool :=
  populated pa && (match w with
    | .hbm _ _ _ _ => true
    | .sram st _ => st == 2 && (diePart s (site % 4) (secOf pa)).isNone && site % 4 == homeOf s (64 * secOf pa)
        && (dirOf s (secOf pa)).st != .i)

/-- What an uncorrectable error in an SRAM array spoils elsewhere (R294, R355): a core's partial, else its L1 copy; a die's partial,
else its visitor copy; a word of a core's X, of a cluster's W or Y. -/
structure Spoils (s t : State) (pa site st : Nat) : Prop where
  parts : ∀ c sec, partialOf t c sec = if st = 1 ∧ c = 4 * (site / 4 % 64) + site / 256 % 4 ∧ sec = secOf pa then
    (partialOf s c sec).map (fun p => { p with bad := true }) else partialOf s c sec
  copies : ∀ c sec, NatMap.get none (t.core c).l1 sec =
    if st = 1 ∧ c = 4 * (site / 4 % 64) + site / 256 % 4 ∧ sec = secOf pa ∧ partialOf s c sec = none then
      (NatMap.get none (s.core c).l1 sec).map (fun x => { x with bad := true }) else NatMap.get none (s.core c).l1 sec
  collectors : (dirOf s (secOf pa)).st ≠ .u → ∀ d sec, diePart t d sec =
    if st = 2 ∧ d = site % 4 ∧ sec = secOf pa ∧ populated pa = true then
      (diePart s d sec).map (fun p => { p with bad := true }) else diePart s d sec
  visitors : ∀ d sec, (t.die d).bad.contains sec = true ↔ (s.die d).bad.contains sec = true ∨
    (st = 2 ∧ d = site % 4 ∧ sec = secOf pa ∧ populated pa = true ∧ diePart s d sec = none ∧ d ≠ homeOf s (64 * sec) ∧
      holds s d sec = true)
  x : ∀ c n, (t.core c).badX.contains n = true ↔
    (s.core c).badX.contains n = true ∨ (st = 3 ∧ c = 4 * (site / 4 % 64) + site / 256 % 4 ∧ n = pa / 4)
  w : ∀ cl n, (t.cluster cl).badW.contains n = true ↔
    (s.cluster cl).badW.contains n = true ∨ (st = 4 ∧ cl = site / 4 % 64 ∧ n = pa / 4)
  y : ∀ cl n, (t.cluster cl).badY.contains n = true ↔
    (s.cluster cl).badY.contains n = true ∨ (st = 5 ∧ cl = site / 4 % 64 ∧ n = pa / 4)

/-- R249, R284, R293, R356: a host read returns the bytes that stand at the homes, from host memory or from the
coherent host's copies, or a poisoned completion with a POISON_CONSUMED record of consumer 4; a host write changes the
bytes that it names; the host home's message updates or drops a die's copies; the loss of a coherent H1 drops host-
homed copies, cuts every request toward the host home with a record, and clears HOST everywhere. A host access uses no
key slot and changes no key: the model's choice (log entry 56); so are what the writes of the host follow (log entry 25) and that a
line with a poisoned sector is not filled into the host's cache (log entry 66). -/
def Obligations.HostAccessesMemory : Prop :=
  ((∀ s pa n, Reported s → s.boot.state = 1 → s.boot.h1c = false → 0 < n → populated pa = true →
    populated (pa + n - 1) = true → (∀ i, i < n → poisoned s (pa + i) = false ∧ (dirOf s (secOf (pa + i))).st ≠ .u) →
    L2Room s n →
    ∃ t, exec (.hostRead pa n) s = .next t ∧ (∀ a, homeByte t a = homeByte s a) ∧
      { t with home := s.home, dir := s.dir, dies := s.dies, hostData := s.hostData, hostPoisoned := s.hostPoisoned } = s ∧
      t.hostPoisoned = false ∧ t.hostData = (List.range n).map (fun i =>
        if homeOf s (pa + i) = 4 ∨ isHost (pa + i) = true then NatMap.get 0 s.mem (pa + i) else homeByte s (pa + i))) ∧
  (∀ s pa n, Reported s → s.boot.state = 1 → s.boot.h1c = true → 0 < n → pa % 64 + n ≤ 64 → populated pa = true →
    populated (pa + n - 1) = true → homeOf s pa < 4 → isHost pa = false → s.performed = [] → L2Room s 0 →
    (∀ i, i < 4 → (dirOf s (4 * lineOf pa + i)).st ≠ .u ∧ s.poison.contains (4 * lineOf pa + i) = false) →
    ∃ t, exec (.hostRead pa n) s = .next t ∧ (∀ a, homeByte t a = homeByte s a) ∧ t.mem = s.mem ∧
      holds t 4 (secOf pa) = true ∧ t.hostPoisoned = false ∧ t.hostData = (List.range n).map (fun i =>
        if holds s 4 (secOf pa) = true then NatMap.get 0 s.hostView (pa + i) else homeByte s (pa + i))) ∧
  (∀ s pa n, Reported s → s.boot.state = 1 → 0 < n → pa % 64 + n ≤ 64 → populated pa = true →
    populated (pa + n - 1) = true → homeOf s pa < 4 → poisoned s pa = true → (dirOf s (secOf pa)).st ≠ .u →
    (s.boot.h1c = true → holds s 4 (secOf pa) = false) →
    ∃ r, exec (.hostRead pa n) s = .next (writeReport { s with hostData := [], hostPoisoned := true } r) ∧ r.cls = 4 ∧
      r.cause = 4 ∧ r.aux0 = 4 ∧ r.len = (if s.poisonLines.contains (lineOf pa) = true then 256 else 64) ∧
      r.gran = (if s.poisonLines.contains (lineOf pa) = true then 2 else 1) ∧ r.pa = some (pa / r.len * r.len)) ∧
  (∀ s pa data, Reported s → s.boot.state = 1 → data ≠ [] → populated pa = true → populated (pa + data.length - 1) = true →
    NatMap.get none s.keys 1024 = none → (∀ i, i < data.length → poisoned s (pa + i) = false ∧ homeOf s (pa + i) < 4 ∧
      isHost (pa + i) = false ∧ (dirOf s (secOf (pa + i))).st ≠ .u) → L2Room s data.length →
    ∃ t, exec (.hostWrite pa data) s = .next t ∧ ∀ a, homeByte t a = storesAt [(pa, data)] (homeByte s a) a) ∧
  (∀ s pa data, Reported s → s.boot.state = 1 → data ≠ [] → populated pa = true → populated (pa + data.length - 1) = true →
    (∀ i, i < data.length → poisoned s (pa + i) = false ∧ isHost (pa + i) = true ∧ (dirOf s (secOf (pa + i))).st ≠ .u) →
    ∃ t, exec (.hostWrite pa data) s = .next t ∧
      ∀ a, NatMap.get 0 t.mem a = storesAt [(pa, data)] (NatMap.get 0 s.mem a) a)) ∧
  ((∀ s d line w, Reported s → d < 4 → HostNext s d line w →
    ∃ t, exec (.hostHomeUpdate d line true) s = .next t ∧
      { t with dies := s.dies, hostHeld := s.hostHeld, performed := s.performed, follows := s.follows } = s ∧
      ((s.die d).held.Nodup → ∀ i, i < 4 → holds t d (4 * line + i) = false) ∧ (NatMap.get 0 t.hostHeld line).getLsbD d = false ∧
      (∀ n, n ≠ d → t.die n = s.die n) ∧
      ((∀ v ∈ s.performed, v.pending.Nodup) → ∀ v ∈ t.performed, lineOf v.pa = line → d ∉ v.pending)) ∧
  (∀ s d line w, Reported s → d < 4 → HostNext s d line w →
    ∃ t, exec (.hostHomeUpdate d line false) s = .next t ∧
      { t with dies := s.dies, performed := s.performed, follows := s.follows } = s ∧
      ((∀ v ∈ s.performed, v.pending.Nodup) → ∀ v ∈ t.performed, v.id = w.id → d ∉ v.pending) ∧
      (∀ n, n ≠ d → t.die n = s.die n) ∧ ∀ a, NatMap.get 0 (t.die d).view a = if holds s d (secOf w.pa) = true then
        storesAt [(w.pa, w.data)] (NatMap.get 0 (s.die d).view a) a else NatMap.get 0 (s.die d).view a) ∧
  (∀ s cut, Reported s → s.boot.h1c = true → cut = s.sent.filter (fun q => decide (homeOf s q.pa = 4) && !kindClean q.kind) →
    ∃ s1 rs r, exec .h1CoherentLoss s = .next ((rs ++ [r]).foldl writeReport s1) ∧ rs.length = cut.length ∧
      (∀ x ∈ rs, x.cause = 0x11) ∧ r.cause = 0x08 ∧ s1.mem = s.mem ∧ s1.home = s.home ∧ s1.boot.h1c = false ∧
      s1.sent = s.sent.filter (fun q => !decide (homeOf s q.pa = 4)) ∧ s1.hostHeld = [] ∧ s1.hostView = [] ∧
      (∀ v ∈ s1.performed, isHost v.pa = false) ∧ (∀ sec, (dirOf s1 sec).host = false) ∧
      ∀ d, d < 4 → ∀ sec, holds s1 d sec = true ↔ holds s d sec = true ∧ isHost (64 * sec) = false))

/-- A write of REPAIR that asks for a repair of type `ty` whose target is in range, while none is under way (R353, R354). -/
structure RepairAsked (s : State) (v : BitVec 128) (ty : Nat) : Prop where
  quiet : Reported s
  ready : s.boot.state = 1
  type : (bits v 64 4).toNat = ty
  go : v.getLsbD 69 = true
  zero : v.getLsbD 68 = false ∧ bits v 72 56 = 0
  target : targetOk ty (bits v 0 64) = true
  idle : s.repairStatus ≠ .busy

/-- Two targets of a type take their spares from one place (R352): a bank, an engine, a die, an array, one way over a boundary, or a
port. -/
def samePlace (ty : Nat) (a b : DWord) : Bool :=
  match ty with
  | 0 | 1 => bits a 0 13 == bits b 0 13
  | 2 | 3 => bits a 0 6 == bits b 0 6
  | 4 => bits a 0 2 == bits b 0 2
  | 5 => Config.sramArray (bits a 0 40).toNat == Config.sramArray (bits b 0 40).toNat
  | 6 => bits a 0 2 == bits b 0 2 &&
    Config.laneWay (bits a 0 2).toNat (bits a 2 8).toNat == Config.laneWay (bits b 0 2).toNat (bits b 2 8).toNat
  | _ => bits a 0 5 == bits b 0 5

/-- How many spares the place has (R352), and how many scheduled repairs take one. -/
def spares (ty : Nat) (t : DWord) : Nat :=
  [0, 2, 4, 2, 2, Config.sramSpares (Config.sramArray (bits t 0 40).toNat), 8, 1].getD ty 0
def sparesTaken (s : State) (ty : Nat) (t : DWord) : Nat :=
  (s.repairMap.filter (fun r => r.ty == ty && samePlace ty r.target t)).length

/-- What a repair that is scheduled for the next bring-up leaves (R354): its entry in the persistent repair map, or a failure for
want of a spare, with a record. -/
def scheduled (s : State) (ty : Nat) (t : DWord) : State :=
  let r := { s with repairReg := ⟨ty, t⟩ }
  let rep (n : Nat) : Report := ⟨6, if ty ≤ 1 then 3 else 0, 0x10, none, none, 0, 0, 0, n, t.toNat⟩
  if sparesTaken s ty t < spares ty t then
    writeReport { r with repairMap := s.repairMap ++ [⟨ty, t⟩], repairStatus := .done } (rep 2)
  else writeReport { r with repairStatus := .failed } (rep 3)

/-- The range of the record of an error in data (R362): the sector, or, of HBM4E, the row, bank or channel that the event names. -/
def EccRange (pa : Nat) (w : EccSite) (r : Report) : Prop :=
  match w with
  | .hbm ch aux gran len => r.cause = 1 ∧ r.aux0 = ch ∧ r.aux1 = aux.toNat ∧
      (if gran = 3 ∨ gran = 4 ∨ gran = 5 then r.gran = gran ∧ r.pa = some pa ∧ r.len = len
       else r.gran = 1 ∧ r.pa = some (pa / 64 * 64) ∧ r.len = 64)
  | .sram st row => r.cause = 2 ∧ r.aux0 = st ∧ r.aux1 = row.toNat ∧
      (st ≤ 2 → r.gran = 1 ∧ r.pa = some (pa / 64 * 64) ∧ r.len = 64) ∧ (2 < st → r.gran = 6 ∧ r.pa = none)

/-- R130, R299, R343, R350, R353 to R355, R362: a fabric message on a sub-link whose owner's PPID differs is dropped with a
FABRIC record; else its bytes are written, or added, at the function's address. A wake message, as a write to WAKE,
ends a collapse; FWAKE sends one on the sub-link that the partition's ROUTE names, and an invalid route is recorded. A
corrected error leaves a record only, of class 1; an uncorrectable one also marks the sector poisoned where it stands
in HBM4E, the second tier or L2, one in a partial spoils the merge to come (R294), and one in a copy, X, W or Y what reads it; a link's lane error leaves a LINK record. A repair of each type
completes or is scheduled, a soft repair ends with its spare in use, and PCLR zeroes a sector and removes its mark. The classes of the records and the answer
to a message without a translation are the model's (log entries 42, 57 and 58), and so are the records of repairs and the places
that share spares (log entries 61 and 23). -/
def Obligations.FabricMessagesAndErrors : Prop :=
  ((∀ s port sub ppid f va kind data, Reported s → linkMatches s port sub ppid = none →
    exec (.fabricMessageReceive port sub ppid f va kind data) s =
      .next (writeReport s (event0 0 0x07 (port + 32 * sub) ppid 0)) ∧
    exec (.fabricWakeReceive port sub ppid f) s = .next (writeReport s (event0 0 0x07 (port + 32 * sub) ppid 0))) ∧
  (∀ s port sub ppid p f va kind data tr new, Reported s → linkMatches s port sub ppid = some p → f ≠ 0 →
    funcExists s f = true → (s.fcfgOf f).part = p → (s.func f).torn = false → translate s [] f va .write = (.ok tr, s) →
    va % 64 + data.length ≤ 64 → tr.pa % 64 = va % 64 → accErr s tr.pa tr.key = none → Keyed s tr.pa tr.key →
    Local s tr.pa → (dirOf s (secOf tr.pa)).st ≠ .u → L2Room s 0 →
    (kind = 0 ∧ new = data) ∨ (0 < kind.toNat ∧ kind.toNat ≤ 2 ∧ data.length = 4 ∧ new = leBytes 4 (combine
      (if kind = 1 then 2 else 0) (BitVec.ofNat 64 (leNat (homeBytes s tr.pa 4))) (BitVec.ofNat 64 (leNat data))).toNat) →
    ∃ t, exec (.fabricMessageReceive port sub ppid f va kind data) s = .next t ∧
      ∀ a, homeByte t a = storesAt [(tr.pa, new)] (homeByte s a) a)) ∧
  ((∀ s port sub ppid p f, Reported s → linkMatches s port sub ppid = some p → f ≠ 0 → funcExists s f = true →
    (s.fcfgOf f).part = p →
    ∃ t, exec (.fabricWakeReceive port sub ppid f) s = .next t ∧ Woken s t f) ∧
  (∀ s v f node p r, Reported s → s.boot.state = 1 → f = (bits v 0 10).toNat → node = (bits v 10 8).toNat →
    p = (bits v 18 5).toNat → r = (NatMap.get 0 s.route (256 * p + node)).toNat →
    (r / 128 = 1 ∧ ownsLink s p (r % 32) (r / 32 % 4) = true →
      exec (.fabricWakeSend v) s = .next
        { s with fwake := (bits v 0 23).setWidth 64, fabricOut := s.fabricOut ++ [⟨r % 32, r / 32 % 4, (s.part p).ppid, f, 0, 3, []⟩] }) ∧
    (¬ (r / 128 = 1 ∧ ownsLink s p (r % 32) (r / 32 % 4) = true) →
      exec (.fabricWakeSend v) s = .next (writeReport { s with fwake := (bits v 0 23).setWidth 64 }
        (event0 0 0x07 (r % 128) (s.part p).ppid 0))))) ∧
  ((∀ s pa f va w site, Reported s → ∃ r, exec (.eccCorrected pa f va w site) s = .next (writeReport s r) ∧ r.cls = 1 ∧
    r.func = f ∧ r.site = site.toNat ∧ EccRange pa w r) ∧
  (∀ s pa f va w site, Reported s → ((dirOf s (secOf pa)).st = .u → SoundParts s (secOf pa)) →
    ∃ r s1, exec (.eccUncorrectable pa f va w site) s = .next (writeReport s1 r) ∧
      r.cls = 3 ∧ r.func = f ∧ r.site = site.toNat ∧ EccRange pa w r ∧
      ((dirOf s (secOf pa)).st ≠ .u →
        { s1 with poison := s.poison, cores := s.cores, dies := s.dies, clusters := s.clusters } = s) ∧
      (∀ sec, s1.poison.contains sec = true ↔ s.poison.contains sec = true ∨
        (sec = secOf pa ∧ atHome s pa site.toNat w = true)) ∧
      ∀ st row, w = .sram st row → ((dirOf s (secOf pa)).st ≠ .u ∨ st ≠ 2 → Spoils s s1 pa site.toNat st)) ∧
  (∀ s fab b lane, Reported s → exec (.linkLaneError fab b lane) s = .next (writeReport s (event0 0 0x06 b lane 0)))) ∧
  ((∀ s v, RepairAsked s v 0 → (bits v 0 13).toNat ∉ s.softUsed →
      ∃ t, exec (.repairSoftRow v) s = .next t ∧ t.softRow = some (bits v 0 64) ∧ t.repairStatus = .busy) ∧
    (∀ s v, RepairAsked s v 1 → exec (.repairHardRow v) s = .next (scheduled s 1 (bits v 0 64))) ∧
    (∀ s v, RepairAsked s v 2 → exec (.repairArrayColumn v) s = .next (scheduled s 2 (bits v 0 64))) ∧
    (∀ s v, RepairAsked s v 3 → exec (.repairArrayRow v) s = .next (scheduled s 3 (bits v 0 64))) ∧
    (∀ s v, RepairAsked s v 4 → exec (.repairCluster v) s = .next (scheduled s 4 (bits v 0 64))) ∧
    (∀ s v, RepairAsked s v 5 → exec (.repairSramRow v) s = .next (scheduled s 5 (bits v 0 64))) ∧
    (∀ s v, RepairAsked s v 6 → exec (.repairD2dLane v) s = .next (scheduled s 6 (bits v 0 64))) ∧
    (∀ s v, RepairAsked s v 7 → exec (.repairFabricLane v) s = .next (scheduled s 7 (bits v 0 64))) ∧
    (∀ s t, Reported s → s.softRow = some t → ∃ s1, exec .softRepairComplete s = .next s1 ∧ s1.softRow = none ∧
      s1.repairStatus = .done ∧ s1.softUsed = s.softUsed ++ [(bits t 0 13).toNat]) ∧
    (∀ s v, Reported s → s.boot.state = 1 → v.getLsbD 0 = true → populated ((bits v 6 46).toNat * 64) = true →
      ∃ t, exec (.pclr v) s = .next t ∧ t.pclrPa = (bits v 6 46).toNat * 64 ∧ (bits v 6 46).toNat ∉ t.poison))

-- Engines at work.

/-- R126, R130 to R132, R143, R218, R233: bytes of a copy land in X, in W, at their homes, or leave over the
fabric, whole words of 4 bytes, of 8 in global memory, in any order; a copy or a gather that has moved everything, or that an error has ended, ends; a gather moves every element
and counts the indices out of range in STATUS; a translation fault stops the copy or, of KIND 2, ends it, with a
record; a waiting record is written when its log has space; TOPK writes the K best positions and gives the threshold;
a hint fills the die's L2. Which
bytes land together is the model's reading (log entry 39), and the TAG of a fault record its choice (log entry 3). -/
def Obligations.EnginesMoveAndEnd : Prop :=
  ((∀ s op core b n o u d sa da data, Settled s → Running s op o u → isGather o.kind = false → core ∈ destCores o.kind u →
    d = descOf o.desc → o.free core b (b + n) = true → 0 < n → b + n ≤ d.total → b % d.rowBytes + n ≤ d.rowBytes →
    sa = srcByte d b → da = dstByte d b →
    sa % 64 + n ≤ 64 → da % 64 + n ≤ 64 → CopyReads s u o sa n data →
    b = 0 ∨ wordOf d (b - 1) ≠ wordOf d b → b + n = d.total ∨ wordOf d (b + n - 1) ≠ wordOf d (b + n) →
    (∀ x, copyFront o u ≤ x → x < b → InPages o d x) →
    d.sspace ≠ 0 ∨ d.dspace ≠ 0 ∨ overlaps d.src (hullLen d d.spitch) da n = false →
    ((∀ k, o.kind ≠ .cpyf k) → d.dspace = 1 → d.barrier = noBarrier → XPlain s core (u.xoff + da) n →
      (∀ i ∈ (s.func u.func).saved, i.core = core → i.launch = u.launch → i.xoff ≠ u.xoff) →
      ∃ t, exec (.copyBytesLand op core ⟨b, n⟩) s = .next t ∧ Landed t op o core b n ∧ (∀ a, homeByte t a = homeByte s a) ∧
        XWrote s t core [(u.xoff + da, data)]) ∧
    ((∀ k, o.kind ≠ .cpyf k) → d.dspace = 2 →
      ∃ t, exec (.copyBytesLand op core ⟨b, n⟩) s = .next t ∧ Landed t op o core b n ∧ (∀ a, homeByte t a = homeByte s a) ∧
        ∀ a, NatMap.get 0 (t.cluster (o.core / 4)).w a =
          storesAt [(da, data)] (NatMap.get 0 (s.cluster (o.core / 4)).w a) a) ∧
    (∀ tr, (∀ k, o.kind ≠ .cpyf k) → d.dspace = 0 → OpHits s o .write da tr → Local s tr.pa →
      ∃ t, exec (.copyBytesLand op core ⟨b, n⟩) s = .next t ∧ Landed t op o core b n ∧
        ∀ a, homeByte t a = storesAt [(tr.pa, data)] (homeByte s a) a) ∧
    (∀ k port sub, o.kind = .cpyf k → fabricLink s o.func d.node = some (port, sub) →
      ∃ t, exec (.copyBytesLand op core ⟨b, n⟩) s = .next t ∧ Landed t op o core b n ∧ (∀ a, homeByte t a = homeByte s a) ∧
        t.fabricOut = s.fabricOut ++ [⟨port, sub, (s.part (s.fcfgOf o.func).part).ppid, o.func, da, k, data⟩])) ∧
  (∀ s op o u d e, Reported s → opOf s op = some o → s.unit? o.uid = some u → u.relaunchDue = false → o.waiting = none →
    NoTwait u → d = descOf o.desc → (isGather o.kind = false ∧ e = .copyComplete op ∧ (o.err = true ∨
      ∀ c ∈ destCores o.kind u, o.landed c = d.total)) ∨ (isGather o.kind = true ∧ e = .gatherComplete op ∧ o.err = true) →
    ∃ t, exec e s = .next t ∧ OpEnds s t o u ∧ (∀ a, homeByte t a = homeByte s a) ∧ (∀ n, (t.core n).x = (s.core n).x) ∧
      (d.dspace = 2 → (t.cluster (o.core / 4)).wSeals = (s.cluster (o.core / 4)).wSeals.map (fun x =>
        if x.start = d.dst ∧ x.state = .filling then { x with state := .sealed, failed := o.err } else x)) ∧
      (o.kind ≠ .bscat → d.sspace = 1 → (t.core o.core).seals = (s.core o.core).seals.map (fun x =>
        if overlaps x.start x.len (u.xoff + d.src) (srcLen o.kind d) = true then { x with refs := x.refs - 1 } else x)))) ∧
  ((∀ s op o u d idx (tr : Nat → Trans) n, Settled s → Running s op o u → NoTwait u → d = descOf o.desc → idx = indexList s u d →
    n = d.rowBytes → 0 < n → L2Room s (2 * idx.length) → o.pins = [] →
    SoundAt (s.core u.core).badX (u.xoff + d.index) (4 * d.rows) →
    (∀ i ∈ idx, i < d.spitch → tableAt o d i % 64 + n ≤ 64 ∧
      OpHits s o (if o.kind = .bgath then .read else .write) (tableAt o d i) (tr i) ∧ Local s (tr i).pa) →
    XPlain s o.core (u.xoff + o.xoff + 52) 4 →
    (o.kind = .bgath → d.barrier = noBarrier → XPlain s o.core (u.xoff + d.dst) (n * idx.length) →
      ∃ t, exec (.gatherComplete op) s = .next t ∧ OpEnds s t o u ∧ (∀ a, homeByte t a = homeByte s a) ∧
        XWrote s t o.core (idx.mapIdx (fun j i => (u.xoff + d.dst + j * n,
            if i < d.spitch then engineSees s (dieOfCore o.core) (tr i) n else List.replicate n 0)) ++
          [(u.xoff + o.xoff + 52, leBytes 4 (idx.filter (fun i => decide (d.spitch ≤ i))).length)])) ∧
    (o.kind = .bscat → (∀ j, j < idx.length → SoundAt (s.core u.core).badX (u.xoff + d.src + j * n) n) →
      ∃ t, exec (.gatherComplete op) s = .next t ∧ OpEnds s t o u ∧
        (∀ a, homeByte t a = storesAt ((idx.mapIdx (fun j i => (j, i))).filterMap (fun p =>
          if p.2 < d.spitch then some ((tr p.2).pa, readX s u n (d.src + p.1 * n)) else none)) (homeByte s a) a) ∧
        XWrote s t o.core
          [(u.xoff + o.xoff + 52, leBytes 4 (idx.filter (fun i => decide (d.spitch ≤ i))).length)])) ∧
  (∀ s op o u d b sa x s1, Running s op o u → o.kind = .cpy → d = descOf o.desc → b = copyFront o u → b < d.total →
    d.sspace = 0 → sa = srcByte d b →
    (∀ e ∈ o.pins, e.covers o.func sa = false) → translate s (clusterTlbs (o.core / 4)) o.func sa .read = (.flt x, s1) →
    (s1.func (if x.stage2 then 0 else o.func)).flog.full = true →
    (∀ q ∈ s1.faults, q.id ≠ s1.nextSeq) →
    ∃ t o' r, exec (.engineTranslationFault op) s = .next t ∧ opOf t op = some o' ∧
      { o' with waiting := o.waiting, err := o.err, pins := o.pins } = o ∧ (x.kind ≠ 2 → o'.waiting = some s1.nextSeq ∧ o'.err = false) ∧
      (x.kind = 2 → o'.err = true ∧ o'.waiting = none) ∧ t.faults = s1.faults ++ [r] ∧ r.va = x.va ∧ r.kind = x.kind ∧
      r.func = o.func ∧ r.written = false ∧ r.lanes = 0) ∧
  (∀ s id r x tr va, Reported s → s.faults.find? (fun q => q.id == id) = some r → r.written = false →
    x = s.func r.log → x.flogBad = false → x.flog.full = false → va = x.flog.base + 32 * (x.flog.tail % 2 ^ x.flog.log2n) → va % 64 + 32 ≤ 64 →
    translate s [] r.log va .write = (.ok tr, s) → Keyed s tr.pa tr.key → Local s tr.pa → (dirOf s (secOf tr.pa)).st ≠ .u →
    accErr s tr.pa tr.key = none → L2Room s 0 →
    ∃ t, exec (.faultRecordWrite id) s = .next t ∧
      (∀ a, homeByte t a = storesAt [(tr.pa, faultBytes r s.nextTag)] (homeByte s a) a) ∧
      t.func r.log = { x with flog := { x.flog with tail := (x.flog.tail + 1) % 65536 } } ∧
      t.nextTag = (s.nextTag + 1) % 2 ^ 32 ∧ t.faults = (if r.info then s.faults.filter (fun q => q.id != id)
        else s.faults.map (fun q => if q.id = id then { q with written := true, tag := s.nextTag } else q)))) ∧
  ((∀ s core op u, Reported s → s.topks.find? (fun t => t.core == core) = some op → s.unit? op.uid = some u →
    u.relaunchDue = false → 1 ≤ op.k → op.k ≤ op.scores.length → XPlain s core op.dst (4 * op.k) →
    ∃ t u' i, exec (.topkComplete core) s = .next t ∧ t.topks = s.topks.erase op ∧ t.mem = s.mem ∧ t.home = s.home ∧
      XWrote s t core ((((List.range op.scores.length).filter (fun i => decide (rankAt op i < op.k))).zipIdx).map (fun p =>
        (op.dst + 4 * p.2, leBytes 4 (BitVec.ofNat 32 p.1 + op.ibase).toNat))) ∧
      t.unit? op.uid = some u' ∧ i < op.scores.length ∧ rankAt op i = op.k - 1 ∧
      (∀ th, th ∈ op.threads → (u'.thread th).reg op.d.toNat = op.scores.getD i 0) ∧
      ∀ th n, th ∉ op.threads ∨ n ≠ op.d.toNat → (u'.thread th).reg n = (u.thread th).reg n) ∧
  (∀ s cl h rest (tr : Nat → Trans), Reported s → Settled s → (s.cluster cl).hints = h :: rest → h.lines ≤ 16 →
    (∀ i, i < h.lines → Hits s (4 * cl) h.func .read (h.va + 256 * i) (tr i) ∧ (tr i).unc = false ∧ ∀ j, j < 4 →
      Keyed s ((tr i).pa / 256 * 256 + 64 * j) (tr i).key ∧ accErr s ((tr i).pa / 256 * 256 + 64 * j) (tr i).key = none ∧
      (s.die (dieOfCluster cl)).bad.contains (4 * ((tr i).pa / 256) + j) = false) →
    ∃ t, exec (.prefetchHintFill cl) s = .next t ∧ (t.cluster cl).hints = rest ∧ (∀ a, homeByte t a = homeByte s a) ∧
      t.mem = s.mem ∧ t.cores = s.cores ∧ ∀ i j, i < h.lines → j < 4 →
        let sec := 4 * ((tr i).pa / 256) + j
        homeOf s (64 * sec) = dieOfCluster cl ∨ holds t (dieOfCluster cl) sec = true ∨
          (t.die (dieOfCluster cl)).fills.contains sec = true))

-- The loader, bins, cohorts, and ends.

/-- `b` is the unit's only bin of its key; it has been spilled in this step, and holds threads. -/
structure OnlySpill (u : Unit_) (b : Bin) : Prop where
  spilled : b.spilled = true
  here : b.place = none
  mem : b ∈ u.bins
  one : ∀ x ∈ u.bins, x.key = b.key → x = b
  full : b.threads ≠ []

/-- R55, R195 to R198, R206, R191, R192, R150, R193, R210: a rejected code object gives its status, an accepted one is
written, section by section, at its addresses; a bin ages, is drawn into a free slot of its quadrant lane by lane, and returns from the
spill area; a full core marks its oldest group, which dissolves at its boundary; a cohort's units start with their
registers and zeros in X; a unit's end counts in its launch, a context's end stands, and a launch's end completes it
and counts in its graph. The offset of a cohort in X is the agenda's choice (log entry 48), and a unit's start applies
everything performed so far (log entry 50); a group starts with its banked registers at 0 (log entry 8), a cancelled object that has
not ended is open to CANCEL (log entry 43), and from when a bin waits is DEDUCED (log entry 49). -/
def Obligations.DispatchStartsAndEnds : Prop :=
  ((∀ s f base obj, Reported s →
    (headerOk obj = false → exec (.codeObjectLoad f base obj) s = .next { s with loads := s.loads ++ [⟨f, base, 1⟩] }) ∧
    (headerOk obj = true → (∀ n, obj.notes = [n] → noteOk n = false) →
      exec (.codeObjectLoad f base obj) s = .next { s with loads := s.loads ++ [⟨f, base, 2⟩] }) ∧
    (∀ n, headerOk obj = true → obj.notes = [n] → noteOk n = true → 1 < n.required →
      exec (.codeObjectLoad f base obj) s = .next { s with loads := s.loads ++ [⟨f, base, 3⟩] }) ∧
    (∀ st, loadCheck base obj = .inl st →
      exec (.codeObjectLoad f base obj) s = .next { s with loads := s.loads ++ [⟨f, base, st⟩] })) ∧
  (∀ s f base obj o secs (tr : Nat × List Byte → Trans), Reported s → (∀ sec, (dirOf s sec).st ≠ .u) →
    loadCheck base obj = .inr o → sectionsAligned base o = true →
    secs = [(o.textAt, o.text), (o.quartzAt, o.quartz), (o.launchAt, o.launch)] ++ o.others.map (fun x => (x.at_, x.bytes)) →
    (∀ x ∈ secs, x.2 ≠ [] → (base + x.1) % 4096 + x.2.length ≤ 4096 ∧
      Maps s f .read (base + x.1) (tr x) (fun a => ∃ y ∈ secs, bytesAt (tr y).pa y.2.length a) ∧
      ∀ i, i < x.2.length → Local s ((tr x).pa + i) ∧ Keyed s ((tr x).pa + i) (tr x).key ∧
        accErr s ((tr x).pa + i) (tr x).key = none) → L2Room s (17 * secs.length) →
    ∃ t, exec (.codeObjectLoad f base obj) s = .next t ∧ t.loads = s.loads ++ [⟨f, base, 0⟩] ∧
      ∀ a, homeByte t a = storesAt (secs.map (fun x => ((tr x).pa, x.2))) (homeByte s a) a)) ∧
  ((∀ s uid key u b, Reported s → s.unit? uid = some u → b ∈ u.bins → b.key = key → b.aged = false →
    u.ageLimit s ≤ s.clock - b.birth →
    ∃ t, exec (.binAged uid key) s = .next t ∧ OnlyUnit s t uid { u with bins := u.bins.map (fun x =>
      if x.key = key then { x with aged := true, waiting := some (x.waiting.getD s.clock) } else x) }) ∧
  (∀ s core uid u b q, Reported s → leastBy drawKey (eligibleBins s core) = some (uid, u, b) → s.unit? uid = some u →
    drawQuadrant s core (if u.redundant then 2 else 1) = some q → (s.core core).drewAt ≤ s.clock → b.spilled = false →
    ∃ t g u' sl, exec (.binDraw core) s = .next t ∧ sl / 8 = q ∧ s.group? core sl = none ∧ t.group? core sl = some g ∧
      g.front = .start b.key.pc ∧ g.uid = uid ∧ g.iv = b.iv ∧ g.drawn = s.clock ∧ g.shadow.isSome = u.redundant ∧
      (∀ l th, NatMap.get none g.lanes l = some th ↔ l < 32 ∧ b.threads.find? (fun n => n % 32 == l) = some th) ∧
      t.unit? uid = some u' ∧ { u' with bins := u.bins } = u ∧ (∀ x, x.key ≠ b.key → (x ∈ u'.bins ↔ x ∈ u.bins)) ∧
      (∀ x ∈ u'.bins, x.key = b.key → x.threads ≠ [] ∧ x.birth = s.clock ∧
        ∀ th, th ∈ x.threads ↔ th ∈ b.threads ∧ NatMap.get none g.lanes (th % 32) ≠ some th) ∧
      { t with units := s.units, groups := s.groups, cores := s.cores } = s ∧
      (∀ n, { t.core n with drewAt := (s.core n).drewAt } = s.core n) ∧ (t.core core).drewAt = s.clock + 1) ∧
  (∀ s core uid u b q, Reported s → leastBy drawKey (eligibleBins s core) = some (uid, u, b) → s.unit? uid = some u →
    drawQuadrant s core (if u.redundant then 2 else 1) = some q → (s.core core).drewAt ≤ s.clock → OnlySpill u b →
    (storedBins s core).length < 64 →
    ∃ t g sl, exec (.binDraw core) s = .next t ∧ sl / 8 = q ∧ s.group? core sl = none ∧ t.group? core sl = some g ∧
      g.front = .start b.key.pc ∧ g.uid = uid ∧ g.iv = b.iv ∧
      ∀ l th, NatMap.get none g.lanes l = some th ↔ l < 32 ∧ b.threads.find? (fun n => n % 32 == l) = some th) ∧
  (∀ s uid u b, Reported s → s.unit? uid = some u → OnlySpill u b → (storedBins s u.core).length < 64 →
    ∃ t, exec (.binBringBack uid b.key) s = .next t ∧
      OnlyUnit s t uid { u with bins := u.bins.filter (fun x => x != b) ++ [{ b with spilled := false }] }) ∧
  (∀ s uid key u b y s1, Reported s1 → s.unit? uid = some u → (storedBins s u.core).length < 64 → u.spill key = some b →
    loadBin s uid u b = (.inr y, s1) → s1.unit? uid = some u →
    ∃ t, exec (.binBringBack uid key) s = .next t ∧ OnlyUnit s1 t uid { u with bins := joinBin s1.clock b y u.bins }) ∧
  (∀ s core sl g u, Reported s → sl < 32 → s.group? core sl = some g → s.unit? g.uid = some u → g.front.priv = false →
    u.ageLimit s ≤ s.clock - g.drawn → (takenSlots s core).length = 32 → binWaited s core = true →
    (∀ n h, n < 32 → s.group? core n = some h → h.marked = false ∧
      (n = sl ∨ h.front.priv = true ∨ (∃ v, s.unit? h.uid = some v ∧ s.clock - h.drawn < v.ageLimit s) ∨
        g.drawn < h.drawn ∨ (g.drawn = h.drawn ∧ sl < n))) →
    ∃ t, exec (.dissolutionMark core) s = .next t ∧ t.group? core sl = some { g with marked := true } ∧
      { t with groups := s.groups } = s ∧
      ∀ n, n ≠ 32 * core + sl → NatMap.get none t.groups n = NatMap.get none s.groups n) ∧
  (∀ s core sl g u, Reported s → s.group? core sl = some g → s.unit? g.uid = some u → g.marked = true → g.front.j = 0 →
    g.front.priv = false → g.front.hold = none → g.members ≠ [] →
    ∃ t u' b, exec (.groupDissolve core sl) s = .next t ∧ t.group? core sl = none ∧ t.unit? g.uid = some u' ∧ b ∈ u'.bins ∧
      b.key = ⟨g.front.pc, none⟩ ∧ (∀ p ∈ g.members, p.2 ∈ b.threads) ∧ { u' with bins := u.bins } = u ∧
      { t with units := s.units, groups := s.groups } = s)) ∧
  ((∀ s x cl off n, Reported s → leastBy (startKey s) (startable s) = some x → x.again = none → x.clusters = [cl] →
    launchOf s x.func x.idx = some x.slot → xFree s cl off x.slot.rcd.xbytes = true → n = x.slot.cohorts →
    (∀ h, (s.cluster cl).lastServed = some h → h = x.func ∨ keepsImage s h = false) →
    (∀ i ∈ (s.func x.func).savedClusters, i.cluster ≠ cl) → (s.func x.func).torn = false →
    ∃ t l', exec (.cohortStart [off]) s = .next t ∧ launchOf t x.func x.idx = some l' ∧ l'.cohorts = n + 1 ∧
      l'.obj.st = .running ∧ (t.cluster cl).serving = some x.func ∧ (t.cluster cl).gate = .running ∧
      (∀ i a, i < 4 → off ≤ a → a < off + x.slot.rcd.xbytes → NatMap.get 0 (t.core (4 * cl + i)).x a = 0) ∧
      (x.slot.rcd.xbytes % 4 = 0 → ∀ i, i < 4 → SoundAt (t.core (4 * cl + i)).badX off x.slot.rcd.xbytes) ∧
      ∀ i, i < cohortUnits x.slot.rcd n → ∃ v, t.unit? (s.nextUid + i) = some v ∧ v.func = x.func ∧ v.launch = x.idx ∧
        v.index = 4 * n + i ∧ v.cohort = n ∧ v.core = 4 * cl + i ∧ v.xoff = off ∧ v.xbytes = x.slot.rcd.xbytes ∧
        v.nthreads = x.slot.rcd.threads ∧ v.threads = [] ∧ v.tl = [] ∧ v.started = s.clock ∧
        ∀ r, v.sreg r = if r < 16 then (if x.slot.rcd.smask.getLsbD r then NatMap.get 0 x.slot.rcd.sinit r else 0)
          else if r = 63 then x.slot.arg.getD 0 else 0) ∧
  (∀ s uid u l, Reported s → s.unit? uid = some u → u.live = [] → u.stopping = false → u.relaunchDue = false →
    u.buffer = [] → (∀ q ∈ s.sent, ∀ th, q.by_ ≠ .thread uid th) →
    enginesIdle s uid u = true → (s.cluster (u.core / 4)).turning = false → launchOf s u.func u.launch = some l →
    ∃ t l', exec (.unitComplete uid) s = .next t ∧ t.unit? uid = none ∧ launchOf t u.func u.launch = some l' ∧
      l'.unitsDone = l.unitsDone + 1 ∧ l'.runsDone = l.runsDone + u.runs ∧ l'.obj.count = l.obj.count + 1) ∧
  (∀ s cl x c, Reported s → x < 8 → s.ctx? cl x = some c → c.exiting = true → c.ended = false → c.tl.i = c.tl.c → (s.cluster cl).turning = false →
    ∃ t c', exec (.quartzContextEnd cl x) s = .next t ∧ t.ctx? cl x = some c' ∧ c'.ended = true) ∧
  (∀ s f idx l, Reported s → launchOf s f idx = some l → l.obj.ended = false → l.obj.cancelAt = none →
    l.unitsDone = l.rcd.units → ctxsOfLaunch s f idx = [] →
    (∀ c ∈ (s.func f).savedCtxs, c.st.launch = idx → c.st.ended = true) →
    ∃ t l', exec (.launchComplete f idx) s = .next t ∧ launchOf t f idx = some l' ∧ l'.obj.st = .complete ∧
      l'.obj.entry = none ∧ l'.ranges = [] ∧
      ∀ g, objOf s f .graph l.obj.parent = some g → objOf t f .graph l.obj.parent = some { g with count := g.count + 1 }))

-- Commands.

/-- Has the launch nothing more to do: its units have completed, and its contexts have ended (R193)? A cancellation then comes too
late (R316). -/
def finishedAt (s : State) (f : Nat) (lv : Level) (i : Nat) : Bool :=
  lv == .launch && (launchOf s f i).any (fun l => l.unitsDone == l.rcd.units && ctxsOfLaunch s f i == []
    && (s.func f).savedCtxs.all (fun c => c.st.launch != i || c.st.ended))

/-- R301 to R309, R231: a doorbell sets TAIL and wakes the function, and an unassigned opcode at HEAD is answered
BAD_COMMAND; each command's malformed entry is answered BAD_COMMAND, a handle that it may not name BAD_HANDLE; JOB,
PHASE and GRAPH create their objects in free slots, CLOSE closes, CANCEL cancels, WAIT and CANCEL wait for the end,
INVAL drops the translations and waits, until INVAL_COMPLETE writes its DONE. A command that finds no slot waits, read. The
answers to unreadable records and the moment of acceptance are the model's (log entries 44 and 45), and so is what a handle
may name (log entry 43). -/
def Obligations.CommandsAreAccepted : Prop :=
  ((∀ s f v, Reported s → s.boot.state = 1 → funcExists s f = true →
    ∃ t, exec (.cqtailWrite f v) s = .next t ∧ (t.func f).cqtail = (bits v 0 16).toNat ∧
      ((s.func f).wake = .collapsed ∨ ((s.func f).wake = .collapsing ∧ (s.func f).merging = false ∧ collapseLeft s f = []) → (s.func f).torn = false →
        (t.func f).wake = .waking ∧ (t.func f).wakeAt = s.clock)) ∧
  (∀ s s0 s1 f v e b hp sp, Reported s → s.boot.state = 1 → (s.func f).wake = .awake →
    s0 = (hostDoorbell s).modFunc f (fun x => { x with
      cqtail := (bits v 0 16).toNat, idleSince := s.clock
      drained := x.begun.isSome && (bits v 0 16).toNat % 2 ^ x.cqlog2n == x.cqhead % 2 ^ x.cqlog2n }) →
    pendingEntries (s0.func f) ≠ 0 → AtHead s0 s1 f e b hp sp → fld b 0 1 = 0 ∨ 8 < fld b 0 1 →
    ∃ t, exec (.cqtailWrite f v) s = .next t ∧ Answered s1 t f hp sp 0 true (irqOf b) 1) ∧
  (∀ s s1 f e b hp sp, AtHead s s1 f e b hp sp → ∀ p ∈ commandsOf f, fld b 0 1 = p.2 → entryOk b = false →
    ∃ t, exec p.1 s = .next t ∧ Answered s1 t f hp sp 0 true (irqOf b) 1) ∧
  (∀ s s1 f e b hp sp, AtHead s s1 f e b hp sp → entryOk b = true →
    ((∀ i, i = .cancel f ∧ fld b 0 1 = 5 ∨ i = .wait f ∧ fld b 0 1 = 6 ∨
        i = .ctxswSave f ∧ fld b 0 1 = 8 ∧ argOf b 1 = 0 ∨ i = .ctxswResume f ∧ fld b 0 1 = 8 ∧ argOf b 1 = 1 →
      (∀ lv n o, lookupHandle s1 f (argOf b 0) = .live lv n o → o.ended = true) →
      ∃ t, exec i s = .next t ∧ Answered s1 t f hp sp 0 true (irqOf b) 2) ∧
    (∀ i lvs, i = .phase f ∧ fld b 0 1 = 2 ∧ lvs = [Level.job] ∨ i = .close f ∧ fld b 0 1 = 4 ∧ lvs = [Level.job, Level.phase]
        ∨ i = .graph f ∧ fld b 0 1 = 3 ∧ (argOf b 1).toNat % 64 = 0 ∧ lvs = [Level.phase] →
      (∀ lv n o, lookupHandle s1 f (argOf b 0) = .live lv n o →
        lv ∉ lvs ∨ o.ended = true ∨ o.closed = true ∨ o.cancelAt ≠ none) →
      ∃ t, exec i s = .next t ∧ Answered s1 t f hp sp 0 true (irqOf b) 2)))) ∧
  ((∀ s s1 f e b hp sp i, AtHead s s1 f e b hp sp → entryOk b = true → fld b 0 1 = 1 → firstFree s1 f .job = some i →
    ∃ t o, exec (.job f) s = .next t ∧ objOf t f .job i = some o ∧ o.st = .running ∧ o.closed = false ∧ o.count = 0 ∧
      o.entry = some e ∧ o.irq = irqOf b ∧ o.gen = ((objOf s1 f .job i).map (·.gen)).getD 0 + 1 ∧
      Answered s1 t f hp sp (handleOf .job o.gen i) false (irqOf b) 0) ∧
  (∀ s s1 f e b hp sp, AtHead s s1 f e b hp sp → entryOk b = true → fld b 0 1 = 1 → firstFree s1 f .job = none →
    (s.func f).begun = none → exec (.job f) s = .next (s1.modFunc f (fun x => { x with begun := some (e, b) }))) ∧
  (∀ s s1 f e b hp sp j q i, AtHead s s1 f e b hp sp → entryOk b = true → fld b 0 1 = 2 → OpenAt s1 f (argOf b 0) .job j q →
    q.closed = false → q.cancelAt = none → firstFree s1 f .phase = some i →
    ∃ t o p, exec (.phase f) s = .next t ∧ NatMap.get none (t.func f).phases i = some ⟨o, p⟩ ∧
      p = (bits (argOf b 1) 32 2).toNat ∧ o.st = .running ∧ o.deadline = (bits (argOf b 1) 0 32).toNat ∧
      o.dlStart = some s.clock ∧ o.dlCancel = (argOf b 1).getLsbD 34 ∧ o.parent = j ∧ o.parentGen = q.gen ∧
      o.entry = some e ∧ Answered s1 t f hp sp (handleOf .phase o.gen i) false (irqOf b) 0) ∧
  (∀ s s1 s2 f e b hp sp p q nodes, AtHead s s1 f e b hp sp → entryOk b = true → fld b 0 1 = 3 →
    (argOf b 1).toNat % 64 = 0 → OpenAt s1 f (argOf b 0) .phase p q → q.closed = false → q.cancelAt = none →
    readGraph f (argOf b 1).toNat s1 = (.inr nodes, s2) → nodes.foldl (fun n x => n + x.regions.length) 0 ≤ 4096 →
    createGraph s2 f p e (argOf b 1).toNat (irqOf b) nodes ≠ none →
    ∃ t g o slots, exec (.graph f) s = .next t ∧ NatMap.get none (t.func f).graphs g = some ⟨o, slots⟩ ∧ o.st = .running ∧
      o.parent = p ∧ o.entry = some e ∧ slots.length = nodes.length ∧ slots.Nodup ∧
      (t.func f).cqhead = ((s.func f).cqhead + 1) % 65536 ∧
      ∀ x ∈ nodes.zip slots, ∃ l, launchOf t f x.2 = some l ∧ l.obj.st = .pending ∧ l.obj.parent = g ∧
        l.obj.parentGen = o.gen ∧ l.regions = x.1.regions ∧ l.obj.deadline = x.1.deadline ∧
        l.devlnch = (x.1.nflags % 2 == 1) ∧ l.cohorts = 0 ∧ l.readyAt = none ∧ l.arg = none ∧
        (x.1.nref = 0 → l.rcd = recordOf x.1.bytes))) ∧
  ((∀ s s1 f e b hp sp lv i q, AtHead s s1 f e b hp sp → entryOk b = true → fld b 0 1 = 4 →
    OpenAt s1 f (argOf b 0) lv i q → lv = .job ∨ lv = .phase → q.closed = false → q.cancelAt = none →
    ∃ t, exec (.close f) s = .next t ∧ objOf t f lv i = some { q with closed := true } ∧
      Answered s1 t f hp sp 0 true (irqOf b) 0) ∧
  (∀ s s1 f e b hp sp lv i q, AtHead s s1 f e b hp sp → entryOk b = true → OpenAt s1 f (argOf b 0) lv i q →
    (fld b 0 1 = 5 → ∃ t, exec (.cancel f) s = .next t ∧
      objOf t f lv i = some (if q.cancelAt = none ∧ finishedAt s1 f lv i = false then
          { q with cancelAt := some s.clock, closed := true, asked := some (q.asked.getD s.clock) }
        else { q with asked := some (q.asked.getD s.clock) }) ∧
      (t.func f).cmds = (s1.func f).cmds ++ [⟨5, e, irqOf b, argOf b 0, 0, 0, none, none⟩] ∧
      Answered s1 t f hp sp 0 false (irqOf b) 0) ∧
    (fld b 0 1 = 6 → ∃ t, exec (.wait f) s = .next t ∧ objOf t f lv i = some q ∧
      (t.func f).cmds = (s1.func f).cmds ++ [⟨6, e, irqOf b, argOf b 0, 0, 0, none, none⟩] ∧ accepts t f = false ∧
      Answered s1 t f hp sp 0 false (irqOf b) 0)) ∧
  (∀ s s1 f e b hp sp lo len, AtHead s s1 f e b hp sp → entryOk b = true → fld b 0 1 = 7 → f ≠ 0 → lo = (argOf b 0).toNat →
    len = (argOf b 1).toNat → lo % 4096 = 0 → len % 4096 = 0 → len ≠ 0 → argOf b 2 = 0 →
    NatMap.wf [] s1.tlbs = true →
    ∃ t i, exec (.inval f) s = .next t ∧ t.invals = s1.invals ++ [i] ∧ i.func = f ∧ i.stage = 0 ∧ i.lo = lo ∧ i.hi = lo + len ∧
      i.issuer = f ∧ i.entry = e ∧ (∀ h x, x ∈ NatMap.get [] t.tlbs h ↔
        x ∈ NatMap.get [] s1.tlbs h ∧ ¬ (x.func = f ∧ lo < 4096 * (x.vpn + x.pages) ∧ 4096 * x.vpn < lo + len)) ∧
      (∀ q ∈ s1.sent, q.func = f → lo ≤ q.va → q.va < lo + len → q.id ∈ i.waits) ∧
      Answered s1 t f hp sp 0 false (irqOf b) 0) ∧
  (∀ s id i sp, Reported s → s.invals.find? (fun x => x.id == id) = some i → invalDone s i = true →
    Maps s i.issuer .write (i.entry + 4) sp (bytesAt sp.pa 4) → i.entry % 64 = 0 → (∀ sec, (dirOf s sec).st ≠ .u) →
    (∀ r ∈ s.faults, r.log = i.func → r.written = true) → L2Room s 0 →
    ∃ t, exec (.invalComplete id) s = .next t ∧ t.invals = s.invals.filter (fun j => j.id != id) ∧
      (∀ a, homeByte t a = storesAt [(sp.pa, leBytes 4 0x300)] (homeByte s a) a) ∧
      t.irqs = s.irqs ++ (if i.irq then [i.issuer] else [])))

-- Work objects and answers.

/-- R184, R298, R312, R314 to R317, R331: a node whose edges are met may start its cohorts; a cancelled launch ends as
cancelled with its units gone; a graph whose nodes have ended, and a closed phase or job whose children have, ends as
complete, and is then counted in its parent, or as cancelled; a deadline's expiry counts one event and cancels where
asked; a cancellation that hangs for 100 ms is fatal. R234: an answer that names no written, unanswered fault is
ignored; RETRY lets the operation or the fetch go on, and issues the held word again; DELIVER ends the operation in
error, or raises the translation trap; ABORT ends it, or tears the context down; the answer for a saved unit is held, and of those for a unit that is
saved no longer only ABORT acts (log entry 53).
When objects run and end is partly the model's reading (log entries 38 and 43). -/
def Obligations.ObjectsEndAndFaultsAreAnswered : Prop :=
  ((∀ s f idx l, Reported s → launchOf s f idx = some l → l.readyAt = none → l.obj.ended = false → l.obj.cancelAt = none →
    (∀ p ∈ l.preds, nodeState s f p = .complete) → (l.devlnch = true → l.arg.isSome = true) →
    ∃ t, exec (.nodeStart f idx) s = .next t ∧ launchOf t f idx = some { l with readyAt := some s.clock } ∧
      ((∀ r ∈ l.regions, r.host = false) → { t with funcs := s.funcs } = s)) ∧
  (∀ s f idx l, Reported s → launchOf s f idx = some l → l.obj.ended = false → l.obj.cancelAt.isSome = true →
    launchStopped s f idx = true →
    ∃ t l', exec (.workObjectEnd f .launch idx) s = .next t ∧ launchOf t f idx = some l' ∧ l'.obj.st = .cancelled ∧
      l'.obj.entry = none ∧ l'.obj.count = l.obj.count ∧
      ∀ n v, t.unit? n = some v → ¬ (v.func = f ∧ v.launch = idx)) ∧
  (∀ s f lv idx o good, Reported s → lv ≠ .launch → objOf s f lv idx = some o → o.ended = false →
    (lv = .graph ∨ o.closed = true) →
    (∀ c ∈ childrenOf s f lv idx, ∀ q, objOf s f c.1 c.2 = some q → q.ended = true) →
    (good = true ↔ (∀ c ∈ childrenOf s f lv idx, ∀ q, objOf s f c.1 c.2 = some q → q.st = .complete) ∧
      o.lost = false ∧ ¬ (o.cancelAt.isSome = true ∧ childrenOf s f lv idx = [] ∧ o.count = 0)) →
    ∃ t, exec (.workObjectEnd f lv idx) s = .next t ∧
      objOf t f lv idx = some { o with st := if good then .complete else .cancelled, entry := none } ∧
      ∀ up q, levelAbove lv = some up → objOf s f up o.parent = some q →
        objOf t f up o.parent = some (if good then { q with count := q.count + 1 }
          else if q.gen = o.parentGen then { q with lost := true } else q))) ∧
  ((∀ s f lv e idx o c, Reported s → (lv = .launch ∧ e = .nodeDeadlineExpire f idx) ∨ (lv = .phase ∧ e = .phaseDeadlineExpire f idx) →
    objOf s f lv idx = some o → o.deadline ≠ 0 → o.dlStart = some c → c + 1400 * o.deadline ≤ s.clock → o.ended = false →
    o.expired = false →
    ∃ t, exec e s = .next t ∧ objOf t f lv idx = some (if o.dlCancel = true ∧ o.cancelAt = none ∧ finishedAt s f lv idx = false then
        { o with events := o.events + 1, expired := true, cancelAt := some s.clock, closed := true }
      else { o with events := o.events + 1, expired := true })) ∧
  (∀ s f lv idx o c, Reported s → objOf s f lv idx = some o → o.asked = some c → o.ended = false →
    140000000 ≤ s.clock - c → ∃ t, exec (.cancelHang f lv idx) s = .next t ∧ TornDown t f)) ∧
  ((∀ s f tag e, Reported s → s.boot.state = 1 → funcExists s f = true →
    e = .fanswerRetry f tag ∨ e = .fanswerDeliver f tag ∨ e = .fanswerAbort f tag →
    (∀ r ∈ s.faults, r.log = f → r.written = true → r.info = false → r.held = none → r.tag ≠ tag.toNat) →
    exec e s = .next s) ∧
  (∀ s f tag r, Reported s → s.boot.state = 1 → funcExists s f = true → answered s f tag = some r →
    (∀ id o, r.src = .op id → opOf s id = some o →
      (∃ t, exec (.fanswerRetry f tag) s = .next t ∧ opOf t id = some { o with waiting := none } ∧
        t.faults = s.faults.filter (fun q => q.id != r.id)) ∧
      (∀ e, e = .fanswerDeliver f tag ∨ e = .fanswerAbort f tag → ∃ t, exec e s = .next t ∧
        opOf t id = some { o with waiting := none, err := true } ∧ t.faults = s.faults.filter (fun q => q.id != r.id))) ∧
    (∀ a b fr id, r.src = .agent a b → frontOf s a = some fr → fr.hold = some (.fault id none) →
      (∃ t, exec (.fanswerRetry f tag) s = .next t ∧ frontOf t a = some { fr with hold := none }) ∧
      (∀ g l, agentLaunch s a = some (g, l) → fr.priv = false → (recOf s g l).trapentry ≠ 0 →
        ∃ t, exec (.fanswerDeliver f tag) s = .next t ∧ frontOf t a = some (entered a fr (recOf s g l).trapentry 0xFF 0x19
          (BitVec.ofNat 64 r.va) (presentMask s a) (older fr) fr.pc fr.j true))) ∧
    (∀ k sl b fr id, r.src = .agent (.group k sl) b → frontOf s (.group k sl) = some fr → fr.hold = some (.standing id) →
      (∃ t, exec (.fanswerRetry f tag) s = .next t ∧ frontOf t (.group k sl) = some { fr with hold := none }) ∧
      (∀ g l x q, agentLaunch s (.group k sl) = some (g, l) → fr.priv = false → (recOf s g l).trapentry ≠ 0 → older fr = x :: q →
        ∃ t, exec (.fanswerDeliver f tag) s = .next t ∧ frontOf t (.group k sl) = some (entered (.group k sl) fr
          (recOf s g l).trapentry 0 0x18 (BitVec.ofNat 64 r.va) r.lanes ({ x with stat := 0x18 } :: q) fr.pc fr.j true))) ∧
    (∀ a b fr id en i, r.src = .agent a b → frontOf s a = some fr → fr.hold = some (.fault id (some en)) → en.instr = some i →
      exec (.fanswerRetry f tag) s = retryWord (dropFault (setFanswer s f 0 tag) r) a en ∧
      (∀ g l, agentLaunch s a = some (g, l) → fr.priv = false → (recOf s g l).trapentry ≠ 0 →
        ∃ t fr', exec (.fanswerDeliver f tag) s = .next t ∧ frontOf t a = some fr' ∧ fr'.priv = true ∧
          fr'.pc = (recOf s g l).trapentry ∧ fr'.xcause.setWidth 8 = 0x18#8 ∧ fr'.xaddr = BitVec.ofNat 64 r.va ∧
          fr'.hold = none ∧ (i.ends = false → isSoft i = false → fr'.replay.map (fun x => x.word) =
            (older fr).map (fun x => x.word) ++ [en.word]))) ∧
    (∀ a b, r.src = .agent a b → ∃ t, exec (.fanswerAbort f tag) s = .next t ∧ TornDown t r.func) ∧
    (∀ g n k, r.src = .saved g n k → (∃ i ∈ (s.func g).saved, i.id = n) ∨
        (∃ c ∈ (s.func g).savedCtxs, 2 ^ 32 + 8 * c.cluster + c.ctx = n) → ∀ e act, (e = .fanswerRetry f tag ∧ act = 0) ∨ (e = .fanswerDeliver f tag ∧ act = 1) ∨
        (e = .fanswerAbort f tag ∧ act = 2) →
      ∃ t, exec e s = .next t ∧ t.faults = s.faults.map (fun q => if q.id = r.id then { q with held := some act } else q)) ∧
    (∀ g n k, r.src = .saved g n k → (∀ i ∈ (s.func g).saved, i.id ≠ n) →
      (∀ c ∈ (s.func g).savedCtxs, 2 ^ 32 + 8 * c.cluster + c.ctx ≠ n) →
      (∀ e, e = .fanswerRetry f tag ∨ e = .fanswerDeliver f tag →
        ∃ t, exec e s = .next t ∧ t.faults = s.faults.filter (fun q => q.id != r.id)) ∧
      ∃ t, exec (.fanswerAbort f tag) s = .next t ∧ TornDown t r.func)))

-- Pre-emption.

/-- R209, R296, R297, R324 to R330, R334 to R336, R347, R360: at a slice's end the slice is renewed when no other
function is eligible; else each unit is decided, or, with none left, the cluster's image is saved and the next
function takes a cleared cluster. A drain that times out becomes a save, or a restart of a unit whose threads stand in one
region; a unit that is to be restarted and no longer can be is saved (R326). A save takes the unit off its core into an image, or the context into its own; a restore puts both back as the image
says, and the images of contexts and clusters read back as what was saved. CTXSW SAVE holds the object and decides its
units, RESUME releases it, and each is done at once when nothing is left to do; cut by a slice end it leaves a progress
record. A unit that is relaunched leaves nothing but its index to start again. The place of an image, and the parts whose
layout the spec does not give, are the model's (log entries 48, 51 to 54). -/
def Obligations.PreemptionSavesAndRestores : Prop :=
  ((∀ s cl f p, Reported s → (s.cluster cl).serving = some f → partOfCluster s cl = some p → (s.cluster cl).turning = false →
    f ≠ 0 → sliceOver s f cl = true ∨ hasCohort s f cl = false →
    (nextFunc s f cl = none → exec (.tenantSliceEnd cl) s = .next (s.modCluster cl (fun x => { x with sliceStart := s.clock }))) ∧
    (∀ g, nextFunc s f cl = some g → holdsOn s f cl = false → clearable (s.cluster cl) = true →
      (s.cluster cl).lastServed = some f → (∀ i ∈ (s.func g).savedClusters, i.cluster ≠ cl) →
      ∃ t, exec (.tenantSliceEnd cl) s = .next t ∧ (t.cluster cl).serving = some g ∧ (t.cluster cl).lastServed = some g ∧
        (t.cluster cl).turning = false ∧ (t.cluster cl).sliceStart = s.clock ∧ (t.cluster cl).w = [] ∧ (t.cluster cl).y = [] ∧
        (sliceOver s f cl = true → funcExists s f = true → (t.func f).torn = true ∨
          ∃ i ∈ (t.func f).savedClusters, i.cluster = cl ∧ i.size = (clusterImage f cl (s.cluster cl)).length)) ∧
    (∀ g uid u, nextFunc s f cl = some g → s.unit? uid = some u → u.func = f → u.core / 4 = cl →
      (∀ n v, s.unit? n = some v → v.func = f → v.core / 4 = cl → Undecided v) →
      ∃ t, exec (.tenantSliceEnd cl) s = .next t ∧ (t.cluster cl).turning = true ∧ t.unit? uid = some (decided s uid u))) ∧
  (∀ s uid u d, Reported s → s.unit? uid = some u → u.drain = some d → d ≤ s.clock →
    u.relaunchDue = false → u.saveBy = none →
    ((s.cluster (u.core / 4)).turning = true → (s.cluster (u.core / 4)).serving = some u.func) →
    (restartMark u = none → ∃ t, exec (.drainTimeout uid) s = .next t ∧
      t.unit? uid = some { u with drain := none, saveBy := some s.clock, restarts := false,
                                  atFault := (unitGroups s uid u.core).any (fun g => g.2.front.faulted) }) ∧
    (∀ m, restartable s uid u = some m → (unitGroups s uid u.core).any (fun g => g.2.front.faulted) = false →
      (betweenRuns s uid u = false → ∃ t, exec (.drainTimeout uid) s = .next t ∧
        t.unit? uid = some { u with drain := none, saveBy := some s.clock, restarts := true, atFault := false }) ∧
      (betweenRuns s uid u = true → ∃ t, exec (.drainTimeout uid) s = .next t ∧ t.unit? uid = none ∧
        ((∃ i ∈ (t.func u.func).saved, i.id = uid ∧ i.index = u.index ∧ i.core = u.core ∧ i.how = 1 ∧ i.groups = [] ∧ i.ops = []) ∨
          (t.func u.func).torn = true)))) ∧
  (∀ s e uid u forced, Reported s → (e = .unitSave uid ∧ forced = false) ∨ (e = .forcedSave uid ∧ forced = true) →
    s.unit? uid = some u → saveStands s u = true → savable s uid u = true → saveForced s u = forced →
    (u.restarts = true → betweenRuns s uid u = true ∧ restartable s uid u ≠ none) →
    ∃ t, exec e s = .next t ∧ t.unit? uid = none ∧
      ((∃ i ∈ (t.func u.func).saved, i.id = uid ∧ i.index = u.index ∧ i.core = u.core ∧ i.xoff = u.xoff) ∨
        (t.func u.func).torn = true)) ∧
  (∀ s uid u, Reported s → s.unit? uid = some u → saveStands s u = true → savable s uid u = true → u.restarts = true →
    betweenRuns s uid u = false ∨ restartable s uid u = none →
    ∃ t, exec (.unitSave uid) s = .next t ∧ t.unit? uid = some { u with restarts := false }) ∧
  (∀ s e uid u how a b v s2 s3, Reported s → (e = .unitSave uid ∧ how = 0 ∧ saveForced s u = false) ∨
      (e = .forcedSave uid ∧ how = 2 ∧ saveForced s u = true) → Settled s → s.unit? uid = some u → u.restarts = false →
    saveStands s u = true → savable s uid u = true → unitSlots s uid = [] → (∀ o ∈ s.engineOps, o.uid ≠ uid) →
    (∀ x ∈ u.bins, x.spilled = false) → (∀ th, (u.thread th).fenceSys = false) → (s.cluster (u.core / 4)).turning = false →
    s2 = s.setUnit uid (some u) → v = { u with drain := none, saveBy := none, atFault := false } →
    b = unitImage s2 v how none [] [] →
    placeImage s2 u.func b.length = some a → deviceWrite s2 u.func a b = (none, s3) →
    ∃ t i, exec e s = .next t ∧ t.unit? uid = none ∧ (t.func u.func).saved = (s.func u.func).saved ++ [i] ∧ i.addr = a ∧
      i.size = b.length ∧ i.rest = v ∧ i.how = how ∧ i.bySwitch = u.bySwitch ∧ i.groups = [] ∧ i.ops = [])) ∧
  ((∀ s cl x c b a s1, Reported s → s.ctx? cl x = some c → c.saveBy.isSome = true → c.ended = false → c.exiting = false →
    c.tl.i = c.tl.c → c.front.atBoundary = true ∨ ctxStalls s cl x c = true → (s.cluster cl).turning = false →
    b = ctxImage s { c with saveBy := none } cl x → placeImage s c.func b.length = some a → deviceWrite s c.func a b = (none, s1) →
    ∃ t, exec (.quartzContextSave cl x) s = .next t ∧ t.ctx? cl x = none ∧
      (t.func c.func).savedCtxs = (s.func c.func).savedCtxs ++ [⟨cl, x, a, b.length, c.bySwitch, { c with saveBy := none }⟩]) ∧
  (∀ s s1 f idx n c st, Reported s → cohortImages s f idx n = [] → cohortCtxs s f idx n = [c] →
    placesFree s f idx n c.cluster [] [c] = true → loadCtx f c s = (.inr st, s1) →
    (s.func f).savedClusters.find? (fun i => i.cluster == c.cluster) = none → (∀ r ∈ s.faults, r.held = none) → c.ctx < 8 →
    (s.func f).torn = false → (∀ q ∈ (s.func f).cmds, q.opc ≠ 8) →
    ∃ t, exec (.unitRestore f idx n) s = .next t ∧ c ∉ (t.func f).savedCtxs ∧ (t.cluster c.cluster).serving = some f ∧
      t.ctx? c.cluster c.ctx = some { st with bySwitch := false, saveBy := none }) ∧
  (∀ s (c : Ctx) cl x, c.park = none → NatMap.wf 0 c.s = true → (∀ p ∈ c.s, p.1 < 64) → NatMap.wf 0 c.m = true →
    (∀ p ∈ c.m, p.1 < 65536) → c.tl.i < 2 ^ 64 → c.tl.c < 2 ^ 64 → (∀ p, c.failed = some p → p.1 < 2 ^ 64 ∧ p.2 < 2 ^ 64) →
    readCtx c (ctxImage s c cl x) = c) ∧
  (∀ f cl (c d : ClusterSt), NatMap.wf 0 c.w = true → (∀ p ∈ c.w, p.1 < 4194304) → NatMap.wf 0 c.y = true →
    (∀ p ∈ c.y, p.1 < 2097152) → (∀ e ∈ c.wSeals ++ c.ySeals, e.refs = 0 ∧ e.owner = none ∧ e.start < 2 ^ 64 ∧ e.len < 2 ^ 64) →
    (∀ b ∈ c.queues, b.func = f ∧ b.launch < 2 ^ 32 ∧ b.q < 2 ^ 32 ∧ b.core < 2 ^ 32 ∧ b.off < 2 ^ 64 ∧
      ∀ l, b.kept = some l → 0 < l.length ∧ l.length ≤ 2064) →
    readCluster f d (clusterImage f cl c) =
      { d with w := c.w, y := c.y, wSeals := c.wSeals, ySeals := c.ySeals, queues := c.queues }) ∧
  (∀ s s1 f idx n i b x, Reported s → cohortImages s f idx n = [i] → cohortCtxs s f idx n = [] →
    placesFree s f idx n (i.core / 4) [i] [] = true → deviceRead f i.size s i.addr = (some b, s1) → checkImage i b = .inr x →
    (s.func f).savedClusters.find? (fun j => j.cluster == i.core / 4) = none → (s.func f).torn = false →
    x.groups = [] → x.ops = [] → i.queues = [] → (∀ r ∈ s.faults, r.held = none) → (∀ q ∈ (s.func f).cmds, q.opc ≠ 8) →
    ∃ t v, exec (.unitRestore f idx n) s = .next t ∧ t.unit? i.id = some v ∧
      { v with bins := x.unit.bins } = { x.unit with bySwitch := false, drain := none, saveBy := none, restarts := false, atFault := false } ∧
      (∀ q ∈ (t.func f).saved, q.id ≠ i.id) ∧ (t.core i.core).l1 = [] ∧
      ∀ k, k < x.x.length → NatMap.get 0 (t.core i.core).x (i.xoff + k) = x.x.getD k 0)) ∧
  ((∀ s s1 f e b hp sp lv i q ls, AtHead s s1 f e b hp sp → entryOk b = true → fld b 0 1 = 8 → OpenAt s1 f (argOf b 0) lv i q →
    ls = launchesUnder s1 f (argOf b 0) →
    (argOf b 1 = 0 → (∀ l ∈ ls, unitsOfLaunch s1 f l = []) →
      ∃ t, exec (.ctxswSave f) s = .next t ∧ objOf t f lv i = some { q with held := true } ∧
        Answered s1 t f hp sp 0 true (irqOf b) 0) ∧
    (∀ uid u, argOf b 1 = 0 → s1.unit? uid = some u → u.func = f → u.launch ∈ ls →
      (∀ n v, s1.unit? n = some v → v.func = f → v.launch ∈ ls → Undecided v) →
      ∃ t, exec (.ctxswSave f) s = .next t ∧ objOf t f lv i = some { q with held := true } ∧
        t.unit? uid = some { decided s1 uid u with bySwitch := true } ∧ (t.func f).cqhead = (s1.func f).cqhead ∧
        accepts t f = false) ∧
    (argOf b 1 = 1 → (∀ x ∈ (s1.func f).saved, x.launch ∈ ls → x.bySwitch = false) →
      ∃ t, exec (.ctxswResume f) s = .next t ∧ objOf t f lv i = some { q with held := false } ∧
        Answered s1 t f hp sp 0 true (irqOf b) 0) ∧
    (∀ x, argOf b 1 = 1 → x ∈ (s1.func f).saved → x.launch ∈ ls → x.bySwitch = true →
      ∃ t, exec (.ctxswResume f) s = .next t ∧ objOf t f lv i = some { q with held := false } ∧
        (t.func f).saved = (s1.func f).saved ∧ (t.func f).cqhead = (s1.func f).cqhead ∧ accepts t f = false)) ∧
  (∀ s s2 f c d a, Reported s → (s.func f).cmds.find? (fun q => q.opc == 8) = some c → c.cutAt = some d → d ≤ s.clock →
    (∀ l ∈ launchesUnder s f c.handle, unitsOfLaunch s f l = []) →
    (c.recAt = some a ∧ deviceWrite s f a (progressRecord s f c) = (none, s2)) ∨
      (c.recAt = none ∧ writeImage s f (progressRecord s f c) = (some a, s2)) →
    ∃ t, exec (.ctxswSliceTimeout f) s = .next t ∧ (t.func f).cmds = (s.func f).cmds.map (fun q =>
      if q.opc = 8 then { q with cutAt := none, recAt := some a } else q)) ∧
  (∀ s uid u l, Reported s → s.unit? uid = some u → u.relaunchDue = true → launchOf s u.func u.launch = some l →
    (s.cluster (u.core / 4)).turning = false →
    ∃ t, exec (.unitRelaunch uid) s = .next t ∧ t.unit? uid = none ∧ (∀ o ∈ t.engineOps, o.uid ≠ uid) ∧
      launchOf t u.func u.launch = some { l with relaunch := l.relaunch ++ [(u.index, u.core / 4)] }))

-- Tenants.

/-- R219, R226, R333, R337 to R350: a collapse begins and completes, with the image of each of its clusters saved, one at a time, and their
power gated; a wake write ends it, and a missed bound is counted; partitions and functions are enabled only when their
checks pass, and a function reset leaves nothing of the function; keys are installed and zeroised; PSPLIT and the
registers without a row of their own take their writable fields. Attestation, throttling, the certificate chain and bring-up,
from a package reset or a recovery image, complete; L2LIM, the placement advisory tables, ROUTE and PFEB take theirs. Whole-register writes, a reserved PSPLIT that is
ignored, and a partition without functions that is not gated are the model's (log entries 59 and 60), as are the layout of what
an attestation digests (log entry 46) and the values fixed at manufacture (log entry 22). -/
def Obligations.TenantsAndRegistersAct : Prop :=
  ((∀ s f x g, Reported s → x = s.func f → g = s.fcfgOf f → f ≠ 0 → g.en = true → g.idle ≠ 0 → x.wake = .awake →
    funcIdle s f = true → x.idleSince + 1400 * g.idle ≤ s.clock →
    exec (.collapseBegin f) s = .next (s.modFunc f (fun y => { y with wake := .collapsing, merging := true }))) ∧
  (∀ s f, Reported s → (s.func f).wake = .collapsing → (s.func f).merging = true → s.sent = [] →
    ∃ t, exec (.collapseComplete f) s = .next t ∧
      (∀ k sec p, k / 4 < 64 → (s.cluster (k / 4)).lastServed = some f → partialOf s k sec = some p → (dirOf t sec).st ≠ .u) ∧
      ((∀ sec, SoundParts s sec) → t.func f = { s.func f with merging := false } ∧ (∀ h, h ≠ f → t.func h = s.func h) ∧
        t.mem = s.mem) ∧
      ((∀ sec, (dirOf s sec).st ≠ .u) → ∀ a, homeByte t a = homeByte s a)) ∧
  (∀ s f cl rest s0 b, Reported s → (s.func f).wake = .collapsing → (s.func f).merging = false →
    collapseLeft s f = cl :: rest → (s.func f).torn = false →
    s0 = s.modFunc f (fun x => { x with savedClusters := x.savedClusters.filter (fun i => i.cluster != cl) }) →
    b = clusterImage f cl (s.cluster cl) →
    (∀ a s1, placeImage s0 f b.length = some a → deviceWrite s0 f a b = (none, s1) → Reported s1 →
      ∃ t, exec (.collapseComplete f) s = .next t ∧ (t.func f).wake = .collapsing ∧ (t.cluster cl).w = [] ∧
        (t.cluster cl).y = [] ∧ (t.cluster cl).lastServed = none ∧
        (t.func f).savedClusters = (s0.func f).savedClusters ++ [⟨cl, a, b.length⟩] ∧ ∀ a, homeByte t a = homeByte s1 a) ∧
    (placeImage s0 f b.length = none → ∃ t, exec (.collapseComplete f) s = .next t ∧ TornDown t f)) ∧
  (∀ s f, Reported s → (s.func f).wake = .collapsing → (s.func f).merging = false → collapseLeft s f = [] →
    ∃ t, exec (.collapseComplete f) s = .next t ∧ (t.func f).wake = .collapsed ∧
      (∀ cl, (t.cluster cl).w = (s.cluster cl).w ∧ (t.cluster cl).y = (s.cluster cl).y) ∧
      ∀ cl p, cl < 64 → partOfCluster s cl = some p → NatMap.wf .reset s.fcfg = true → (s.fcfgOf f).en = true →
        (s.fcfgOf f).part = p → holdsOn s 0 cl = false →
        (∀ h, (s.fcfgOf h).en = true → (s.fcfgOf h).part = p → h = f ∨ (s.func h).wake = .collapsed) →
        ((∀ h, (s.fcfgOf h).en = true → (s.fcfgOf h).part = p → (s.fcfgOf h).wclass ≠ 0) →
          (t.cluster cl).gate = .powerGated) ∧
        ((s.fcfgOf f).wclass = 0 → (t.cluster cl).gate = .clockGated)) ∧
  (∀ s f v, Reported s → s.boot.state = 1 → funcExists s f = true →
    (v = 0 → exec (.wakeWrite f v) s = .next s) ∧ (v ≠ 0 → ∃ t, exec (.wakeWrite f v) s = .next t ∧ Woken s t f)) ∧
  (∀ s f x, Reported s → x = s.func f → x.wake = .waking →
    ∃ t, exec (.wakeEnd f) s = .next t ∧ (t.func f).wake = .awake ∧ (t.func f).wmiss =
      if [25, 300, 4000].getD (s.fcfgOf f).wclass 40000 * 1400 < s.clock - x.wakeAt then
        (if x.wmiss = BitVec.allOnes 32 then x.wmiss else x.wmiss + 1) else x.wmiss)) ∧
  ((∀ s p v x, Reported s → s.boot.state = 1 → p < 20 → x = s.part p → v.getLsbD 0 = true →
    (x.en = true → exec (.partitionEnable p v) s = .next s) ∧
    (x.en = false → ∃ t, exec (.partitionEnable p v) s = .next t ∧ (∀ n, n ≠ p → t.part n = s.part n) ∧
      t.part p = (if partOk s p then
        { x with en := true, err := false, ppid := (bits v 2 12).toNat, node := (bits v 14 8).toNat }
        else { x with err := true, ppid := (bits v 2 12).toNat, node := (bits v 14 8).toNat }))) ∧
  (∀ s p v x, Reported s → s.boot.state = 1 → p < 20 → x = s.part p → v.getLsbD 0 = false →
    ∃ t, exec (.partitionDisable p v) s = .next t ∧ (∀ n, n ≠ p → t.part n = s.part n) ∧
      t.part p = (if x.en then (if funcsOfPart s p = [] then { x with en := false } else x)
        else { x with ppid := (bits v 2 12).toNat, node := (bits v 14 8).toNat })) ∧
  (∀ s f v g, Reported s → s.boot.state = 1 → 0 < f → f ≤ 512 → g = fcfgOfValue v → g.en = true → (s.fcfgOf f).en = false →
    (fcfgOk s g = false → exec (.functionCreate f v) s = .next s) ∧
    (fcfgOk s g = true → ∃ t, exec (.functionCreate f v) s = .next t ∧ t.fcfgOf f = g ∧ funcExists t f = true ∧
      ((∀ sec, SoundParts s sec) → s.sent = [] → t.func f = { Func.reset with idleSince := s.clock } ∧
        ∀ h, h ≠ f → t.fcfgOf h = s.fcfgOf h ∧ t.func h = s.func h))) ∧
  (∀ s f v g, Reported s → s.boot.state = 1 → 0 < f → f ≤ 512 → g = fcfgOfValue v → g.en = false → (s.fcfgOf f).en = true →
    ∃ t, exec (.functionDisable f v) s = .next t ∧ funcExists t f = false ∧
      t.func f = { Func.reset with idleSince := s.clock } ∧ (∀ n u, t.unit? n = some u → u.func ≠ f) ∧
      (∀ h, ∀ e ∈ NatMap.get [] t.tlbs h, e.func ≠ f) ∧ ∀ h, h ≠ f → t.fcfgOf h = s.fcfgOf h)) ∧
  ((∀ s v, Reported s → s.boot.state = 1 →
    (v.getLsbD 1 = false → v.getLsbD 0 = true →
      exec (.keyInstall v) s = .next { s with keys := NatMap.set none s.keys s.keysel (some (.pair s.keydata)) }) ∧
    (v.getLsbD 1 = false → v.getLsbD 0 = false → exec (.keyInstall v) s = .next s) ∧
    (v.getLsbD 1 = true → exec (.keyZeroise v) s = .next { s with keys := NatMap.set none s.keys s.keysel none })) ∧
  (∀ s v, Reported s → s.boot.state = 1 →
    ((∀ q, q < 18 → bits v (2 * q) 2 ≠ 3 ∧ (bits v (2 * q) 2 = bits s.psplit (2 * q) 2 ∨ portOwned s q = false)) →
      exec (.psplitWrite v) s = .next { s with psplit := (bits v 0 36).setWidth 64 }) ∧
    ((∃ q, q < 18 ∧ (bits v (2 * q) 2 = 3 ∨ (bits v (2 * q) 2 ≠ bits s.psplit (2 * q) 2 ∧ portOwned s q = true))) →
      exec (.psplitWrite v) s = .next s)) ∧
  (∀ s f size v x y off, Reported s → s.boot.state = 1 → funcExists s f = true → x = s.func f →
    (∀ r ∈ s.faults, r.log ≠ f) → (off, y) ∈ [
      (0x00, if x.cqen then x else { x with cqbase := v / 4096 * 4096 % 2 ^ 57 }),
      (0x80, { x with flogBad := false, flog := { x.flog with base := v / 32 * 32 % 2 ^ 57 } }),
      (0x88, { x with flogBad := false, flog := { x.flog with
        log2n := v % 32, en := v / 32 % 2 == 1 && decide (4 ≤ v % 32) && decide (v % 32 ≤ 16) } }),
      (0x90, { x with flogBad := false, flog := { x.flog with head := v % 65536 } }),
      (0xC0, if x.cqen then x else { x with s1root := v / 4096 * 4096 % 2 ^ 52 }),
      (0x100, if x.cqen then x else { x with savebase := v / 4096 * 4096 % 2 ^ 57 }),
      (0x108, if x.cqen then x else { x with savesize := v / 4096 * 4096 % 2 ^ 32 }),
      (0x144, { x with wmiss := x.wmiss &&& ~~~(BitVec.ofNat 32 v) }),
      (0x300, { x with elog := { x.elog with base := v / 64 * 64 % 2 ^ 57 } }),
      (0x308, { x with elog := { x.elog with
        log2n := v % 32, en := v / 32 % 2 == 1 && decide (4 ≤ v % 32) && decide (v % 32 ≤ 16) } }),
      (0x310, { x with elog := { x.elog with head := v % 65536 } })] →
    ∃ t, exec (.registerWrite ⟨f, off, size, v⟩) s = .next t ∧ t.func f = y ∧ (∀ h, h ≠ f → t.func h = s.func h) ∧
      { t with funcs := s.funcs } = s) ∧
  (∀ s f size v n, Reported s → s.boot.state = 1 → funcExists s f = true → n < 10 →
    ∃ t, exec (.registerWrite ⟨f, 0x200 + 8 * n, size, v⟩) s = .next t ∧
      ∀ k, NatMap.get 0 (t.func f).counters k = if k = n then NatMap.get 0 (s.func f).counters n &&& ~~~(BitVec.ofNat 64 v)
        else NatMap.get 0 (s.func f).counters k) ∧
  (∀ s f size v, Reported s → s.boot.state = 1 → funcExists s f = true →
    ∃ t, exec (.registerWrite ⟨f, 0x08, size, v⟩) s = .next t ∧
      (t.func f).cqlog2n = (if (s.func f).cqen then (s.func f).cqlog2n else v % 32) ∧ (t.func f).cqen =
        (v / 32 % 2 == 1 && decide (6 ≤ (t.func f).cqlog2n) && decide ((t.func f).cqlog2n ≤ 16))) ∧
  (∀ s size v p x, Reported s → s.boot.state = 1 → p < 20 → x = s.part p → ∀ o y, (o, y) ∈ [
      (0, if x.en then x else { x with clus := BitVec.ofNat 64 v }), (16, { x with ebref := BitVec.ofNat 32 v }),
      (20, if v % 2 ^ 32 < 128 then x else { x with ebcap := BitVec.ofNat 32 v }),
      (24, if x.en then x else { x with lanes := BitVec.ofNat 128 (v % 2 ^ 72) }),
      (64, if x.en then x else { x with chan := BitVec.ofNat 256 v })] →
    ∃ t, exec (.registerWrite ⟨0, 0x100000 + 128 * p + o, size, v⟩) s = .next t ∧ t.part p = y ∧
      (∀ n, n ≠ p → t.part n = s.part n) ∧ { t with parts := s.parts } = s) ∧
  (∀ s size v, Reported s → s.boot.state = 1 →
    exec (.registerWrite ⟨0, 0x130000, size, v⟩) s = .next { s with keysel := v % 1024 } ∧
    exec (.registerWrite ⟨0, 0x130040, size, v⟩) s = .next { s with keydata := BitVec.ofNat 512 v } ∧
    exec (.registerWrite ⟨0, 0x130420, size, v⟩) s = .next
      { s with plimit := if 600 ≤ v % 4096 ∧ v % 4096 ≤ 2300 then v % 4096 else s.plimit }) ∧
  (∀ s d f size v, Reported s → s.boot.state = 1 → d < 4 → f ≤ 512 →
    ∃ t, exec (.registerWrite ⟨0, 0x120004 + 32 * f + 8 * d, size, v⟩) s = .next t ∧ { t with dies := s.dies } = s ∧
      (∀ n, n ≠ d → t.die n = s.die n) ∧ { t.die d with lim := (s.die d).lim } = s.die d ∧
      ∀ g, NatMap.get 0xFFFFF (t.die d).lim g = if g = f then BitVec.ofNat 20 v else NatMap.get 0xFFFFF (s.die d).lim g) ∧
  (∀ s d n b size v, Reported s → s.boot.state = 1 → d < 4 → n < 65536 → b + size ≤ 16 →
    b < 16 → ∃ t, exec (.registerWrite ⟨0, 0x1000000 + 0x100000 * d + 16 * n + b, size, v⟩) s = .next t ∧ { t with dies := s.dies } = s ∧
      (∀ k, k ≠ d → t.die k = s.die k) ∧ { t.die d with advisory := (s.die d).advisory } = s.die d ∧
      ∀ k, NatMap.get 0 (t.die d).advisory k = if k = n then
        NatMap.get 0 (s.die d).advisory n &&& ~~~((BitVec.ofNat 128 (v % 2 ^ (8 * size))) <<< (8 * b)) else NatMap.get 0 (s.die d).advisory k) ∧
  (∀ s o size v, Reported s → s.boot.state = 1 → o + size ≤ 5120 → o < 5120 →
    ∃ t, exec (.registerWrite ⟨0, 0x140000 + o, size, v⟩) s = .next t ∧ { t with route := s.route } = s ∧
      ∀ k, NatMap.get 0 t.route k = if o ≤ k ∧ k < o + size then (leBytes size v).getD (k - o) 0 else NatMap.get 0 s.route k) ∧
  (∀ s size v, Reported s → s.boot.state = 1 → exec (.registerWrite ⟨0, 0x130140, size, v⟩) s = .next { s with
    pfebRef := BitVec.ofNat 32 v, pfebCap := if v / 2 ^ 32 % 2 ^ 32 < 128 then s.pfebCap else BitVec.ofNat 32 (v / 2 ^ 32) }) ∧
  (∀ s f size v, Reported s → s.boot.state = 1 → funcExists s f = true → v / 2 ^ 34 % 4 = 3 →
    exec (.registerWrite ⟨f, 0x40, size, v⟩) s = .next s) ∧
  (∀ s f off size v, Reported s → s.boot.state = 1 → funcExists s f = true → f ≠ 0 → 0x10000 ≤ off →
    exec (.registerWrite ⟨f, off, size, v⟩) s = .next s) ∧
  ((∀ s v, Reported s → s.boot.state = 1 → v.getLsbD 64 = true → s.attStatus ≠ .busy →
      ∃ t, exec (.attest v) s = .next t ∧ t.attStatus = .busy ∧ t.attBuf = (bits v 12 45).toNat * 4096 ∧ t.attAddr = t.attBuf ∧
        t.attDigest = sha3 (configBytes s)) ∧
    (∀ s, s.attStatus = .busy → ∃ t, exec .attestComplete s = .next t ∧ (t.attStatus = .done ∨ t.attStatus = .failed)) ∧
    (∀ s us, Reported s → ∃ t, exec (.powerThrottle us) s = .next t ∧
      t.throttled = BitVec.ofNat 32 (min (s.throttled.toNat + us) (2 ^ 32 - 1)) ∧ { t with throttled := s.throttled } = s) ∧
    (∀ s, Reported s → ∃ t, exec .certChainRead s = .next t ∧ t.doeOut = Config.certChain ∧ { t with doeOut := s.doeOut } = s) ∧
    (∀ s fw h fail, ∃ t, exec (.packageReset fw h fail) s = .next t ∧ t.resets = s.resets + 1 ∧ t.boot.state ≠ 0 ∧
      t.units = [] ∧ t.groups = [] ∧ t.poison = []) ∧
    (∀ s fw h, s.boot.state = 2 → ∃ t, exec (.recoveryImage fw h) s = .next t ∧ t.resets = s.resets + 1 ∧ t.boot.state ≠ 0 ∧
      t.units = [] ∧ t.groups = [] ∧ t.poison = [])))

-- Repair, power and bring-up.

/-- R352 to R355, R366 to R370: a repair of each type is scheduled or fails as its target, its spare and STATUS say; a
soft repair ends with its spare in use; PCLR zeroes a sector and removes its mark; attestation, throttling and bring-
up act as their registers say. The layouts of the digested configuration and repair map, and the order of ERR, are the
model's (log entries 46 and 47), as are the places that share spares (log entry 23), what package reset keeps (log entry 10), the
values fixed at manufacture (log entry 22), the classes of records (log entry 42) and the records of repairs (log entry 61). -/
def Obligations.RepairPowerAndBringUpAct : Prop :=
  (∀ s v ty t r (mk : BitVec 128 → Instr), Reported s → s.boot.state = 1 → (ty, mk) ∈ [(0, Instr.repairSoftRow),
      (1, .repairHardRow), (2, .repairArrayColumn), (3, .repairArrayRow), (4, .repairCluster), (5, .repairSramRow),
      (6, .repairD2dLane), (7, .repairFabricLane)] →
    (bits v 64 4).toNat = ty → t = bits v 0 64 → r = { s with repairReg := ⟨ty, t⟩ } →
    (v.getLsbD 69 = false → exec (mk v) s = .next r) ∧
    (v.getLsbD 69 = true → s.repairStatus = .busy → exec (mk v) s = .next s) ∧
    (v.getLsbD 69 = true → s.repairStatus ≠ .busy →
      (v.getLsbD 68 = true ∨ bits v 72 56 ≠ 0 ∨ targetOk ty t = false →
        exec (mk v) s = .next { r with repairStatus := .failed }) ∧
      (v.getLsbD 68 = false → bits v 72 56 = 0 → targetOk ty t = true →
        (ty ≠ 0 → sparesTaken s ty t < spares ty t → exec (mk v) s = .next
          (writeReport { r with repairMap := s.repairMap ++ [⟨ty, t⟩], repairStatus := .done }
            ⟨6, if ty ≤ 1 then 3 else 0, 0x10, none, none, 0, 0, 0, 2, t.toNat⟩)) ∧
        (ty ≠ 0 → spares ty t ≤ sparesTaken s ty t → exec (mk v) s = .next
          (writeReport { r with repairStatus := .failed }
            ⟨6, if ty ≤ 1 then 3 else 0, 0x10, none, none, 0, 0, 0, 3, t.toNat⟩)) ∧
        (ty = 0 → (bits t 0 13).toNat ∈ s.softUsed → exec (mk v) s = .next
          (writeReport { r with repairStatus := .failed } ⟨6, 3, 0x10, none, none, 0, 0, 0, 3, t.toNat⟩)) ∧
        (ty = 0 → (bits t 0 13).toNat ∉ s.softUsed → exec (mk v) s = .next { r with
          repairStatus := .busy, softRow := some t
          selfRefresh := s.selfRefresh.filter (fun c => c != (bits t 0 8).toNat) })))) ∧
  (∀ s v t, t = bits v 0 64 →
    (RepairAsked s v 0 → (bits t 0 13).toNat ∉ s.softUsed → exec (.repairSoftRow v) s = .next { s with
      repairReg := ⟨0, t⟩, repairStatus := .busy, softRow := some t
      selfRefresh := s.selfRefresh.filter (fun c => c != (bits t 0 8).toNat) }) ∧
    (RepairAsked s v 1 → exec (.repairHardRow v) s = .next (scheduled s 1 t)) ∧
    (RepairAsked s v 2 → exec (.repairArrayColumn v) s = .next (scheduled s 2 t)) ∧
    (RepairAsked s v 3 → exec (.repairArrayRow v) s = .next (scheduled s 3 t)) ∧
    (RepairAsked s v 4 → exec (.repairCluster v) s = .next (scheduled s 4 t)) ∧
    (RepairAsked s v 5 → exec (.repairSramRow v) s = .next (scheduled s 5 t)) ∧
    (RepairAsked s v 6 → exec (.repairD2dLane v) s = .next (scheduled s 6 t)) ∧
    (RepairAsked s v 7 → exec (.repairFabricLane v) s = .next (scheduled s 7 t))) ∧
  (∀ s t, Reported s → s.softRow = some t → exec .softRepairComplete s = .next (writeReport { s with
      softRow := none, repairStatus := .done, softUsed := s.softUsed ++ [(bits t 0 13).toNat]
      selfRefresh := (List.range 256).filter (channelRests { s with softRow := none }) }
    ⟨6, 3, 0x10, none, none, 0, 0, 0, 2, t.toNat⟩)) ∧
  (∀ s v pa, Reported s → s.boot.state = 1 → pa = (bits v 6 46).toNat * 64 →
    (v.getLsbD 0 = false ∨ populated pa = false → exec (.pclr v) s = .next { s with pclrPa := pa }) ∧
    (v.getLsbD 0 = true → populated pa = true → ∃ t, exec (.pclr v) s = .next t ∧ t.pclrPa = pa ∧
      secOf pa ∉ t.poison ∧ (∀ q, q ≠ secOf pa → (q ∈ t.poison ↔ q ∈ s.poison)) ∧
      (∀ a, secOf a = secOf pa → if homeOf s pa < 4 then homeByte t a = 0 else NatMap.get 0 t.mem a = 0) ∧
      (∀ a, secOf a ≠ secOf pa → homeByte t a = homeByte s a) ∧
      ∀ k i, k < 4 → i < 4 → (s.die k).held.Nodup → 4 * lineOf pa + i ∉ (t.die k).held)) ∧
  (∀ s v r, Reported s → s.boot.state = 1 → r = { s with attAddr := (bits v 12 45).toNat * 4096 } →
    exec (.attest v) s = .next (if v.getLsbD 64 = true ∧ s.attStatus ≠ .busy then
      { r with attStatus := .busy, attBuf := r.attAddr, attDigest := sha3 (configBytes s) } else r)) ∧
  (∀ s, s.attStatus = .busy →
    (∀ s1, deviceRead 0 64 s s.attBuf = (none, s1) → ∃ t, exec .attestComplete s = .next t ∧ t.attStatus = .failed) ∧
    (∀ nonce s1 head, deviceRead 0 64 s s.attBuf = (some nonce, s1) → head = nonce ++ leBytes 64 (sha3 s1.firmware).toNat ++
        leBytes 64 (sha3 (repairBytes s1)).toNat ++ leBytes 64 s1.attDigest.toNat ++ leBytes 4 s1.fwVersion ++
        leBytes 12 Config.deviceSerial.toNat →
      ∀ s2 ok, deviceWriteOr s1 0 s.attBuf 5 (head ++ (List.range 4627).map (Config.mlDsa87 (sha3 head))) =
        (ok, s2) → ∃ t, exec .attestComplete s = .next t ∧ t.attStatus = if ok then .done else .failed)) ∧
  (∀ s us, Reported s → exec (.powerThrottle us) s = .next
    { s with throttled := BitVec.ofNat 32 (min (s.throttled.toNat + us) (2 ^ 32 - 1)) }) ∧
  (∀ s, Reported s → exec .certChainRead s = .next { s with doeOut := Config.certChain }) ∧
  (∀ s fw b e, (e = .packageReset fw b.h1Coherent b.failStep) ∨ (e = .recoveryImage fw b ∧ s.boot.state = 2) →
    exec e s = .next (broughtUp s fw b))
end

