-- ==== Sys2Proof/Laws/NatMap.lean ====
section
/-! SUPPORT. Laws of the sparse table: read after write, and that every update keeps the canonical form. -/

namespace Sys2Proof.NatMap

variable {α : Type}

@[simp] theorem get_nil (d : α) (k : Nat) : get d [] k = d := rfl

theorem get_erase_same (d : α) (m : NatMap α) (k : Nat) : get d (erase m k) k = d := by
  induction m with
  | nil => rfl
  | cons p r ih =>
    obtain ⟨a, v⟩ := p
    by_cases h : a = k <;> simp [erase, get, h, ih]

theorem get_erase_ne (d : α) (m : NatMap α) {k n : Nat} (h : n ≠ k) : get d (erase m k) n = get d m n := by
  induction m with
  | nil => rfl
  | cons p r ih =>
    obtain ⟨a, v⟩ := p
    by_cases ha : a = k
    · simp [erase, get, ha, ih, Ne.symm h]
    · simp [erase, get, ha, ih]

theorem get_insert_same (d : α) (m : NatMap α) (k : Nat) (v : α) (h : ∀ p ∈ m, p.1 ≠ k) : get d (insert m k v) k = v := by
  induction m with
  | nil => simp [insert, get]
  | cons p r ih =>
    obtain ⟨a, w⟩ := p
    have ha : a ≠ k := h (a, w) (by simp)
    by_cases hk : k < a
    · simp [insert, get, hk]
    · simpa [insert, get, hk, ha] using ih (fun q hq => h q (by simp [hq]))

theorem get_insert_ne (d : α) (m : NatMap α) {k n : Nat} (v : α) (h : n ≠ k) : get d (insert m k v) n = get d m n := by
  induction m with
  | nil => simp [insert, get, Ne.symm h]
  | cons p r ih =>
    obtain ⟨a, w⟩ := p
    by_cases hk : k < a
    · simp [insert, get, hk, Ne.symm h]
    · simp [insert, get, hk, ih]

theorem erase_absent (m : NatMap α) (k : Nat) : ∀ p ∈ erase m k, p.1 ≠ k := by
  induction m with
  | nil => simp [erase]
  | cons p r ih =>
    obtain ⟨a, v⟩ := p
    by_cases ha : a = k
    · simpa [erase, ha] using ih
    · simpa [erase, ha] using ih

theorem erase_of_absent (m : NatMap α) (k : Nat) (h : ∀ p ∈ m, p.1 ≠ k) : erase m k = m := by
  induction m with
  | nil => rfl
  | cons p r ih =>
    obtain ⟨a, v⟩ := p
    have ha : a ≠ k := h (a, v) (by simp)
    simp [erase, ha, ih (fun q hq => h q (by simp [hq]))]

theorem erase_insert (m : NatMap α) (k : Nat) (v : α) (h : ∀ p ∈ m, p.1 ≠ k) : erase (insert m k v) k = m := by
  induction m with
  | nil => simp [insert, erase]
  | cons p r ih =>
    obtain ⟨a, w⟩ := p
    have ha : a ≠ k := h (a, w) (by simp)
    have hr : ∀ q ∈ r, q.1 ≠ k := fun q hq => h q (by simp [hq])
    by_cases hk : k < a
    · simp [insert, erase, hk, ha, erase_of_absent r k hr]
    · simp [insert, erase, hk, ha, ih hr]

variable [DecidableEq α]

/-- Of two writes to one key the later remains. -/
@[simp] theorem set_set (d : α) (m : NatMap α) (k : Nat) (v w : α) : set d (set d m k v) k w = set d m k w := by
  by_cases hv : v = d
  · simp [set, hv, erase_of_absent _ k (erase_absent m k)]
  · simp [set, hv, erase_insert _ k v (erase_absent m k)]

/-- Read after write, same key. -/
@[simp] theorem get_set_same (d : α) (m : NatMap α) (k : Nat) (v : α) : get d (set d m k v) k = v := by
  by_cases h : v = d
  · simp [set, h, get_erase_same]
  · simp [set, h, get_insert_same d _ k v (erase_absent m k)]

/-- Read after write, another key. -/
theorem get_set_ne (d : α) (m : NatMap α) {k n : Nat} (v : α) (h : n ≠ k) : get d (set d m k v) n = get d m n := by
  by_cases hv : v = d
  · simp [set, hv, get_erase_ne d m h]
  · simp [set, hv, get_insert_ne d _ v h, get_erase_ne d m h]

theorem get_set (d : α) (m : NatMap α) (k n : Nat) (v : α) : get d (set d m k v) n = if n = k then v else get d m n := by
  by_cases h : n = k
  · simp [h]
  · simp [h, get_set_ne d m v h]

-- The canonical form.

theorem wfFrom_le (d : α) {lo lo' : Nat} (m : NatMap α) (h : wfFrom d lo m = true) (hl : lo' ≤ lo) : wfFrom d lo' m = true := by
  cases m with
  | nil => rfl
  | cons p r =>
    obtain ⟨a, v⟩ := p
    simp only [wfFrom, Bool.and_eq_true, decide_eq_true_eq] at h ⊢
    exact ⟨⟨by omega, h.1.2⟩, h.2⟩

theorem wfFrom_erase (d : α) (m : NatMap α) (k : Nat) : ∀ lo, wfFrom d lo m = true → wfFrom d lo (erase m k) = true := by
  induction m with
  | nil => intro lo h; rfl
  | cons p r ih =>
    obtain ⟨a, v⟩ := p
    intro lo h
    simp only [wfFrom, Bool.and_eq_true, decide_eq_true_eq] at h
    by_cases ha : a = k
    · simp only [erase, ha, if_true]
      exact ih lo (wfFrom_le d r h.2 (by omega))
    · simp only [erase, ha, if_false, wfFrom, Bool.and_eq_true, decide_eq_true_eq]
      exact ⟨h.1, ih _ h.2⟩

theorem wfFrom_insert (d : α) (m : NatMap α) (k : Nat) (v : α) (hv : v ≠ d) (hk : ∀ p ∈ m, p.1 ≠ k) :
    ∀ lo, lo ≤ k → wfFrom d lo m = true → wfFrom d lo (insert m k v) = true := by
  induction m with
  | nil => intro lo hl _; simp [insert, wfFrom, hl, hv]
  | cons p r ih =>
    obtain ⟨a, w⟩ := p
    intro lo hl h
    simp only [wfFrom, Bool.and_eq_true, decide_eq_true_eq] at h
    have hne : a ≠ k := hk (a, w) (by simp)
    by_cases hka : k < a
    · simp only [insert, hka, if_true, wfFrom, Bool.and_eq_true, decide_eq_true_eq]
      exact ⟨⟨hl, hv⟩, ⟨by omega, h.1.2⟩, h.2⟩
    · simp only [insert, hka, if_false, wfFrom, Bool.and_eq_true, decide_eq_true_eq]
      exact ⟨h.1, ih (fun q hq => hk q (by simp [hq])) (a + 1) (by omega) h.2⟩

/-- A write keeps the canonical form. -/
theorem wf_set (d : α) (m : NatMap α) (k : Nat) (v : α) (h : wf d m = true) : wf d (set d m k v) = true := by
  unfold wf set at *
  split
  · exact wfFrom_erase d m k 0 h
  · rename_i hv
    exact wfFrom_insert d _ k v hv (erase_absent m k) 0 (Nat.zero_le _) (wfFrom_erase d m k 0 h)

theorem wf_setRange (d : α) (l : List α) : ∀ (m : NatMap α) (k : Nat), wf d m = true → wf d (setRange d m k l) = true := by
  induction l with
  | nil => intro m k h; exact h
  | cons v r ih => intro m k h; exact ih _ _ (wf_set d m k v h)

theorem wfFrom_filter (d : α) (f : Nat × α → Bool) (m : NatMap α) :
    ∀ lo, wfFrom d lo m = true → wfFrom d lo (m.filter f) = true := by
  induction m with
  | nil => intro lo h; rfl
  | cons p r ih =>
    obtain ⟨a, v⟩ := p
    intro lo h
    simp only [wfFrom, Bool.and_eq_true, decide_eq_true_eq] at h
    rw [List.filter_cons]
    split
    · simp only [wfFrom, Bool.and_eq_true, decide_eq_true_eq]
      exact ⟨h.1, ih _ h.2⟩
    · exact ih lo (wfFrom_le d r h.2 (by omega))

theorem wf_filter (d : α) (f : Nat × α → Bool) (m : NatMap α) (h : wf d m = true) : wf d (m.filter f) = true :=
  wfFrom_filter d f m 0 h

theorem wf_clearRange (d : α) (m : NatMap α) (lo hi : Nat) (h : wf d m = true) : wf d (clearRange m lo hi) = true :=
  wf_filter d _ m h

/-- Reading inside and outside a run of keys that was written. -/
theorem get_setRange_out (d : α) (l : List α) : ∀ (m : NatMap α) (k n : Nat), n < k ∨ k + l.length ≤ n →
    get d (setRange d m k l) n = get d m n := by
  induction l with
  | nil => intro m k n _; rfl
  | cons v r ih =>
    intro m k n h
    have hl : (v :: r).length = r.length + 1 := rfl
    rw [setRange, ih _ _ _ (by omega), get_set_ne d m v (by omega)]

theorem get_setRange_in (d : α) (l : List α) : ∀ (m : NatMap α) (k i : Nat) (h : i < l.length),
    get d (setRange d m k l) (k + i) = l[i] := by
  induction l with
  | nil => intro m k i h; simp at h
  | cons v r ih =>
    intro m k i h
    cases i with
    | zero => rw [setRange, get_setRange_out d r _ _ _ (by omega)]; simp
    | succ j =>
      have := ih (set d m k v) (k + 1) j (by simpa using h)
      rw [setRange, show k + (j + 1) = k + 1 + j by omega, this]; simp

end Sys2Proof.NatMap
end

