-- ==== Sys2Proof/Laws/State.lean ====
section
/-! SUPPORT. What each update of the state leaves of each field, and what its readers answer after it. -/

namespace Sys2Proof.Machine.State

variable (s : State)

-- setCore.

@[simp] theorem setCore_agenda (k : Nat) (x : CoreSt) : (s.setCore k x).agenda = s.agenda := rfl
@[simp] theorem setCore_cur (k : Nat) (x : CoreSt) : (s.setCore k x).cur = s.cur := rfl
@[simp] theorem setCore_upset (k : Nat) (x : CoreSt) : (s.setCore k x).upset = s.upset := rfl
@[simp] theorem setCore_later (k : Nat) (x : CoreSt) : (s.setCore k x).later = s.later := rfl
@[simp] theorem setCore_rank (k : Nat) (x : CoreSt) : (s.setCore k x).rank = s.rank := rfl
@[simp] theorem setCore_fresh (k : Nat) (x : CoreSt) : (s.setCore k x).fresh = s.fresh := rfl
@[simp] theorem setCore_nextUid (k : Nat) (x : CoreSt) : (s.setCore k x).nextUid = s.nextUid := rfl
@[simp] theorem setCore_nextTag (k : Nat) (x : CoreSt) : (s.setCore k x).nextTag = s.nextTag := rfl
@[simp] theorem setCore_nextSeq (k : Nat) (x : CoreSt) : (s.setCore k x).nextSeq = s.nextSeq := rfl
@[simp] theorem setCore_clock (k : Nat) (x : CoreSt) : (s.setCore k x).clock = s.clock := rfl
@[simp] theorem setCore_refilled (k : Nat) (x : CoreSt) : (s.setCore k x).refilled = s.refilled := rfl
@[simp] theorem setCore_boot (k : Nat) (x : CoreSt) : (s.setCore k x).boot = s.boot := rfl
@[simp] theorem setCore_mem (k : Nat) (x : CoreSt) : (s.setCore k x).mem = s.mem := rfl
@[simp] theorem setCore_home (k : Nat) (x : CoreSt) : (s.setCore k x).home = s.home := rfl
@[simp] theorem setCore_dir (k : Nat) (x : CoreSt) : (s.setCore k x).dir = s.dir := rfl
@[simp] theorem setCore_hostHeld (k : Nat) (x : CoreSt) : (s.setCore k x).hostHeld = s.hostHeld := rfl
@[simp] theorem setCore_poison (k : Nat) (x : CoreSt) : (s.setCore k x).poison = s.poison := rfl
@[simp] theorem setCore_poisonLines (k : Nat) (x : CoreSt) : (s.setCore k x).poisonLines = s.poisonLines := rfl
@[simp] theorem setCore_secKey (k : Nat) (x : CoreSt) : (s.setCore k x).secKey = s.secKey := rfl
@[simp] theorem setCore_lastW (k : Nat) (x : CoreSt) : (s.setCore k x).lastW = s.lastW := rfl
@[simp] theorem setCore_follows (k : Nat) (x : CoreSt) : (s.setCore k x).follows = s.follows := rfl
@[simp] theorem setCore_hostDirty (k : Nat) (x : CoreSt) : (s.setCore k x).hostDirty = s.hostDirty := rfl
@[simp] theorem setCore_performed (k : Nat) (x : CoreSt) : (s.setCore k x).performed = s.performed := rfl
@[simp] theorem setCore_sent (k : Nat) (x : CoreSt) : (s.setCore k x).sent = s.sent := rfl
@[simp] theorem setCore_hostOwn (k : Nat) (x : CoreSt) : (s.setCore k x).hostOwn = s.hostOwn := rfl
@[simp] theorem setCore_fabricOwn (k : Nat) (x : CoreSt) : (s.setCore k x).fabricOwn = s.fabricOwn := rfl
@[simp] theorem setCore_hostView (k : Nat) (x : CoreSt) : (s.setCore k x).hostView = s.hostView := rfl
@[simp] theorem setCore_tlbs (k : Nat) (x : CoreSt) : (s.setCore k x).tlbs = s.tlbs := rfl
@[simp] theorem setCore_invals (k : Nat) (x : CoreSt) : (s.setCore k x).invals = s.invals := rfl
@[simp] theorem setCore_faults (k : Nat) (x : CoreSt) : (s.setCore k x).faults = s.faults := rfl
@[simp] theorem setCore_engineOps (k : Nat) (x : CoreSt) : (s.setCore k x).engineOps = s.engineOps := rfl
@[simp] theorem setCore_topks (k : Nat) (x : CoreSt) : (s.setCore k x).topks = s.topks := rfl
@[simp] theorem setCore_irqs (k : Nat) (x : CoreSt) : (s.setCore k x).irqs = s.irqs := rfl
@[simp] theorem setCore_reports (k : Nat) (x : CoreSt) : (s.setCore k x).reports = s.reports := rfl
@[simp] theorem setCore_hostData (k : Nat) (x : CoreSt) : (s.setCore k x).hostData = s.hostData := rfl
@[simp] theorem setCore_hostPoisoned (k : Nat) (x : CoreSt) : (s.setCore k x).hostPoisoned = s.hostPoisoned := rfl
@[simp] theorem setCore_fabricOut (k : Nat) (x : CoreSt) : (s.setCore k x).fabricOut = s.fabricOut := rfl
@[simp] theorem setCore_doeOut (k : Nat) (x : CoreSt) : (s.setCore k x).doeOut = s.doeOut := rfl
@[simp] theorem setCore_loads (k : Nat) (x : CoreSt) : (s.setCore k x).loads = s.loads := rfl
@[simp] theorem setCore_dies (k : Nat) (x : CoreSt) : (s.setCore k x).dies = s.dies := rfl
@[simp] theorem setCore_clusters (k : Nat) (x : CoreSt) : (s.setCore k x).clusters = s.clusters := rfl
@[simp] theorem setCore_groups (k : Nat) (x : CoreSt) : (s.setCore k x).groups = s.groups := rfl
@[simp] theorem setCore_ctxs (k : Nat) (x : CoreSt) : (s.setCore k x).ctxs = s.ctxs := rfl
@[simp] theorem setCore_units (k : Nat) (x : CoreSt) : (s.setCore k x).units = s.units := rfl
@[simp] theorem setCore_funcs (k : Nat) (x : CoreSt) : (s.setCore k x).funcs = s.funcs := rfl
@[simp] theorem setCore_fcfg (k : Nat) (x : CoreSt) : (s.setCore k x).fcfg = s.fcfg := rfl
@[simp] theorem setCore_parts (k : Nat) (x : CoreSt) : (s.setCore k x).parts = s.parts := rfl
@[simp] theorem setCore_pfebRef (k : Nat) (x : CoreSt) : (s.setCore k x).pfebRef = s.pfebRef := rfl
@[simp] theorem setCore_pfebCap (k : Nat) (x : CoreSt) : (s.setCore k x).pfebCap = s.pfebCap := rfl
@[simp] theorem setCore_psplit (k : Nat) (x : CoreSt) : (s.setCore k x).psplit = s.psplit := rfl
@[simp] theorem setCore_route (k : Nat) (x : CoreSt) : (s.setCore k x).route = s.route := rfl
@[simp] theorem setCore_keysel (k : Nat) (x : CoreSt) : (s.setCore k x).keysel = s.keysel := rfl
@[simp] theorem setCore_keydata (k : Nat) (x : CoreSt) : (s.setCore k x).keydata = s.keydata := rfl
@[simp] theorem setCore_keys (k : Nat) (x : CoreSt) : (s.setCore k x).keys = s.keys := rfl
@[simp] theorem setCore_repairStatus (k : Nat) (x : CoreSt) : (s.setCore k x).repairStatus = s.repairStatus := rfl
@[simp] theorem setCore_repairReg (k : Nat) (x : CoreSt) : (s.setCore k x).repairReg = s.repairReg := rfl
@[simp] theorem setCore_repairMap (k : Nat) (x : CoreSt) : (s.setCore k x).repairMap = s.repairMap := rfl
@[simp] theorem setCore_softRow (k : Nat) (x : CoreSt) : (s.setCore k x).softRow = s.softRow := rfl
@[simp] theorem setCore_softUsed (k : Nat) (x : CoreSt) : (s.setCore k x).softUsed = s.softUsed := rfl
@[simp] theorem setCore_pclrPa (k : Nat) (x : CoreSt) : (s.setCore k x).pclrPa = s.pclrPa := rfl
@[simp] theorem setCore_plimit (k : Nat) (x : CoreSt) : (s.setCore k x).plimit = s.plimit := rfl
@[simp] theorem setCore_throttled (k : Nat) (x : CoreSt) : (s.setCore k x).throttled = s.throttled := rfl
@[simp] theorem setCore_attStatus (k : Nat) (x : CoreSt) : (s.setCore k x).attStatus = s.attStatus := rfl
@[simp] theorem setCore_attAddr (k : Nat) (x : CoreSt) : (s.setCore k x).attAddr = s.attAddr := rfl
@[simp] theorem setCore_attBuf (k : Nat) (x : CoreSt) : (s.setCore k x).attBuf = s.attBuf := rfl
@[simp] theorem setCore_attDigest (k : Nat) (x : CoreSt) : (s.setCore k x).attDigest = s.attDigest := rfl
@[simp] theorem setCore_rollback (k : Nat) (x : CoreSt) : (s.setCore k x).rollback = s.rollback := rfl
@[simp] theorem setCore_firmware (k : Nat) (x : CoreSt) : (s.setCore k x).firmware = s.firmware := rfl
@[simp] theorem setCore_fwVersion (k : Nat) (x : CoreSt) : (s.setCore k x).fwVersion = s.fwVersion := rfl
@[simp] theorem setCore_fwake (k : Nat) (x : CoreSt) : (s.setCore k x).fwake = s.fwake := rfl
@[simp] theorem setCore_selfRefresh (k : Nat) (x : CoreSt) : (s.setCore k x).selfRefresh = s.selfRefresh := rfl
@[simp] theorem setCore_resets (k : Nat) (x : CoreSt) : (s.setCore k x).resets = s.resets := rfl

-- setCluster.

@[simp] theorem setCluster_agenda (k : Nat) (x : ClusterSt) : (s.setCluster k x).agenda = s.agenda := rfl
@[simp] theorem setCluster_cur (k : Nat) (x : ClusterSt) : (s.setCluster k x).cur = s.cur := rfl
@[simp] theorem setCluster_upset (k : Nat) (x : ClusterSt) : (s.setCluster k x).upset = s.upset := rfl
@[simp] theorem setCluster_later (k : Nat) (x : ClusterSt) : (s.setCluster k x).later = s.later := rfl
@[simp] theorem setCluster_rank (k : Nat) (x : ClusterSt) : (s.setCluster k x).rank = s.rank := rfl
@[simp] theorem setCluster_fresh (k : Nat) (x : ClusterSt) : (s.setCluster k x).fresh = s.fresh := rfl
@[simp] theorem setCluster_nextUid (k : Nat) (x : ClusterSt) : (s.setCluster k x).nextUid = s.nextUid := rfl
@[simp] theorem setCluster_nextTag (k : Nat) (x : ClusterSt) : (s.setCluster k x).nextTag = s.nextTag := rfl
@[simp] theorem setCluster_nextSeq (k : Nat) (x : ClusterSt) : (s.setCluster k x).nextSeq = s.nextSeq := rfl
@[simp] theorem setCluster_clock (k : Nat) (x : ClusterSt) : (s.setCluster k x).clock = s.clock := rfl
@[simp] theorem setCluster_refilled (k : Nat) (x : ClusterSt) : (s.setCluster k x).refilled = s.refilled := rfl
@[simp] theorem setCluster_boot (k : Nat) (x : ClusterSt) : (s.setCluster k x).boot = s.boot := rfl
@[simp] theorem setCluster_mem (k : Nat) (x : ClusterSt) : (s.setCluster k x).mem = s.mem := rfl
@[simp] theorem setCluster_home (k : Nat) (x : ClusterSt) : (s.setCluster k x).home = s.home := rfl
@[simp] theorem setCluster_dir (k : Nat) (x : ClusterSt) : (s.setCluster k x).dir = s.dir := rfl
@[simp] theorem setCluster_hostHeld (k : Nat) (x : ClusterSt) : (s.setCluster k x).hostHeld = s.hostHeld := rfl
@[simp] theorem setCluster_poison (k : Nat) (x : ClusterSt) : (s.setCluster k x).poison = s.poison := rfl
@[simp] theorem setCluster_poisonLines (k : Nat) (x : ClusterSt) : (s.setCluster k x).poisonLines = s.poisonLines := rfl
@[simp] theorem setCluster_secKey (k : Nat) (x : ClusterSt) : (s.setCluster k x).secKey = s.secKey := rfl
@[simp] theorem setCluster_lastW (k : Nat) (x : ClusterSt) : (s.setCluster k x).lastW = s.lastW := rfl
@[simp] theorem setCluster_follows (k : Nat) (x : ClusterSt) : (s.setCluster k x).follows = s.follows := rfl
@[simp] theorem setCluster_hostDirty (k : Nat) (x : ClusterSt) : (s.setCluster k x).hostDirty = s.hostDirty := rfl
@[simp] theorem setCluster_performed (k : Nat) (x : ClusterSt) : (s.setCluster k x).performed = s.performed := rfl
@[simp] theorem setCluster_sent (k : Nat) (x : ClusterSt) : (s.setCluster k x).sent = s.sent := rfl
@[simp] theorem setCluster_hostOwn (k : Nat) (x : ClusterSt) : (s.setCluster k x).hostOwn = s.hostOwn := rfl
@[simp] theorem setCluster_fabricOwn (k : Nat) (x : ClusterSt) : (s.setCluster k x).fabricOwn = s.fabricOwn := rfl
@[simp] theorem setCluster_hostView (k : Nat) (x : ClusterSt) : (s.setCluster k x).hostView = s.hostView := rfl
@[simp] theorem setCluster_tlbs (k : Nat) (x : ClusterSt) : (s.setCluster k x).tlbs = s.tlbs := rfl
@[simp] theorem setCluster_invals (k : Nat) (x : ClusterSt) : (s.setCluster k x).invals = s.invals := rfl
@[simp] theorem setCluster_faults (k : Nat) (x : ClusterSt) : (s.setCluster k x).faults = s.faults := rfl
@[simp] theorem setCluster_engineOps (k : Nat) (x : ClusterSt) : (s.setCluster k x).engineOps = s.engineOps := rfl
@[simp] theorem setCluster_topks (k : Nat) (x : ClusterSt) : (s.setCluster k x).topks = s.topks := rfl
@[simp] theorem setCluster_irqs (k : Nat) (x : ClusterSt) : (s.setCluster k x).irqs = s.irqs := rfl
@[simp] theorem setCluster_reports (k : Nat) (x : ClusterSt) : (s.setCluster k x).reports = s.reports := rfl
@[simp] theorem setCluster_hostData (k : Nat) (x : ClusterSt) : (s.setCluster k x).hostData = s.hostData := rfl
@[simp] theorem setCluster_hostPoisoned (k : Nat) (x : ClusterSt) : (s.setCluster k x).hostPoisoned = s.hostPoisoned := rfl
@[simp] theorem setCluster_fabricOut (k : Nat) (x : ClusterSt) : (s.setCluster k x).fabricOut = s.fabricOut := rfl
@[simp] theorem setCluster_doeOut (k : Nat) (x : ClusterSt) : (s.setCluster k x).doeOut = s.doeOut := rfl
@[simp] theorem setCluster_loads (k : Nat) (x : ClusterSt) : (s.setCluster k x).loads = s.loads := rfl
@[simp] theorem setCluster_dies (k : Nat) (x : ClusterSt) : (s.setCluster k x).dies = s.dies := rfl
@[simp] theorem setCluster_cores (k : Nat) (x : ClusterSt) : (s.setCluster k x).cores = s.cores := rfl
@[simp] theorem setCluster_groups (k : Nat) (x : ClusterSt) : (s.setCluster k x).groups = s.groups := rfl
@[simp] theorem setCluster_ctxs (k : Nat) (x : ClusterSt) : (s.setCluster k x).ctxs = s.ctxs := rfl
@[simp] theorem setCluster_units (k : Nat) (x : ClusterSt) : (s.setCluster k x).units = s.units := rfl
@[simp] theorem setCluster_funcs (k : Nat) (x : ClusterSt) : (s.setCluster k x).funcs = s.funcs := rfl
@[simp] theorem setCluster_fcfg (k : Nat) (x : ClusterSt) : (s.setCluster k x).fcfg = s.fcfg := rfl
@[simp] theorem setCluster_parts (k : Nat) (x : ClusterSt) : (s.setCluster k x).parts = s.parts := rfl
@[simp] theorem setCluster_pfebRef (k : Nat) (x : ClusterSt) : (s.setCluster k x).pfebRef = s.pfebRef := rfl
@[simp] theorem setCluster_pfebCap (k : Nat) (x : ClusterSt) : (s.setCluster k x).pfebCap = s.pfebCap := rfl
@[simp] theorem setCluster_psplit (k : Nat) (x : ClusterSt) : (s.setCluster k x).psplit = s.psplit := rfl
@[simp] theorem setCluster_route (k : Nat) (x : ClusterSt) : (s.setCluster k x).route = s.route := rfl
@[simp] theorem setCluster_keysel (k : Nat) (x : ClusterSt) : (s.setCluster k x).keysel = s.keysel := rfl
@[simp] theorem setCluster_keydata (k : Nat) (x : ClusterSt) : (s.setCluster k x).keydata = s.keydata := rfl
@[simp] theorem setCluster_keys (k : Nat) (x : ClusterSt) : (s.setCluster k x).keys = s.keys := rfl
@[simp] theorem setCluster_repairStatus (k : Nat) (x : ClusterSt) : (s.setCluster k x).repairStatus = s.repairStatus := rfl
@[simp] theorem setCluster_repairReg (k : Nat) (x : ClusterSt) : (s.setCluster k x).repairReg = s.repairReg := rfl
@[simp] theorem setCluster_repairMap (k : Nat) (x : ClusterSt) : (s.setCluster k x).repairMap = s.repairMap := rfl
@[simp] theorem setCluster_softRow (k : Nat) (x : ClusterSt) : (s.setCluster k x).softRow = s.softRow := rfl
@[simp] theorem setCluster_softUsed (k : Nat) (x : ClusterSt) : (s.setCluster k x).softUsed = s.softUsed := rfl
@[simp] theorem setCluster_pclrPa (k : Nat) (x : ClusterSt) : (s.setCluster k x).pclrPa = s.pclrPa := rfl
@[simp] theorem setCluster_plimit (k : Nat) (x : ClusterSt) : (s.setCluster k x).plimit = s.plimit := rfl
@[simp] theorem setCluster_throttled (k : Nat) (x : ClusterSt) : (s.setCluster k x).throttled = s.throttled := rfl
@[simp] theorem setCluster_attStatus (k : Nat) (x : ClusterSt) : (s.setCluster k x).attStatus = s.attStatus := rfl
@[simp] theorem setCluster_attAddr (k : Nat) (x : ClusterSt) : (s.setCluster k x).attAddr = s.attAddr := rfl
@[simp] theorem setCluster_attBuf (k : Nat) (x : ClusterSt) : (s.setCluster k x).attBuf = s.attBuf := rfl
@[simp] theorem setCluster_attDigest (k : Nat) (x : ClusterSt) : (s.setCluster k x).attDigest = s.attDigest := rfl
@[simp] theorem setCluster_rollback (k : Nat) (x : ClusterSt) : (s.setCluster k x).rollback = s.rollback := rfl
@[simp] theorem setCluster_firmware (k : Nat) (x : ClusterSt) : (s.setCluster k x).firmware = s.firmware := rfl
@[simp] theorem setCluster_fwVersion (k : Nat) (x : ClusterSt) : (s.setCluster k x).fwVersion = s.fwVersion := rfl
@[simp] theorem setCluster_fwake (k : Nat) (x : ClusterSt) : (s.setCluster k x).fwake = s.fwake := rfl
@[simp] theorem setCluster_selfRefresh (k : Nat) (x : ClusterSt) : (s.setCluster k x).selfRefresh = s.selfRefresh := rfl
@[simp] theorem setCluster_resets (k : Nat) (x : ClusterSt) : (s.setCluster k x).resets = s.resets := rfl

-- setDie.

@[simp] theorem setDie_agenda (k : Nat) (x : DieSt) : (s.setDie k x).agenda = s.agenda := rfl
@[simp] theorem setDie_cur (k : Nat) (x : DieSt) : (s.setDie k x).cur = s.cur := rfl
@[simp] theorem setDie_upset (k : Nat) (x : DieSt) : (s.setDie k x).upset = s.upset := rfl
@[simp] theorem setDie_later (k : Nat) (x : DieSt) : (s.setDie k x).later = s.later := rfl
@[simp] theorem setDie_rank (k : Nat) (x : DieSt) : (s.setDie k x).rank = s.rank := rfl
@[simp] theorem setDie_fresh (k : Nat) (x : DieSt) : (s.setDie k x).fresh = s.fresh := rfl
@[simp] theorem setDie_nextUid (k : Nat) (x : DieSt) : (s.setDie k x).nextUid = s.nextUid := rfl
@[simp] theorem setDie_nextTag (k : Nat) (x : DieSt) : (s.setDie k x).nextTag = s.nextTag := rfl
@[simp] theorem setDie_nextSeq (k : Nat) (x : DieSt) : (s.setDie k x).nextSeq = s.nextSeq := rfl
@[simp] theorem setDie_clock (k : Nat) (x : DieSt) : (s.setDie k x).clock = s.clock := rfl
@[simp] theorem setDie_refilled (k : Nat) (x : DieSt) : (s.setDie k x).refilled = s.refilled := rfl
@[simp] theorem setDie_boot (k : Nat) (x : DieSt) : (s.setDie k x).boot = s.boot := rfl
@[simp] theorem setDie_mem (k : Nat) (x : DieSt) : (s.setDie k x).mem = s.mem := rfl
@[simp] theorem setDie_home (k : Nat) (x : DieSt) : (s.setDie k x).home = s.home := rfl
@[simp] theorem setDie_dir (k : Nat) (x : DieSt) : (s.setDie k x).dir = s.dir := rfl
@[simp] theorem setDie_hostHeld (k : Nat) (x : DieSt) : (s.setDie k x).hostHeld = s.hostHeld := rfl
@[simp] theorem setDie_poison (k : Nat) (x : DieSt) : (s.setDie k x).poison = s.poison := rfl
@[simp] theorem setDie_poisonLines (k : Nat) (x : DieSt) : (s.setDie k x).poisonLines = s.poisonLines := rfl
@[simp] theorem setDie_secKey (k : Nat) (x : DieSt) : (s.setDie k x).secKey = s.secKey := rfl
@[simp] theorem setDie_lastW (k : Nat) (x : DieSt) : (s.setDie k x).lastW = s.lastW := rfl
@[simp] theorem setDie_follows (k : Nat) (x : DieSt) : (s.setDie k x).follows = s.follows := rfl
@[simp] theorem setDie_hostDirty (k : Nat) (x : DieSt) : (s.setDie k x).hostDirty = s.hostDirty := rfl
@[simp] theorem setDie_performed (k : Nat) (x : DieSt) : (s.setDie k x).performed = s.performed := rfl
@[simp] theorem setDie_sent (k : Nat) (x : DieSt) : (s.setDie k x).sent = s.sent := rfl
@[simp] theorem setDie_hostOwn (k : Nat) (x : DieSt) : (s.setDie k x).hostOwn = s.hostOwn := rfl
@[simp] theorem setDie_fabricOwn (k : Nat) (x : DieSt) : (s.setDie k x).fabricOwn = s.fabricOwn := rfl
@[simp] theorem setDie_hostView (k : Nat) (x : DieSt) : (s.setDie k x).hostView = s.hostView := rfl
@[simp] theorem setDie_tlbs (k : Nat) (x : DieSt) : (s.setDie k x).tlbs = s.tlbs := rfl
@[simp] theorem setDie_invals (k : Nat) (x : DieSt) : (s.setDie k x).invals = s.invals := rfl
@[simp] theorem setDie_faults (k : Nat) (x : DieSt) : (s.setDie k x).faults = s.faults := rfl
@[simp] theorem setDie_engineOps (k : Nat) (x : DieSt) : (s.setDie k x).engineOps = s.engineOps := rfl
@[simp] theorem setDie_topks (k : Nat) (x : DieSt) : (s.setDie k x).topks = s.topks := rfl
@[simp] theorem setDie_irqs (k : Nat) (x : DieSt) : (s.setDie k x).irqs = s.irqs := rfl
@[simp] theorem setDie_reports (k : Nat) (x : DieSt) : (s.setDie k x).reports = s.reports := rfl
@[simp] theorem setDie_hostData (k : Nat) (x : DieSt) : (s.setDie k x).hostData = s.hostData := rfl
@[simp] theorem setDie_hostPoisoned (k : Nat) (x : DieSt) : (s.setDie k x).hostPoisoned = s.hostPoisoned := rfl
@[simp] theorem setDie_fabricOut (k : Nat) (x : DieSt) : (s.setDie k x).fabricOut = s.fabricOut := rfl
@[simp] theorem setDie_doeOut (k : Nat) (x : DieSt) : (s.setDie k x).doeOut = s.doeOut := rfl
@[simp] theorem setDie_loads (k : Nat) (x : DieSt) : (s.setDie k x).loads = s.loads := rfl
@[simp] theorem setDie_cores (k : Nat) (x : DieSt) : (s.setDie k x).cores = s.cores := rfl
@[simp] theorem setDie_clusters (k : Nat) (x : DieSt) : (s.setDie k x).clusters = s.clusters := rfl
@[simp] theorem setDie_groups (k : Nat) (x : DieSt) : (s.setDie k x).groups = s.groups := rfl
@[simp] theorem setDie_ctxs (k : Nat) (x : DieSt) : (s.setDie k x).ctxs = s.ctxs := rfl
@[simp] theorem setDie_units (k : Nat) (x : DieSt) : (s.setDie k x).units = s.units := rfl
@[simp] theorem setDie_funcs (k : Nat) (x : DieSt) : (s.setDie k x).funcs = s.funcs := rfl
@[simp] theorem setDie_fcfg (k : Nat) (x : DieSt) : (s.setDie k x).fcfg = s.fcfg := rfl
@[simp] theorem setDie_parts (k : Nat) (x : DieSt) : (s.setDie k x).parts = s.parts := rfl
@[simp] theorem setDie_pfebRef (k : Nat) (x : DieSt) : (s.setDie k x).pfebRef = s.pfebRef := rfl
@[simp] theorem setDie_pfebCap (k : Nat) (x : DieSt) : (s.setDie k x).pfebCap = s.pfebCap := rfl
@[simp] theorem setDie_psplit (k : Nat) (x : DieSt) : (s.setDie k x).psplit = s.psplit := rfl
@[simp] theorem setDie_route (k : Nat) (x : DieSt) : (s.setDie k x).route = s.route := rfl
@[simp] theorem setDie_keysel (k : Nat) (x : DieSt) : (s.setDie k x).keysel = s.keysel := rfl
@[simp] theorem setDie_keydata (k : Nat) (x : DieSt) : (s.setDie k x).keydata = s.keydata := rfl
@[simp] theorem setDie_keys (k : Nat) (x : DieSt) : (s.setDie k x).keys = s.keys := rfl
@[simp] theorem setDie_repairStatus (k : Nat) (x : DieSt) : (s.setDie k x).repairStatus = s.repairStatus := rfl
@[simp] theorem setDie_repairReg (k : Nat) (x : DieSt) : (s.setDie k x).repairReg = s.repairReg := rfl
@[simp] theorem setDie_repairMap (k : Nat) (x : DieSt) : (s.setDie k x).repairMap = s.repairMap := rfl
@[simp] theorem setDie_softRow (k : Nat) (x : DieSt) : (s.setDie k x).softRow = s.softRow := rfl
@[simp] theorem setDie_softUsed (k : Nat) (x : DieSt) : (s.setDie k x).softUsed = s.softUsed := rfl
@[simp] theorem setDie_pclrPa (k : Nat) (x : DieSt) : (s.setDie k x).pclrPa = s.pclrPa := rfl
@[simp] theorem setDie_plimit (k : Nat) (x : DieSt) : (s.setDie k x).plimit = s.plimit := rfl
@[simp] theorem setDie_throttled (k : Nat) (x : DieSt) : (s.setDie k x).throttled = s.throttled := rfl
@[simp] theorem setDie_attStatus (k : Nat) (x : DieSt) : (s.setDie k x).attStatus = s.attStatus := rfl
@[simp] theorem setDie_attAddr (k : Nat) (x : DieSt) : (s.setDie k x).attAddr = s.attAddr := rfl
@[simp] theorem setDie_attBuf (k : Nat) (x : DieSt) : (s.setDie k x).attBuf = s.attBuf := rfl
@[simp] theorem setDie_attDigest (k : Nat) (x : DieSt) : (s.setDie k x).attDigest = s.attDigest := rfl
@[simp] theorem setDie_rollback (k : Nat) (x : DieSt) : (s.setDie k x).rollback = s.rollback := rfl
@[simp] theorem setDie_firmware (k : Nat) (x : DieSt) : (s.setDie k x).firmware = s.firmware := rfl
@[simp] theorem setDie_fwVersion (k : Nat) (x : DieSt) : (s.setDie k x).fwVersion = s.fwVersion := rfl
@[simp] theorem setDie_fwake (k : Nat) (x : DieSt) : (s.setDie k x).fwake = s.fwake := rfl
@[simp] theorem setDie_selfRefresh (k : Nat) (x : DieSt) : (s.setDie k x).selfRefresh = s.selfRefresh := rfl
@[simp] theorem setDie_resets (k : Nat) (x : DieSt) : (s.setDie k x).resets = s.resets := rfl

-- setGroup.

@[simp] theorem setGroup_agenda (k n : Nat) (x : Option Group) : (s.setGroup k n x).agenda = s.agenda := rfl
@[simp] theorem setGroup_cur (k n : Nat) (x : Option Group) : (s.setGroup k n x).cur = s.cur := rfl
@[simp] theorem setGroup_upset (k n : Nat) (x : Option Group) : (s.setGroup k n x).upset = s.upset := rfl
@[simp] theorem setGroup_later (k n : Nat) (x : Option Group) : (s.setGroup k n x).later = s.later := rfl
@[simp] theorem setGroup_rank (k n : Nat) (x : Option Group) : (s.setGroup k n x).rank = s.rank := rfl
@[simp] theorem setGroup_fresh (k n : Nat) (x : Option Group) : (s.setGroup k n x).fresh = s.fresh := rfl
@[simp] theorem setGroup_nextUid (k n : Nat) (x : Option Group) : (s.setGroup k n x).nextUid = s.nextUid := rfl
@[simp] theorem setGroup_nextTag (k n : Nat) (x : Option Group) : (s.setGroup k n x).nextTag = s.nextTag := rfl
@[simp] theorem setGroup_nextSeq (k n : Nat) (x : Option Group) : (s.setGroup k n x).nextSeq = s.nextSeq := rfl
@[simp] theorem setGroup_clock (k n : Nat) (x : Option Group) : (s.setGroup k n x).clock = s.clock := rfl
@[simp] theorem setGroup_refilled (k n : Nat) (x : Option Group) : (s.setGroup k n x).refilled = s.refilled := rfl
@[simp] theorem setGroup_boot (k n : Nat) (x : Option Group) : (s.setGroup k n x).boot = s.boot := rfl
@[simp] theorem setGroup_mem (k n : Nat) (x : Option Group) : (s.setGroup k n x).mem = s.mem := rfl
@[simp] theorem setGroup_home (k n : Nat) (x : Option Group) : (s.setGroup k n x).home = s.home := rfl
@[simp] theorem setGroup_dir (k n : Nat) (x : Option Group) : (s.setGroup k n x).dir = s.dir := rfl
@[simp] theorem setGroup_hostHeld (k n : Nat) (x : Option Group) : (s.setGroup k n x).hostHeld = s.hostHeld := rfl
@[simp] theorem setGroup_poison (k n : Nat) (x : Option Group) : (s.setGroup k n x).poison = s.poison := rfl
@[simp] theorem setGroup_poisonLines (k n : Nat) (x : Option Group) : (s.setGroup k n x).poisonLines = s.poisonLines := rfl
@[simp] theorem setGroup_secKey (k n : Nat) (x : Option Group) : (s.setGroup k n x).secKey = s.secKey := rfl
@[simp] theorem setGroup_lastW (k n : Nat) (x : Option Group) : (s.setGroup k n x).lastW = s.lastW := rfl
@[simp] theorem setGroup_follows (k n : Nat) (x : Option Group) : (s.setGroup k n x).follows = s.follows := rfl
@[simp] theorem setGroup_hostDirty (k n : Nat) (x : Option Group) : (s.setGroup k n x).hostDirty = s.hostDirty := rfl
@[simp] theorem setGroup_performed (k n : Nat) (x : Option Group) : (s.setGroup k n x).performed = s.performed := rfl
@[simp] theorem setGroup_sent (k n : Nat) (x : Option Group) : (s.setGroup k n x).sent = s.sent := rfl
@[simp] theorem setGroup_hostOwn (k n : Nat) (x : Option Group) : (s.setGroup k n x).hostOwn = s.hostOwn := rfl
@[simp] theorem setGroup_fabricOwn (k n : Nat) (x : Option Group) : (s.setGroup k n x).fabricOwn = s.fabricOwn := rfl
@[simp] theorem setGroup_hostView (k n : Nat) (x : Option Group) : (s.setGroup k n x).hostView = s.hostView := rfl
@[simp] theorem setGroup_tlbs (k n : Nat) (x : Option Group) : (s.setGroup k n x).tlbs = s.tlbs := rfl
@[simp] theorem setGroup_invals (k n : Nat) (x : Option Group) : (s.setGroup k n x).invals = s.invals := rfl
@[simp] theorem setGroup_faults (k n : Nat) (x : Option Group) : (s.setGroup k n x).faults = s.faults := rfl
@[simp] theorem setGroup_engineOps (k n : Nat) (x : Option Group) : (s.setGroup k n x).engineOps = s.engineOps := rfl
@[simp] theorem setGroup_topks (k n : Nat) (x : Option Group) : (s.setGroup k n x).topks = s.topks := rfl
@[simp] theorem setGroup_irqs (k n : Nat) (x : Option Group) : (s.setGroup k n x).irqs = s.irqs := rfl
@[simp] theorem setGroup_reports (k n : Nat) (x : Option Group) : (s.setGroup k n x).reports = s.reports := rfl
@[simp] theorem setGroup_hostData (k n : Nat) (x : Option Group) : (s.setGroup k n x).hostData = s.hostData := rfl
@[simp] theorem setGroup_hostPoisoned (k n : Nat) (x : Option Group) : (s.setGroup k n x).hostPoisoned = s.hostPoisoned := rfl
@[simp] theorem setGroup_fabricOut (k n : Nat) (x : Option Group) : (s.setGroup k n x).fabricOut = s.fabricOut := rfl
@[simp] theorem setGroup_doeOut (k n : Nat) (x : Option Group) : (s.setGroup k n x).doeOut = s.doeOut := rfl
@[simp] theorem setGroup_loads (k n : Nat) (x : Option Group) : (s.setGroup k n x).loads = s.loads := rfl
@[simp] theorem setGroup_dies (k n : Nat) (x : Option Group) : (s.setGroup k n x).dies = s.dies := rfl
@[simp] theorem setGroup_cores (k n : Nat) (x : Option Group) : (s.setGroup k n x).cores = s.cores := rfl
@[simp] theorem setGroup_clusters (k n : Nat) (x : Option Group) : (s.setGroup k n x).clusters = s.clusters := rfl
@[simp] theorem setGroup_ctxs (k n : Nat) (x : Option Group) : (s.setGroup k n x).ctxs = s.ctxs := rfl
@[simp] theorem setGroup_units (k n : Nat) (x : Option Group) : (s.setGroup k n x).units = s.units := rfl
@[simp] theorem setGroup_funcs (k n : Nat) (x : Option Group) : (s.setGroup k n x).funcs = s.funcs := rfl
@[simp] theorem setGroup_fcfg (k n : Nat) (x : Option Group) : (s.setGroup k n x).fcfg = s.fcfg := rfl
@[simp] theorem setGroup_parts (k n : Nat) (x : Option Group) : (s.setGroup k n x).parts = s.parts := rfl
@[simp] theorem setGroup_pfebRef (k n : Nat) (x : Option Group) : (s.setGroup k n x).pfebRef = s.pfebRef := rfl
@[simp] theorem setGroup_pfebCap (k n : Nat) (x : Option Group) : (s.setGroup k n x).pfebCap = s.pfebCap := rfl
@[simp] theorem setGroup_psplit (k n : Nat) (x : Option Group) : (s.setGroup k n x).psplit = s.psplit := rfl
@[simp] theorem setGroup_route (k n : Nat) (x : Option Group) : (s.setGroup k n x).route = s.route := rfl
@[simp] theorem setGroup_keysel (k n : Nat) (x : Option Group) : (s.setGroup k n x).keysel = s.keysel := rfl
@[simp] theorem setGroup_keydata (k n : Nat) (x : Option Group) : (s.setGroup k n x).keydata = s.keydata := rfl
@[simp] theorem setGroup_keys (k n : Nat) (x : Option Group) : (s.setGroup k n x).keys = s.keys := rfl
@[simp] theorem setGroup_repairStatus (k n : Nat) (x : Option Group) : (s.setGroup k n x).repairStatus = s.repairStatus := rfl
@[simp] theorem setGroup_repairReg (k n : Nat) (x : Option Group) : (s.setGroup k n x).repairReg = s.repairReg := rfl
@[simp] theorem setGroup_repairMap (k n : Nat) (x : Option Group) : (s.setGroup k n x).repairMap = s.repairMap := rfl
@[simp] theorem setGroup_softRow (k n : Nat) (x : Option Group) : (s.setGroup k n x).softRow = s.softRow := rfl
@[simp] theorem setGroup_softUsed (k n : Nat) (x : Option Group) : (s.setGroup k n x).softUsed = s.softUsed := rfl
@[simp] theorem setGroup_pclrPa (k n : Nat) (x : Option Group) : (s.setGroup k n x).pclrPa = s.pclrPa := rfl
@[simp] theorem setGroup_plimit (k n : Nat) (x : Option Group) : (s.setGroup k n x).plimit = s.plimit := rfl
@[simp] theorem setGroup_throttled (k n : Nat) (x : Option Group) : (s.setGroup k n x).throttled = s.throttled := rfl
@[simp] theorem setGroup_attStatus (k n : Nat) (x : Option Group) : (s.setGroup k n x).attStatus = s.attStatus := rfl
@[simp] theorem setGroup_attAddr (k n : Nat) (x : Option Group) : (s.setGroup k n x).attAddr = s.attAddr := rfl
@[simp] theorem setGroup_attBuf (k n : Nat) (x : Option Group) : (s.setGroup k n x).attBuf = s.attBuf := rfl
@[simp] theorem setGroup_attDigest (k n : Nat) (x : Option Group) : (s.setGroup k n x).attDigest = s.attDigest := rfl
@[simp] theorem setGroup_rollback (k n : Nat) (x : Option Group) : (s.setGroup k n x).rollback = s.rollback := rfl
@[simp] theorem setGroup_firmware (k n : Nat) (x : Option Group) : (s.setGroup k n x).firmware = s.firmware := rfl
@[simp] theorem setGroup_fwVersion (k n : Nat) (x : Option Group) : (s.setGroup k n x).fwVersion = s.fwVersion := rfl
@[simp] theorem setGroup_fwake (k n : Nat) (x : Option Group) : (s.setGroup k n x).fwake = s.fwake := rfl
@[simp] theorem setGroup_selfRefresh (k n : Nat) (x : Option Group) : (s.setGroup k n x).selfRefresh = s.selfRefresh := rfl
@[simp] theorem setGroup_resets (k n : Nat) (x : Option Group) : (s.setGroup k n x).resets = s.resets := rfl

-- setCtx.

@[simp] theorem setCtx_agenda (k n : Nat) (x : Option Ctx) : (s.setCtx k n x).agenda = s.agenda := rfl
@[simp] theorem setCtx_cur (k n : Nat) (x : Option Ctx) : (s.setCtx k n x).cur = s.cur := rfl
@[simp] theorem setCtx_upset (k n : Nat) (x : Option Ctx) : (s.setCtx k n x).upset = s.upset := rfl
@[simp] theorem setCtx_later (k n : Nat) (x : Option Ctx) : (s.setCtx k n x).later = s.later := rfl
@[simp] theorem setCtx_rank (k n : Nat) (x : Option Ctx) : (s.setCtx k n x).rank = s.rank := rfl
@[simp] theorem setCtx_fresh (k n : Nat) (x : Option Ctx) : (s.setCtx k n x).fresh = s.fresh := rfl
@[simp] theorem setCtx_nextUid (k n : Nat) (x : Option Ctx) : (s.setCtx k n x).nextUid = s.nextUid := rfl
@[simp] theorem setCtx_nextTag (k n : Nat) (x : Option Ctx) : (s.setCtx k n x).nextTag = s.nextTag := rfl
@[simp] theorem setCtx_nextSeq (k n : Nat) (x : Option Ctx) : (s.setCtx k n x).nextSeq = s.nextSeq := rfl
@[simp] theorem setCtx_clock (k n : Nat) (x : Option Ctx) : (s.setCtx k n x).clock = s.clock := rfl
@[simp] theorem setCtx_refilled (k n : Nat) (x : Option Ctx) : (s.setCtx k n x).refilled = s.refilled := rfl
@[simp] theorem setCtx_boot (k n : Nat) (x : Option Ctx) : (s.setCtx k n x).boot = s.boot := rfl
@[simp] theorem setCtx_mem (k n : Nat) (x : Option Ctx) : (s.setCtx k n x).mem = s.mem := rfl
@[simp] theorem setCtx_home (k n : Nat) (x : Option Ctx) : (s.setCtx k n x).home = s.home := rfl
@[simp] theorem setCtx_dir (k n : Nat) (x : Option Ctx) : (s.setCtx k n x).dir = s.dir := rfl
@[simp] theorem setCtx_hostHeld (k n : Nat) (x : Option Ctx) : (s.setCtx k n x).hostHeld = s.hostHeld := rfl
@[simp] theorem setCtx_poison (k n : Nat) (x : Option Ctx) : (s.setCtx k n x).poison = s.poison := rfl
@[simp] theorem setCtx_poisonLines (k n : Nat) (x : Option Ctx) : (s.setCtx k n x).poisonLines = s.poisonLines := rfl
@[simp] theorem setCtx_secKey (k n : Nat) (x : Option Ctx) : (s.setCtx k n x).secKey = s.secKey := rfl
@[simp] theorem setCtx_lastW (k n : Nat) (x : Option Ctx) : (s.setCtx k n x).lastW = s.lastW := rfl
@[simp] theorem setCtx_follows (k n : Nat) (x : Option Ctx) : (s.setCtx k n x).follows = s.follows := rfl
@[simp] theorem setCtx_hostDirty (k n : Nat) (x : Option Ctx) : (s.setCtx k n x).hostDirty = s.hostDirty := rfl
@[simp] theorem setCtx_performed (k n : Nat) (x : Option Ctx) : (s.setCtx k n x).performed = s.performed := rfl
@[simp] theorem setCtx_sent (k n : Nat) (x : Option Ctx) : (s.setCtx k n x).sent = s.sent := rfl
@[simp] theorem setCtx_hostOwn (k n : Nat) (x : Option Ctx) : (s.setCtx k n x).hostOwn = s.hostOwn := rfl
@[simp] theorem setCtx_fabricOwn (k n : Nat) (x : Option Ctx) : (s.setCtx k n x).fabricOwn = s.fabricOwn := rfl
@[simp] theorem setCtx_hostView (k n : Nat) (x : Option Ctx) : (s.setCtx k n x).hostView = s.hostView := rfl
@[simp] theorem setCtx_tlbs (k n : Nat) (x : Option Ctx) : (s.setCtx k n x).tlbs = s.tlbs := rfl
@[simp] theorem setCtx_invals (k n : Nat) (x : Option Ctx) : (s.setCtx k n x).invals = s.invals := rfl
@[simp] theorem setCtx_faults (k n : Nat) (x : Option Ctx) : (s.setCtx k n x).faults = s.faults := rfl
@[simp] theorem setCtx_engineOps (k n : Nat) (x : Option Ctx) : (s.setCtx k n x).engineOps = s.engineOps := rfl
@[simp] theorem setCtx_topks (k n : Nat) (x : Option Ctx) : (s.setCtx k n x).topks = s.topks := rfl
@[simp] theorem setCtx_irqs (k n : Nat) (x : Option Ctx) : (s.setCtx k n x).irqs = s.irqs := rfl
@[simp] theorem setCtx_reports (k n : Nat) (x : Option Ctx) : (s.setCtx k n x).reports = s.reports := rfl
@[simp] theorem setCtx_hostData (k n : Nat) (x : Option Ctx) : (s.setCtx k n x).hostData = s.hostData := rfl
@[simp] theorem setCtx_hostPoisoned (k n : Nat) (x : Option Ctx) : (s.setCtx k n x).hostPoisoned = s.hostPoisoned := rfl
@[simp] theorem setCtx_fabricOut (k n : Nat) (x : Option Ctx) : (s.setCtx k n x).fabricOut = s.fabricOut := rfl
@[simp] theorem setCtx_doeOut (k n : Nat) (x : Option Ctx) : (s.setCtx k n x).doeOut = s.doeOut := rfl
@[simp] theorem setCtx_loads (k n : Nat) (x : Option Ctx) : (s.setCtx k n x).loads = s.loads := rfl
@[simp] theorem setCtx_dies (k n : Nat) (x : Option Ctx) : (s.setCtx k n x).dies = s.dies := rfl
@[simp] theorem setCtx_cores (k n : Nat) (x : Option Ctx) : (s.setCtx k n x).cores = s.cores := rfl
@[simp] theorem setCtx_clusters (k n : Nat) (x : Option Ctx) : (s.setCtx k n x).clusters = s.clusters := rfl
@[simp] theorem setCtx_groups (k n : Nat) (x : Option Ctx) : (s.setCtx k n x).groups = s.groups := rfl
@[simp] theorem setCtx_units (k n : Nat) (x : Option Ctx) : (s.setCtx k n x).units = s.units := rfl
@[simp] theorem setCtx_funcs (k n : Nat) (x : Option Ctx) : (s.setCtx k n x).funcs = s.funcs := rfl
@[simp] theorem setCtx_fcfg (k n : Nat) (x : Option Ctx) : (s.setCtx k n x).fcfg = s.fcfg := rfl
@[simp] theorem setCtx_parts (k n : Nat) (x : Option Ctx) : (s.setCtx k n x).parts = s.parts := rfl
@[simp] theorem setCtx_pfebRef (k n : Nat) (x : Option Ctx) : (s.setCtx k n x).pfebRef = s.pfebRef := rfl
@[simp] theorem setCtx_pfebCap (k n : Nat) (x : Option Ctx) : (s.setCtx k n x).pfebCap = s.pfebCap := rfl
@[simp] theorem setCtx_psplit (k n : Nat) (x : Option Ctx) : (s.setCtx k n x).psplit = s.psplit := rfl
@[simp] theorem setCtx_route (k n : Nat) (x : Option Ctx) : (s.setCtx k n x).route = s.route := rfl
@[simp] theorem setCtx_keysel (k n : Nat) (x : Option Ctx) : (s.setCtx k n x).keysel = s.keysel := rfl
@[simp] theorem setCtx_keydata (k n : Nat) (x : Option Ctx) : (s.setCtx k n x).keydata = s.keydata := rfl
@[simp] theorem setCtx_keys (k n : Nat) (x : Option Ctx) : (s.setCtx k n x).keys = s.keys := rfl
@[simp] theorem setCtx_repairStatus (k n : Nat) (x : Option Ctx) : (s.setCtx k n x).repairStatus = s.repairStatus := rfl
@[simp] theorem setCtx_repairReg (k n : Nat) (x : Option Ctx) : (s.setCtx k n x).repairReg = s.repairReg := rfl
@[simp] theorem setCtx_repairMap (k n : Nat) (x : Option Ctx) : (s.setCtx k n x).repairMap = s.repairMap := rfl
@[simp] theorem setCtx_softRow (k n : Nat) (x : Option Ctx) : (s.setCtx k n x).softRow = s.softRow := rfl
@[simp] theorem setCtx_softUsed (k n : Nat) (x : Option Ctx) : (s.setCtx k n x).softUsed = s.softUsed := rfl
@[simp] theorem setCtx_pclrPa (k n : Nat) (x : Option Ctx) : (s.setCtx k n x).pclrPa = s.pclrPa := rfl
@[simp] theorem setCtx_plimit (k n : Nat) (x : Option Ctx) : (s.setCtx k n x).plimit = s.plimit := rfl
@[simp] theorem setCtx_throttled (k n : Nat) (x : Option Ctx) : (s.setCtx k n x).throttled = s.throttled := rfl
@[simp] theorem setCtx_attStatus (k n : Nat) (x : Option Ctx) : (s.setCtx k n x).attStatus = s.attStatus := rfl
@[simp] theorem setCtx_attAddr (k n : Nat) (x : Option Ctx) : (s.setCtx k n x).attAddr = s.attAddr := rfl
@[simp] theorem setCtx_attBuf (k n : Nat) (x : Option Ctx) : (s.setCtx k n x).attBuf = s.attBuf := rfl
@[simp] theorem setCtx_attDigest (k n : Nat) (x : Option Ctx) : (s.setCtx k n x).attDigest = s.attDigest := rfl
@[simp] theorem setCtx_rollback (k n : Nat) (x : Option Ctx) : (s.setCtx k n x).rollback = s.rollback := rfl
@[simp] theorem setCtx_firmware (k n : Nat) (x : Option Ctx) : (s.setCtx k n x).firmware = s.firmware := rfl
@[simp] theorem setCtx_fwVersion (k n : Nat) (x : Option Ctx) : (s.setCtx k n x).fwVersion = s.fwVersion := rfl
@[simp] theorem setCtx_fwake (k n : Nat) (x : Option Ctx) : (s.setCtx k n x).fwake = s.fwake := rfl
@[simp] theorem setCtx_selfRefresh (k n : Nat) (x : Option Ctx) : (s.setCtx k n x).selfRefresh = s.selfRefresh := rfl
@[simp] theorem setCtx_resets (k n : Nat) (x : Option Ctx) : (s.setCtx k n x).resets = s.resets := rfl

-- setUnit.

@[simp] theorem setUnit_agenda (k : Nat) (x : Option Unit_) : (s.setUnit k x).agenda = s.agenda := rfl
@[simp] theorem setUnit_cur (k : Nat) (x : Option Unit_) : (s.setUnit k x).cur = s.cur := rfl
@[simp] theorem setUnit_upset (k : Nat) (x : Option Unit_) : (s.setUnit k x).upset = s.upset := rfl
@[simp] theorem setUnit_later (k : Nat) (x : Option Unit_) : (s.setUnit k x).later = s.later := rfl
@[simp] theorem setUnit_rank (k : Nat) (x : Option Unit_) : (s.setUnit k x).rank = s.rank := rfl
@[simp] theorem setUnit_fresh (k : Nat) (x : Option Unit_) : (s.setUnit k x).fresh = s.fresh := rfl
@[simp] theorem setUnit_nextUid (k : Nat) (x : Option Unit_) : (s.setUnit k x).nextUid = s.nextUid := rfl
@[simp] theorem setUnit_nextTag (k : Nat) (x : Option Unit_) : (s.setUnit k x).nextTag = s.nextTag := rfl
@[simp] theorem setUnit_nextSeq (k : Nat) (x : Option Unit_) : (s.setUnit k x).nextSeq = s.nextSeq := rfl
@[simp] theorem setUnit_clock (k : Nat) (x : Option Unit_) : (s.setUnit k x).clock = s.clock := rfl
@[simp] theorem setUnit_refilled (k : Nat) (x : Option Unit_) : (s.setUnit k x).refilled = s.refilled := rfl
@[simp] theorem setUnit_boot (k : Nat) (x : Option Unit_) : (s.setUnit k x).boot = s.boot := rfl
@[simp] theorem setUnit_mem (k : Nat) (x : Option Unit_) : (s.setUnit k x).mem = s.mem := rfl
@[simp] theorem setUnit_home (k : Nat) (x : Option Unit_) : (s.setUnit k x).home = s.home := rfl
@[simp] theorem setUnit_dir (k : Nat) (x : Option Unit_) : (s.setUnit k x).dir = s.dir := rfl
@[simp] theorem setUnit_hostHeld (k : Nat) (x : Option Unit_) : (s.setUnit k x).hostHeld = s.hostHeld := rfl
@[simp] theorem setUnit_poison (k : Nat) (x : Option Unit_) : (s.setUnit k x).poison = s.poison := rfl
@[simp] theorem setUnit_poisonLines (k : Nat) (x : Option Unit_) : (s.setUnit k x).poisonLines = s.poisonLines := rfl
@[simp] theorem setUnit_secKey (k : Nat) (x : Option Unit_) : (s.setUnit k x).secKey = s.secKey := rfl
@[simp] theorem setUnit_lastW (k : Nat) (x : Option Unit_) : (s.setUnit k x).lastW = s.lastW := rfl
@[simp] theorem setUnit_follows (k : Nat) (x : Option Unit_) : (s.setUnit k x).follows = s.follows := rfl
@[simp] theorem setUnit_hostDirty (k : Nat) (x : Option Unit_) : (s.setUnit k x).hostDirty = s.hostDirty := rfl
@[simp] theorem setUnit_performed (k : Nat) (x : Option Unit_) : (s.setUnit k x).performed = s.performed := rfl
@[simp] theorem setUnit_sent (k : Nat) (x : Option Unit_) : (s.setUnit k x).sent = s.sent := rfl
@[simp] theorem setUnit_hostOwn (k : Nat) (x : Option Unit_) : (s.setUnit k x).hostOwn = s.hostOwn := rfl
@[simp] theorem setUnit_fabricOwn (k : Nat) (x : Option Unit_) : (s.setUnit k x).fabricOwn = s.fabricOwn := rfl
@[simp] theorem setUnit_hostView (k : Nat) (x : Option Unit_) : (s.setUnit k x).hostView = s.hostView := rfl
@[simp] theorem setUnit_tlbs (k : Nat) (x : Option Unit_) : (s.setUnit k x).tlbs = s.tlbs := rfl
@[simp] theorem setUnit_invals (k : Nat) (x : Option Unit_) : (s.setUnit k x).invals = s.invals := rfl
@[simp] theorem setUnit_faults (k : Nat) (x : Option Unit_) : (s.setUnit k x).faults = s.faults := rfl
@[simp] theorem setUnit_engineOps (k : Nat) (x : Option Unit_) : (s.setUnit k x).engineOps = s.engineOps := rfl
@[simp] theorem setUnit_topks (k : Nat) (x : Option Unit_) : (s.setUnit k x).topks = s.topks := rfl
@[simp] theorem setUnit_irqs (k : Nat) (x : Option Unit_) : (s.setUnit k x).irqs = s.irqs := rfl
@[simp] theorem setUnit_reports (k : Nat) (x : Option Unit_) : (s.setUnit k x).reports = s.reports := rfl
@[simp] theorem setUnit_hostData (k : Nat) (x : Option Unit_) : (s.setUnit k x).hostData = s.hostData := rfl
@[simp] theorem setUnit_hostPoisoned (k : Nat) (x : Option Unit_) : (s.setUnit k x).hostPoisoned = s.hostPoisoned := rfl
@[simp] theorem setUnit_fabricOut (k : Nat) (x : Option Unit_) : (s.setUnit k x).fabricOut = s.fabricOut := rfl
@[simp] theorem setUnit_doeOut (k : Nat) (x : Option Unit_) : (s.setUnit k x).doeOut = s.doeOut := rfl
@[simp] theorem setUnit_loads (k : Nat) (x : Option Unit_) : (s.setUnit k x).loads = s.loads := rfl
@[simp] theorem setUnit_dies (k : Nat) (x : Option Unit_) : (s.setUnit k x).dies = s.dies := rfl
@[simp] theorem setUnit_cores (k : Nat) (x : Option Unit_) : (s.setUnit k x).cores = s.cores := rfl
@[simp] theorem setUnit_clusters (k : Nat) (x : Option Unit_) : (s.setUnit k x).clusters = s.clusters := rfl
@[simp] theorem setUnit_groups (k : Nat) (x : Option Unit_) : (s.setUnit k x).groups = s.groups := rfl
@[simp] theorem setUnit_ctxs (k : Nat) (x : Option Unit_) : (s.setUnit k x).ctxs = s.ctxs := rfl
@[simp] theorem setUnit_funcs (k : Nat) (x : Option Unit_) : (s.setUnit k x).funcs = s.funcs := rfl
@[simp] theorem setUnit_fcfg (k : Nat) (x : Option Unit_) : (s.setUnit k x).fcfg = s.fcfg := rfl
@[simp] theorem setUnit_parts (k : Nat) (x : Option Unit_) : (s.setUnit k x).parts = s.parts := rfl
@[simp] theorem setUnit_pfebRef (k : Nat) (x : Option Unit_) : (s.setUnit k x).pfebRef = s.pfebRef := rfl
@[simp] theorem setUnit_pfebCap (k : Nat) (x : Option Unit_) : (s.setUnit k x).pfebCap = s.pfebCap := rfl
@[simp] theorem setUnit_psplit (k : Nat) (x : Option Unit_) : (s.setUnit k x).psplit = s.psplit := rfl
@[simp] theorem setUnit_route (k : Nat) (x : Option Unit_) : (s.setUnit k x).route = s.route := rfl
@[simp] theorem setUnit_keysel (k : Nat) (x : Option Unit_) : (s.setUnit k x).keysel = s.keysel := rfl
@[simp] theorem setUnit_keydata (k : Nat) (x : Option Unit_) : (s.setUnit k x).keydata = s.keydata := rfl
@[simp] theorem setUnit_keys (k : Nat) (x : Option Unit_) : (s.setUnit k x).keys = s.keys := rfl
@[simp] theorem setUnit_repairStatus (k : Nat) (x : Option Unit_) : (s.setUnit k x).repairStatus = s.repairStatus := rfl
@[simp] theorem setUnit_repairReg (k : Nat) (x : Option Unit_) : (s.setUnit k x).repairReg = s.repairReg := rfl
@[simp] theorem setUnit_repairMap (k : Nat) (x : Option Unit_) : (s.setUnit k x).repairMap = s.repairMap := rfl
@[simp] theorem setUnit_softRow (k : Nat) (x : Option Unit_) : (s.setUnit k x).softRow = s.softRow := rfl
@[simp] theorem setUnit_softUsed (k : Nat) (x : Option Unit_) : (s.setUnit k x).softUsed = s.softUsed := rfl
@[simp] theorem setUnit_pclrPa (k : Nat) (x : Option Unit_) : (s.setUnit k x).pclrPa = s.pclrPa := rfl
@[simp] theorem setUnit_plimit (k : Nat) (x : Option Unit_) : (s.setUnit k x).plimit = s.plimit := rfl
@[simp] theorem setUnit_throttled (k : Nat) (x : Option Unit_) : (s.setUnit k x).throttled = s.throttled := rfl
@[simp] theorem setUnit_attStatus (k : Nat) (x : Option Unit_) : (s.setUnit k x).attStatus = s.attStatus := rfl
@[simp] theorem setUnit_attAddr (k : Nat) (x : Option Unit_) : (s.setUnit k x).attAddr = s.attAddr := rfl
@[simp] theorem setUnit_attBuf (k : Nat) (x : Option Unit_) : (s.setUnit k x).attBuf = s.attBuf := rfl
@[simp] theorem setUnit_attDigest (k : Nat) (x : Option Unit_) : (s.setUnit k x).attDigest = s.attDigest := rfl
@[simp] theorem setUnit_rollback (k : Nat) (x : Option Unit_) : (s.setUnit k x).rollback = s.rollback := rfl
@[simp] theorem setUnit_firmware (k : Nat) (x : Option Unit_) : (s.setUnit k x).firmware = s.firmware := rfl
@[simp] theorem setUnit_fwVersion (k : Nat) (x : Option Unit_) : (s.setUnit k x).fwVersion = s.fwVersion := rfl
@[simp] theorem setUnit_fwake (k : Nat) (x : Option Unit_) : (s.setUnit k x).fwake = s.fwake := rfl
@[simp] theorem setUnit_selfRefresh (k : Nat) (x : Option Unit_) : (s.setUnit k x).selfRefresh = s.selfRefresh := rfl
@[simp] theorem setUnit_resets (k : Nat) (x : Option Unit_) : (s.setUnit k x).resets = s.resets := rfl

-- setFunc.

@[simp] theorem setFunc_agenda (k : Nat) (x : Func) : (s.setFunc k x).agenda = s.agenda := rfl
@[simp] theorem setFunc_cur (k : Nat) (x : Func) : (s.setFunc k x).cur = s.cur := rfl
@[simp] theorem setFunc_upset (k : Nat) (x : Func) : (s.setFunc k x).upset = s.upset := rfl
@[simp] theorem setFunc_later (k : Nat) (x : Func) : (s.setFunc k x).later = s.later := rfl
@[simp] theorem setFunc_rank (k : Nat) (x : Func) : (s.setFunc k x).rank = s.rank := rfl
@[simp] theorem setFunc_fresh (k : Nat) (x : Func) : (s.setFunc k x).fresh = s.fresh := rfl
@[simp] theorem setFunc_nextUid (k : Nat) (x : Func) : (s.setFunc k x).nextUid = s.nextUid := rfl
@[simp] theorem setFunc_nextTag (k : Nat) (x : Func) : (s.setFunc k x).nextTag = s.nextTag := rfl
@[simp] theorem setFunc_nextSeq (k : Nat) (x : Func) : (s.setFunc k x).nextSeq = s.nextSeq := rfl
@[simp] theorem setFunc_clock (k : Nat) (x : Func) : (s.setFunc k x).clock = s.clock := rfl
@[simp] theorem setFunc_refilled (k : Nat) (x : Func) : (s.setFunc k x).refilled = s.refilled := rfl
@[simp] theorem setFunc_boot (k : Nat) (x : Func) : (s.setFunc k x).boot = s.boot := rfl
@[simp] theorem setFunc_mem (k : Nat) (x : Func) : (s.setFunc k x).mem = s.mem := rfl
@[simp] theorem setFunc_home (k : Nat) (x : Func) : (s.setFunc k x).home = s.home := rfl
@[simp] theorem setFunc_dir (k : Nat) (x : Func) : (s.setFunc k x).dir = s.dir := rfl
@[simp] theorem setFunc_hostHeld (k : Nat) (x : Func) : (s.setFunc k x).hostHeld = s.hostHeld := rfl
@[simp] theorem setFunc_poison (k : Nat) (x : Func) : (s.setFunc k x).poison = s.poison := rfl
@[simp] theorem setFunc_poisonLines (k : Nat) (x : Func) : (s.setFunc k x).poisonLines = s.poisonLines := rfl
@[simp] theorem setFunc_secKey (k : Nat) (x : Func) : (s.setFunc k x).secKey = s.secKey := rfl
@[simp] theorem setFunc_lastW (k : Nat) (x : Func) : (s.setFunc k x).lastW = s.lastW := rfl
@[simp] theorem setFunc_follows (k : Nat) (x : Func) : (s.setFunc k x).follows = s.follows := rfl
@[simp] theorem setFunc_hostDirty (k : Nat) (x : Func) : (s.setFunc k x).hostDirty = s.hostDirty := rfl
@[simp] theorem setFunc_performed (k : Nat) (x : Func) : (s.setFunc k x).performed = s.performed := rfl
@[simp] theorem setFunc_sent (k : Nat) (x : Func) : (s.setFunc k x).sent = s.sent := rfl
@[simp] theorem setFunc_hostOwn (k : Nat) (x : Func) : (s.setFunc k x).hostOwn = s.hostOwn := rfl
@[simp] theorem setFunc_fabricOwn (k : Nat) (x : Func) : (s.setFunc k x).fabricOwn = s.fabricOwn := rfl
@[simp] theorem setFunc_hostView (k : Nat) (x : Func) : (s.setFunc k x).hostView = s.hostView := rfl
@[simp] theorem setFunc_tlbs (k : Nat) (x : Func) : (s.setFunc k x).tlbs = s.tlbs := rfl
@[simp] theorem setFunc_invals (k : Nat) (x : Func) : (s.setFunc k x).invals = s.invals := rfl
@[simp] theorem setFunc_faults (k : Nat) (x : Func) : (s.setFunc k x).faults = s.faults := rfl
@[simp] theorem setFunc_engineOps (k : Nat) (x : Func) : (s.setFunc k x).engineOps = s.engineOps := rfl
@[simp] theorem setFunc_topks (k : Nat) (x : Func) : (s.setFunc k x).topks = s.topks := rfl
@[simp] theorem setFunc_irqs (k : Nat) (x : Func) : (s.setFunc k x).irqs = s.irqs := rfl
@[simp] theorem setFunc_reports (k : Nat) (x : Func) : (s.setFunc k x).reports = s.reports := rfl
@[simp] theorem setFunc_hostData (k : Nat) (x : Func) : (s.setFunc k x).hostData = s.hostData := rfl
@[simp] theorem setFunc_hostPoisoned (k : Nat) (x : Func) : (s.setFunc k x).hostPoisoned = s.hostPoisoned := rfl
@[simp] theorem setFunc_fabricOut (k : Nat) (x : Func) : (s.setFunc k x).fabricOut = s.fabricOut := rfl
@[simp] theorem setFunc_doeOut (k : Nat) (x : Func) : (s.setFunc k x).doeOut = s.doeOut := rfl
@[simp] theorem setFunc_loads (k : Nat) (x : Func) : (s.setFunc k x).loads = s.loads := rfl
@[simp] theorem setFunc_dies (k : Nat) (x : Func) : (s.setFunc k x).dies = s.dies := rfl
@[simp] theorem setFunc_cores (k : Nat) (x : Func) : (s.setFunc k x).cores = s.cores := rfl
@[simp] theorem setFunc_clusters (k : Nat) (x : Func) : (s.setFunc k x).clusters = s.clusters := rfl
@[simp] theorem setFunc_groups (k : Nat) (x : Func) : (s.setFunc k x).groups = s.groups := rfl
@[simp] theorem setFunc_ctxs (k : Nat) (x : Func) : (s.setFunc k x).ctxs = s.ctxs := rfl
@[simp] theorem setFunc_units (k : Nat) (x : Func) : (s.setFunc k x).units = s.units := rfl
@[simp] theorem setFunc_fcfg (k : Nat) (x : Func) : (s.setFunc k x).fcfg = s.fcfg := rfl
@[simp] theorem setFunc_parts (k : Nat) (x : Func) : (s.setFunc k x).parts = s.parts := rfl
@[simp] theorem setFunc_pfebRef (k : Nat) (x : Func) : (s.setFunc k x).pfebRef = s.pfebRef := rfl
@[simp] theorem setFunc_pfebCap (k : Nat) (x : Func) : (s.setFunc k x).pfebCap = s.pfebCap := rfl
@[simp] theorem setFunc_psplit (k : Nat) (x : Func) : (s.setFunc k x).psplit = s.psplit := rfl
@[simp] theorem setFunc_route (k : Nat) (x : Func) : (s.setFunc k x).route = s.route := rfl
@[simp] theorem setFunc_keysel (k : Nat) (x : Func) : (s.setFunc k x).keysel = s.keysel := rfl
@[simp] theorem setFunc_keydata (k : Nat) (x : Func) : (s.setFunc k x).keydata = s.keydata := rfl
@[simp] theorem setFunc_keys (k : Nat) (x : Func) : (s.setFunc k x).keys = s.keys := rfl
@[simp] theorem setFunc_repairStatus (k : Nat) (x : Func) : (s.setFunc k x).repairStatus = s.repairStatus := rfl
@[simp] theorem setFunc_repairReg (k : Nat) (x : Func) : (s.setFunc k x).repairReg = s.repairReg := rfl
@[simp] theorem setFunc_repairMap (k : Nat) (x : Func) : (s.setFunc k x).repairMap = s.repairMap := rfl
@[simp] theorem setFunc_softRow (k : Nat) (x : Func) : (s.setFunc k x).softRow = s.softRow := rfl
@[simp] theorem setFunc_softUsed (k : Nat) (x : Func) : (s.setFunc k x).softUsed = s.softUsed := rfl
@[simp] theorem setFunc_pclrPa (k : Nat) (x : Func) : (s.setFunc k x).pclrPa = s.pclrPa := rfl
@[simp] theorem setFunc_plimit (k : Nat) (x : Func) : (s.setFunc k x).plimit = s.plimit := rfl
@[simp] theorem setFunc_throttled (k : Nat) (x : Func) : (s.setFunc k x).throttled = s.throttled := rfl
@[simp] theorem setFunc_attStatus (k : Nat) (x : Func) : (s.setFunc k x).attStatus = s.attStatus := rfl
@[simp] theorem setFunc_attAddr (k : Nat) (x : Func) : (s.setFunc k x).attAddr = s.attAddr := rfl
@[simp] theorem setFunc_attBuf (k : Nat) (x : Func) : (s.setFunc k x).attBuf = s.attBuf := rfl
@[simp] theorem setFunc_attDigest (k : Nat) (x : Func) : (s.setFunc k x).attDigest = s.attDigest := rfl
@[simp] theorem setFunc_rollback (k : Nat) (x : Func) : (s.setFunc k x).rollback = s.rollback := rfl
@[simp] theorem setFunc_firmware (k : Nat) (x : Func) : (s.setFunc k x).firmware = s.firmware := rfl
@[simp] theorem setFunc_fwVersion (k : Nat) (x : Func) : (s.setFunc k x).fwVersion = s.fwVersion := rfl
@[simp] theorem setFunc_fwake (k : Nat) (x : Func) : (s.setFunc k x).fwake = s.fwake := rfl
@[simp] theorem setFunc_selfRefresh (k : Nat) (x : Func) : (s.setFunc k x).selfRefresh = s.selfRefresh := rfl
@[simp] theorem setFunc_resets (k : Nat) (x : Func) : (s.setFunc k x).resets = s.resets := rfl

-- setPart.

@[simp] theorem setPart_agenda (k : Nat) (x : Part) : (s.setPart k x).agenda = s.agenda := rfl
@[simp] theorem setPart_cur (k : Nat) (x : Part) : (s.setPart k x).cur = s.cur := rfl
@[simp] theorem setPart_upset (k : Nat) (x : Part) : (s.setPart k x).upset = s.upset := rfl
@[simp] theorem setPart_later (k : Nat) (x : Part) : (s.setPart k x).later = s.later := rfl
@[simp] theorem setPart_rank (k : Nat) (x : Part) : (s.setPart k x).rank = s.rank := rfl
@[simp] theorem setPart_fresh (k : Nat) (x : Part) : (s.setPart k x).fresh = s.fresh := rfl
@[simp] theorem setPart_nextUid (k : Nat) (x : Part) : (s.setPart k x).nextUid = s.nextUid := rfl
@[simp] theorem setPart_nextTag (k : Nat) (x : Part) : (s.setPart k x).nextTag = s.nextTag := rfl
@[simp] theorem setPart_nextSeq (k : Nat) (x : Part) : (s.setPart k x).nextSeq = s.nextSeq := rfl
@[simp] theorem setPart_clock (k : Nat) (x : Part) : (s.setPart k x).clock = s.clock := rfl
@[simp] theorem setPart_refilled (k : Nat) (x : Part) : (s.setPart k x).refilled = s.refilled := rfl
@[simp] theorem setPart_boot (k : Nat) (x : Part) : (s.setPart k x).boot = s.boot := rfl
@[simp] theorem setPart_mem (k : Nat) (x : Part) : (s.setPart k x).mem = s.mem := rfl
@[simp] theorem setPart_home (k : Nat) (x : Part) : (s.setPart k x).home = s.home := rfl
@[simp] theorem setPart_dir (k : Nat) (x : Part) : (s.setPart k x).dir = s.dir := rfl
@[simp] theorem setPart_hostHeld (k : Nat) (x : Part) : (s.setPart k x).hostHeld = s.hostHeld := rfl
@[simp] theorem setPart_poison (k : Nat) (x : Part) : (s.setPart k x).poison = s.poison := rfl
@[simp] theorem setPart_poisonLines (k : Nat) (x : Part) : (s.setPart k x).poisonLines = s.poisonLines := rfl
@[simp] theorem setPart_secKey (k : Nat) (x : Part) : (s.setPart k x).secKey = s.secKey := rfl
@[simp] theorem setPart_lastW (k : Nat) (x : Part) : (s.setPart k x).lastW = s.lastW := rfl
@[simp] theorem setPart_follows (k : Nat) (x : Part) : (s.setPart k x).follows = s.follows := rfl
@[simp] theorem setPart_hostDirty (k : Nat) (x : Part) : (s.setPart k x).hostDirty = s.hostDirty := rfl
@[simp] theorem setPart_performed (k : Nat) (x : Part) : (s.setPart k x).performed = s.performed := rfl
@[simp] theorem setPart_sent (k : Nat) (x : Part) : (s.setPart k x).sent = s.sent := rfl
@[simp] theorem setPart_hostOwn (k : Nat) (x : Part) : (s.setPart k x).hostOwn = s.hostOwn := rfl
@[simp] theorem setPart_fabricOwn (k : Nat) (x : Part) : (s.setPart k x).fabricOwn = s.fabricOwn := rfl
@[simp] theorem setPart_hostView (k : Nat) (x : Part) : (s.setPart k x).hostView = s.hostView := rfl
@[simp] theorem setPart_tlbs (k : Nat) (x : Part) : (s.setPart k x).tlbs = s.tlbs := rfl
@[simp] theorem setPart_invals (k : Nat) (x : Part) : (s.setPart k x).invals = s.invals := rfl
@[simp] theorem setPart_faults (k : Nat) (x : Part) : (s.setPart k x).faults = s.faults := rfl
@[simp] theorem setPart_engineOps (k : Nat) (x : Part) : (s.setPart k x).engineOps = s.engineOps := rfl
@[simp] theorem setPart_topks (k : Nat) (x : Part) : (s.setPart k x).topks = s.topks := rfl
@[simp] theorem setPart_irqs (k : Nat) (x : Part) : (s.setPart k x).irqs = s.irqs := rfl
@[simp] theorem setPart_reports (k : Nat) (x : Part) : (s.setPart k x).reports = s.reports := rfl
@[simp] theorem setPart_hostData (k : Nat) (x : Part) : (s.setPart k x).hostData = s.hostData := rfl
@[simp] theorem setPart_hostPoisoned (k : Nat) (x : Part) : (s.setPart k x).hostPoisoned = s.hostPoisoned := rfl
@[simp] theorem setPart_fabricOut (k : Nat) (x : Part) : (s.setPart k x).fabricOut = s.fabricOut := rfl
@[simp] theorem setPart_doeOut (k : Nat) (x : Part) : (s.setPart k x).doeOut = s.doeOut := rfl
@[simp] theorem setPart_loads (k : Nat) (x : Part) : (s.setPart k x).loads = s.loads := rfl
@[simp] theorem setPart_dies (k : Nat) (x : Part) : (s.setPart k x).dies = s.dies := rfl
@[simp] theorem setPart_cores (k : Nat) (x : Part) : (s.setPart k x).cores = s.cores := rfl
@[simp] theorem setPart_clusters (k : Nat) (x : Part) : (s.setPart k x).clusters = s.clusters := rfl
@[simp] theorem setPart_groups (k : Nat) (x : Part) : (s.setPart k x).groups = s.groups := rfl
@[simp] theorem setPart_ctxs (k : Nat) (x : Part) : (s.setPart k x).ctxs = s.ctxs := rfl
@[simp] theorem setPart_units (k : Nat) (x : Part) : (s.setPart k x).units = s.units := rfl
@[simp] theorem setPart_funcs (k : Nat) (x : Part) : (s.setPart k x).funcs = s.funcs := rfl
@[simp] theorem setPart_fcfg (k : Nat) (x : Part) : (s.setPart k x).fcfg = s.fcfg := rfl
@[simp] theorem setPart_pfebRef (k : Nat) (x : Part) : (s.setPart k x).pfebRef = s.pfebRef := rfl
@[simp] theorem setPart_pfebCap (k : Nat) (x : Part) : (s.setPart k x).pfebCap = s.pfebCap := rfl
@[simp] theorem setPart_psplit (k : Nat) (x : Part) : (s.setPart k x).psplit = s.psplit := rfl
@[simp] theorem setPart_route (k : Nat) (x : Part) : (s.setPart k x).route = s.route := rfl
@[simp] theorem setPart_keysel (k : Nat) (x : Part) : (s.setPart k x).keysel = s.keysel := rfl
@[simp] theorem setPart_keydata (k : Nat) (x : Part) : (s.setPart k x).keydata = s.keydata := rfl
@[simp] theorem setPart_keys (k : Nat) (x : Part) : (s.setPart k x).keys = s.keys := rfl
@[simp] theorem setPart_repairStatus (k : Nat) (x : Part) : (s.setPart k x).repairStatus = s.repairStatus := rfl
@[simp] theorem setPart_repairReg (k : Nat) (x : Part) : (s.setPart k x).repairReg = s.repairReg := rfl
@[simp] theorem setPart_repairMap (k : Nat) (x : Part) : (s.setPart k x).repairMap = s.repairMap := rfl
@[simp] theorem setPart_softRow (k : Nat) (x : Part) : (s.setPart k x).softRow = s.softRow := rfl
@[simp] theorem setPart_softUsed (k : Nat) (x : Part) : (s.setPart k x).softUsed = s.softUsed := rfl
@[simp] theorem setPart_pclrPa (k : Nat) (x : Part) : (s.setPart k x).pclrPa = s.pclrPa := rfl
@[simp] theorem setPart_plimit (k : Nat) (x : Part) : (s.setPart k x).plimit = s.plimit := rfl
@[simp] theorem setPart_throttled (k : Nat) (x : Part) : (s.setPart k x).throttled = s.throttled := rfl
@[simp] theorem setPart_attStatus (k : Nat) (x : Part) : (s.setPart k x).attStatus = s.attStatus := rfl
@[simp] theorem setPart_attAddr (k : Nat) (x : Part) : (s.setPart k x).attAddr = s.attAddr := rfl
@[simp] theorem setPart_attBuf (k : Nat) (x : Part) : (s.setPart k x).attBuf = s.attBuf := rfl
@[simp] theorem setPart_attDigest (k : Nat) (x : Part) : (s.setPart k x).attDigest = s.attDigest := rfl
@[simp] theorem setPart_rollback (k : Nat) (x : Part) : (s.setPart k x).rollback = s.rollback := rfl
@[simp] theorem setPart_firmware (k : Nat) (x : Part) : (s.setPart k x).firmware = s.firmware := rfl
@[simp] theorem setPart_fwVersion (k : Nat) (x : Part) : (s.setPart k x).fwVersion = s.fwVersion := rfl
@[simp] theorem setPart_fwake (k : Nat) (x : Part) : (s.setPart k x).fwake = s.fwake := rfl
@[simp] theorem setPart_selfRefresh (k : Nat) (x : Part) : (s.setPart k x).selfRefresh = s.selfRefresh := rfl
@[simp] theorem setPart_resets (k : Nat) (x : Part) : (s.setPart k x).resets = s.resets := rfl

-- Readers after writers.

@[simp] theorem core_setCore (k n : Nat) (x : CoreSt) : (s.setCore k x).core n = if n = k then x else s.core n :=
  NatMap.get_set _ _ _ _ _
@[simp] theorem cluster_setCluster (k n : Nat) (x : ClusterSt) : (s.setCluster k x).cluster n = if n = k then x else s.cluster n :=
  NatMap.get_set _ _ _ _ _
@[simp] theorem die_setDie (k n : Nat) (x : DieSt) : (s.setDie k x).die n = if n = k then x else s.die n :=
  NatMap.get_set _ _ _ _ _
@[simp] theorem unit_setUnit (k n : Nat) (x : Option Unit_) : (s.setUnit k x).unit? n = if n = k then x else s.unit? n :=
  NatMap.get_set _ _ _ _ _
@[simp] theorem func_setFunc (k n : Nat) (x : Func) : (s.setFunc k x).func n = if n = k then x else s.func n :=
  NatMap.get_set _ _ _ _ _
@[simp] theorem part_setPart (k n : Nat) (x : Part) : (s.setPart k x).part n = if n = k then x else s.part n :=
  NatMap.get_set _ _ _ _ _
@[simp] theorem group_setGroup_same (k n : Nat) (x : Option Group) : (s.setGroup k n x).group? k n = x :=
  NatMap.get_set_same _ _ _ _
@[simp] theorem ctx_setCtx_same (k n : Nat) (x : Option Ctx) : (s.setCtx k n x).ctx? k n = x :=
  NatMap.get_set_same _ _ _ _

@[simp] theorem setGroup_setGroup (k n : Nat) (x y : Option Group) : (s.setGroup k n x).setGroup k n y = s.setGroup k n y := by
  simp [setGroup]
@[simp] theorem setUnit_setUnit (k : Nat) (x y : Option Unit_) : (s.setUnit k x).setUnit k y = s.setUnit k y := by simp [setUnit]
@[simp] theorem setCtx_setCtx (k n : Nat) (x y : Option Ctx) : (s.setCtx k n x).setCtx k n y = s.setCtx k n y := by simp [setCtx]
@[simp] theorem setFunc_setFunc (k : Nat) (x y : Func) : (s.setFunc k x).setFunc k y = s.setFunc k y := by simp [setFunc]

-- Readers that a writer of another table leaves alone.

@[simp] theorem cluster_setCore (k : Nat) (x : CoreSt) (n : Nat) : (s.setCore k x).cluster n = s.cluster n := rfl
@[simp] theorem die_setCore (k : Nat) (x : CoreSt) (n : Nat) : (s.setCore k x).die n = s.die n := rfl
@[simp] theorem group_setCore (k : Nat) (x : CoreSt) (n m : Nat) : (s.setCore k x).group? n m = s.group? n m := rfl
@[simp] theorem ctx_setCore (k : Nat) (x : CoreSt) (n m : Nat) : (s.setCore k x).ctx? n m = s.ctx? n m := rfl
@[simp] theorem unit_setCore (k : Nat) (x : CoreSt) (n : Nat) : (s.setCore k x).unit? n = s.unit? n := rfl
@[simp] theorem func_setCore (k : Nat) (x : CoreSt) (n : Nat) : (s.setCore k x).func n = s.func n := rfl
@[simp] theorem part_setCore (k : Nat) (x : CoreSt) (n : Nat) : (s.setCore k x).part n = s.part n := rfl
@[simp] theorem fcfgOf_setCore (k : Nat) (x : CoreSt) (n : Nat) : (s.setCore k x).fcfgOf n = s.fcfgOf n := rfl
@[simp] theorem core_setCluster (k : Nat) (x : ClusterSt) (n : Nat) : (s.setCluster k x).core n = s.core n := rfl
@[simp] theorem die_setCluster (k : Nat) (x : ClusterSt) (n : Nat) : (s.setCluster k x).die n = s.die n := rfl
@[simp] theorem group_setCluster (k : Nat) (x : ClusterSt) (n m : Nat) : (s.setCluster k x).group? n m = s.group? n m := rfl
@[simp] theorem ctx_setCluster (k : Nat) (x : ClusterSt) (n m : Nat) : (s.setCluster k x).ctx? n m = s.ctx? n m := rfl
@[simp] theorem unit_setCluster (k : Nat) (x : ClusterSt) (n : Nat) : (s.setCluster k x).unit? n = s.unit? n := rfl
@[simp] theorem func_setCluster (k : Nat) (x : ClusterSt) (n : Nat) : (s.setCluster k x).func n = s.func n := rfl
@[simp] theorem part_setCluster (k : Nat) (x : ClusterSt) (n : Nat) : (s.setCluster k x).part n = s.part n := rfl
@[simp] theorem fcfgOf_setCluster (k : Nat) (x : ClusterSt) (n : Nat) : (s.setCluster k x).fcfgOf n = s.fcfgOf n := rfl
@[simp] theorem core_setDie (k : Nat) (x : DieSt) (n : Nat) : (s.setDie k x).core n = s.core n := rfl
@[simp] theorem cluster_setDie (k : Nat) (x : DieSt) (n : Nat) : (s.setDie k x).cluster n = s.cluster n := rfl
@[simp] theorem group_setDie (k : Nat) (x : DieSt) (n m : Nat) : (s.setDie k x).group? n m = s.group? n m := rfl
@[simp] theorem ctx_setDie (k : Nat) (x : DieSt) (n m : Nat) : (s.setDie k x).ctx? n m = s.ctx? n m := rfl
@[simp] theorem unit_setDie (k : Nat) (x : DieSt) (n : Nat) : (s.setDie k x).unit? n = s.unit? n := rfl
@[simp] theorem func_setDie (k : Nat) (x : DieSt) (n : Nat) : (s.setDie k x).func n = s.func n := rfl
@[simp] theorem part_setDie (k : Nat) (x : DieSt) (n : Nat) : (s.setDie k x).part n = s.part n := rfl
@[simp] theorem fcfgOf_setDie (k : Nat) (x : DieSt) (n : Nat) : (s.setDie k x).fcfgOf n = s.fcfgOf n := rfl
@[simp] theorem core_setGroup (k j : Nat) (x : Option Group) (n : Nat) : (s.setGroup k j x).core n = s.core n := rfl
@[simp] theorem cluster_setGroup (k j : Nat) (x : Option Group) (n : Nat) : (s.setGroup k j x).cluster n = s.cluster n := rfl
@[simp] theorem die_setGroup (k j : Nat) (x : Option Group) (n : Nat) : (s.setGroup k j x).die n = s.die n := rfl
@[simp] theorem ctx_setGroup (k j : Nat) (x : Option Group) (n m : Nat) : (s.setGroup k j x).ctx? n m = s.ctx? n m := rfl
@[simp] theorem unit_setGroup (k j : Nat) (x : Option Group) (n : Nat) : (s.setGroup k j x).unit? n = s.unit? n := rfl
@[simp] theorem func_setGroup (k j : Nat) (x : Option Group) (n : Nat) : (s.setGroup k j x).func n = s.func n := rfl
@[simp] theorem part_setGroup (k j : Nat) (x : Option Group) (n : Nat) : (s.setGroup k j x).part n = s.part n := rfl
@[simp] theorem fcfgOf_setGroup (k j : Nat) (x : Option Group) (n : Nat) : (s.setGroup k j x).fcfgOf n = s.fcfgOf n := rfl
@[simp] theorem core_setCtx (k j : Nat) (x : Option Ctx) (n : Nat) : (s.setCtx k j x).core n = s.core n := rfl
@[simp] theorem cluster_setCtx (k j : Nat) (x : Option Ctx) (n : Nat) : (s.setCtx k j x).cluster n = s.cluster n := rfl
@[simp] theorem die_setCtx (k j : Nat) (x : Option Ctx) (n : Nat) : (s.setCtx k j x).die n = s.die n := rfl
@[simp] theorem group_setCtx (k j : Nat) (x : Option Ctx) (n m : Nat) : (s.setCtx k j x).group? n m = s.group? n m := rfl
@[simp] theorem unit_setCtx (k j : Nat) (x : Option Ctx) (n : Nat) : (s.setCtx k j x).unit? n = s.unit? n := rfl
@[simp] theorem func_setCtx (k j : Nat) (x : Option Ctx) (n : Nat) : (s.setCtx k j x).func n = s.func n := rfl
@[simp] theorem part_setCtx (k j : Nat) (x : Option Ctx) (n : Nat) : (s.setCtx k j x).part n = s.part n := rfl
@[simp] theorem fcfgOf_setCtx (k j : Nat) (x : Option Ctx) (n : Nat) : (s.setCtx k j x).fcfgOf n = s.fcfgOf n := rfl
@[simp] theorem core_setUnit (k : Nat) (x : Option Unit_) (n : Nat) : (s.setUnit k x).core n = s.core n := rfl
@[simp] theorem cluster_setUnit (k : Nat) (x : Option Unit_) (n : Nat) : (s.setUnit k x).cluster n = s.cluster n := rfl
@[simp] theorem die_setUnit (k : Nat) (x : Option Unit_) (n : Nat) : (s.setUnit k x).die n = s.die n := rfl
@[simp] theorem group_setUnit (k : Nat) (x : Option Unit_) (n m : Nat) : (s.setUnit k x).group? n m = s.group? n m := rfl
@[simp] theorem ctx_setUnit (k : Nat) (x : Option Unit_) (n m : Nat) : (s.setUnit k x).ctx? n m = s.ctx? n m := rfl
@[simp] theorem func_setUnit (k : Nat) (x : Option Unit_) (n : Nat) : (s.setUnit k x).func n = s.func n := rfl
@[simp] theorem part_setUnit (k : Nat) (x : Option Unit_) (n : Nat) : (s.setUnit k x).part n = s.part n := rfl
@[simp] theorem fcfgOf_setUnit (k : Nat) (x : Option Unit_) (n : Nat) : (s.setUnit k x).fcfgOf n = s.fcfgOf n := rfl
@[simp] theorem core_setFunc (k : Nat) (x : Func) (n : Nat) : (s.setFunc k x).core n = s.core n := rfl
@[simp] theorem cluster_setFunc (k : Nat) (x : Func) (n : Nat) : (s.setFunc k x).cluster n = s.cluster n := rfl
@[simp] theorem die_setFunc (k : Nat) (x : Func) (n : Nat) : (s.setFunc k x).die n = s.die n := rfl
@[simp] theorem group_setFunc (k : Nat) (x : Func) (n m : Nat) : (s.setFunc k x).group? n m = s.group? n m := rfl
@[simp] theorem ctx_setFunc (k : Nat) (x : Func) (n m : Nat) : (s.setFunc k x).ctx? n m = s.ctx? n m := rfl
@[simp] theorem unit_setFunc (k : Nat) (x : Func) (n : Nat) : (s.setFunc k x).unit? n = s.unit? n := rfl
@[simp] theorem part_setFunc (k : Nat) (x : Func) (n : Nat) : (s.setFunc k x).part n = s.part n := rfl
@[simp] theorem fcfgOf_setFunc (k : Nat) (x : Func) (n : Nat) : (s.setFunc k x).fcfgOf n = s.fcfgOf n := rfl
@[simp] theorem core_setPart (k : Nat) (x : Part) (n : Nat) : (s.setPart k x).core n = s.core n := rfl
@[simp] theorem cluster_setPart (k : Nat) (x : Part) (n : Nat) : (s.setPart k x).cluster n = s.cluster n := rfl
@[simp] theorem die_setPart (k : Nat) (x : Part) (n : Nat) : (s.setPart k x).die n = s.die n := rfl
@[simp] theorem group_setPart (k : Nat) (x : Part) (n m : Nat) : (s.setPart k x).group? n m = s.group? n m := rfl
@[simp] theorem ctx_setPart (k : Nat) (x : Part) (n m : Nat) : (s.setPart k x).ctx? n m = s.ctx? n m := rfl
@[simp] theorem unit_setPart (k : Nat) (x : Part) (n : Nat) : (s.setPart k x).unit? n = s.unit? n := rfl
@[simp] theorem func_setPart (k : Nat) (x : Part) (n : Nat) : (s.setPart k x).func n = s.func n := rfl
@[simp] theorem fcfgOf_setPart (k : Nat) (x : Part) (n : Nat) : (s.setPart k x).fcfgOf n = s.fcfgOf n := rfl

-- Changes of a unit, a context, a group.

theorem modUnit_some {uid : Nat} {u : Unit_} (h : s.unit? uid = some u) (f : Unit_ → Unit_) :
    s.modUnit uid f = s.setUnit uid (some (f u)) := by simp [modUnit, h]
theorem modCtx_some {k n : Nat} {x : Ctx} (h : s.ctx? k n = some x) (f : Ctx → Ctx) :
    s.modCtx k n f = s.setCtx k n (some (f x)) := by simp [modCtx, h]
theorem modGroup_some {k n : Nat} {g : Group} (h : s.group? k n = some g) (f : Group → Group) :
    s.modGroup k n f = s.setGroup k n (some (f g)) := by simp [modGroup, h]

/-- A change of a unit touches the table of units alone. -/
theorem modUnit_frame (uid : Nat) (f : Unit_ → Unit_) : { s.modUnit uid f with units := s.units } = s := by
  unfold modUnit; split <;> rfl
theorem modCtx_frame (k n : Nat) (f : Ctx → Ctx) : { s.modCtx k n f with ctxs := s.ctxs } = s := by
  unfold modCtx; split <;> rfl
theorem modGroup_frame (k n : Nat) (f : Group → Group) : { s.modGroup k n f with groups := s.groups } = s := by
  unfold modGroup; split <;> rfl

theorem unit_modUnit (uid n : Nat) (f : Unit_ → Unit_) :
    (s.modUnit uid f).unit? n = if n = uid then (s.unit? n).map f else s.unit? n := by
  unfold modUnit
  split
  · rename_i u h
    by_cases e : n = uid
    · subst e; simp [h]
    · simp [e]
  · rename_i h
    by_cases e : n = uid
    · subst e; simp [h]
    · simp [e]

end Sys2Proof.Machine.State
end

