-- ==== Sys2Proof/Laws/Issue.lean ====
section
/-! SUPPORT. What the issue of a word does, once for every word: a word that issues undisturbed ends as its meaning says,
and a performed word leaves `frontAfter` and `unitAfter`. -/

namespace Sys2Proof.Laws

open Machine

/-- With no report waiting, the end of a step changes nothing. -/
theorem flushReports_quiet {s : State} (h : Reported s) : flushReports s = s := by
  have hr : s.reports = [] := h
  unfold flushReports
  rw [hr]
  simp only [List.foldl_nil]
  rw [← hr]

/-- Dropping an L1 touches the table of cores alone. -/
theorem tokenAcquire_frame (s : State) (u : Unit_) (i : Instr) : { tokenAcquire s u i with cores := s.cores } = s := by
  unfold tokenAcquire
  simp only
  split <;> rfl

theorem tokenAcquire_units (s : State) (u : Unit_) (i : Instr) : (tokenAcquire s u i).units = s.units := by
  have := congrArg State.units (tokenAcquire_frame s u i); simpa using this
theorem tokenAcquire_groups (s : State) (u : Unit_) (i : Instr) : (tokenAcquire s u i).groups = s.groups := by
  have := congrArg State.groups (tokenAcquire_frame s u i); simpa using this
theorem tokenAcquire_reports (s : State) (u : Unit_) (i : Instr) : (tokenAcquire s u i).reports = s.reports := by
  have := congrArg State.reports (tokenAcquire_frame s u i); simpa using this

/-- The capture keeps the word and its agent. -/
theorem capture_group {s : State} {k sl : Nat} {i : Instr} {w : BitVec 64} {fr : Front} {c : Cap}
    (h : capture s (.group k sl) i w fr = some c) : c.agent = .group k sl ∧ c.kind = .vector ∧ c.instr = i ∧ c.pc = fr.pc := by
  simp only [capture, Option.bind_eq_some_iff, Option.map_eq_some_iff] at h
  obtain ⟨g, -, u, -, rfl⟩ := h
  exact ⟨rfl, rfl, rfl, rfl⟩

theorem capture_quartz {s : State} {cl x : Nat} {i : Instr} {w : BitVec 64} {fr : Front} {c : Cap}
    (h : capture s (.quartz cl x) i w fr = some c) : c.agent = .quartz cl x ∧ c.kind = .quartz ∧ c.instr = i ∧ c.pc = fr.pc := by
  simp only [capture, Option.map_eq_some_iff] at h
  obtain ⟨q, -, rfl⟩ := h
  exact ⟨rfl, rfl, rfl, rfl⟩

section group

variable {i : Instr} {s : State} {k sl f l : Nat} {fr : Front} {c : Cap} {g : Group} {u : Unit_}

theorem uid_of_group (ha : c.agent = .group k sl) (hg : s.group? k sl = some g) : c.uid s = g.uid := by
  simp [Cap.uid, ha, hg]

theorem unitOf_group (hg : s.group? k sl = some g) (hu : s.unit? g.uid = some u) : unitOf s (.group k sl) = some u := by
  simp [unitOf, groupOf, hg, hu]

/-- A word of a group that issues undisturbed and touches neither region marks nor containment ends as its meaning says. -/
theorem issue_onGroup (h : OnGroup i s k sl f l fr c g u) (body : Cap → State → Res)
    (hm : clearsMark i = false) (he : endsContainment i = false) :
    issue i body s = finish s (.group k sl) c g.uid f (body c (tokenAcquire s u i)) := by
  obtain ⟨ha, hk, hi, -⟩ := capture_group h.operands
  have hf : fr.hold.isSome = false := by simp [h.free]
  unfold issue
  rw [h.turn]
  have hw : (mayStand i && !i.eBit && !fr.priv && (s.later || fr.unfinished != [])) = false := h.whole
  simp only [issueAs, h.front, h.launch, hf, h.runs, h.operands, h.ordered, h.checks, h.ready, hw, Bool.false_and, Bool.or_false,
    Bool.false_eq_true, if_false, uid_of_group ha h.group]
  congr 1
  unfold perform
  rw [ha]
  simp only [unitOf_group h.group h.unit, hi, h.nested, h.agrees, hm, he, Bool.or_false, Bool.false_and, Bool.false_eq_true,
    if_false, ne_eq, not_true]

/-- What a performed word leaves: `s1` is the state that its meaning leaves. -/
theorem advance_group {s1 : State} {g1 : Group} {u1 : Unit_}
    (hg : s1.group? k sl = some g1) (hu : s1.unit? g1.uid = some u1) (hfr : g1.front = fr) (hs : u1.stopping = false) :
    advance s1 (.group k sl) c g1.uid =
      (s1.setGroup k sl (some { g1 with front := frontAfter fr c })).setUnit g1.uid (some (unitAfter u1 c)) ∨
    (c.instr.eBit = false ∧
      advance s1 (.group k sl) c g1.uid = s1.setGroup k sl (some { g1 with front := frontAfter fr c })) := by
  by_cases e : c.instr.eBit <;>
    simp [advance, modFront, frontOf, setFront, State.modGroup_some, hg, hfr, e, endRun, countRun, boundary, frontAfter,
      State.modUnit_some, hu, unitAfter, hs]

end group

end Sys2Proof.Laws
end

