-- ==== Sys2Proof/Laws/Memory.lean ====
section
/-! SUPPORT. Every operation over memory and the homes keeps the canonical form of their bytes, and what a read of one byte
answers after a write of memory. -/

namespace Sys2Proof

open Sys2Proof.Machine

/-- Only the two byte tables matter. -/
theorem MemInv.of_eq {s t : State} (h : MemInv s) (hm : t.mem = s.mem) (hh : t.home = s.home) : MemInv t := by
  simpa [MemInv, hm, hh] using h

theorem MemInv.set_mem {s : State} (h : MemInv s) (a : Nat) (l : List Byte) :
    MemInv { s with mem := NatMap.setRange 0 s.mem a l } := ⟨NatMap.wf_setRange 0 l _ _ h.1, h.2⟩

theorem MemInv.set_home {s : State} (h : MemInv s) (a : Nat) (l : List Byte) :
    MemInv { s with home := NatMap.setRange 0 s.home a l } := ⟨h.1, NatMap.wf_setRange 0 l _ _ h.2⟩

theorem MemInv.clear_home {s : State} (h : MemInv s) (a b : Nat) :
    MemInv { s with home := NatMap.clearRange s.home a b } := ⟨h.1, NatMap.wf_clearRange 0 _ _ _ h.2⟩

/-- A fold of operations that each keep the form keeps it. -/
theorem foldl_memInv {α : Type} (f : State → α → State) (hf : ∀ st x, MemInv st → MemInv (f st x)) (l : List α) :
    ∀ s, MemInv s → MemInv (l.foldl f s) := by
  induction l with
  | nil => intro s h; exact h
  | cons x r ih => intro s h; exact ih _ (hf s x h)

theorem reset_memInv : MemInv State.reset := ⟨rfl, rfl⟩

theorem memInv_setDir {s : State} (sec : Nat) (e : DirEntry) (h : MemInv s) : MemInv (setDir s sec e) := h.of_eq rfl rfl

theorem memInv_modDie {s : State} (k : Nat) (g : DieSt → DieSt) (h : MemInv s) : MemInv (s.modDie k g) := h.of_eq rfl rfl

theorem memInv_modCore {s : State} (k : Nat) (g : CoreSt → CoreSt) (h : MemInv s) : MemInv (s.modCore k g) := h.of_eq rfl rfl

theorem memInv_setCollector {s : State} (d sec : Nat) (p : Option Collector) (h : MemInv s) : MemInv (setCollector s d sec p) :=
  h.of_eq rfl rfl

theorem memInv_setPartial {s : State} (c sec : Nat) (p : Option Partial) (h : MemInv s) : MemInv (setPartial s c sec p) :=
  h.of_eq rfl rfl

theorem memInv_fillHome {s : State} (sec : Nat) (h : MemInv s) : MemInv (fillHome s sec) := by
  unfold fillHome
  split
  · exact memInv_setDir _ _ (h.set_home _ _)
  · exact h

theorem memInv_setPerformed {s : State} (l : List PWrite) (h : MemInv s) : MemInv (setPerformed s l) := h.of_eq rfl rfl

theorem memInv_strikeSector {s : State} (k sec : Nat) (h : MemInv s) : MemInv (strikeSector s k sec) := h.of_eq rfl rfl

theorem memInv_markDirty {s : State} (a n : Nat) (h : MemInv s) : MemInv (markDirty s a n) := by
  unfold markDirty
  split
  · exact h.of_eq rfl rfl
  · exact h

theorem memInv_writeMem {s : State} (sec : Nat) (h : MemInv s) : MemInv (writeMem s sec) := by
  unfold writeMem
  split
  · refine foldl_memInv _ ?_ _ s h
    intro st i hs
    dsimp only
    split
    · exact ⟨NatMap.wf_set 0 _ _ _ hs.1, hs.2⟩
    · exact hs
  · exact h.set_mem _ _

theorem memInv_rekey {s : State} (sec key : Nat) (h : MemInv s) : MemInv (rekey s sec key) := by
  unfold rekey
  split
  · exact h
  · split
    · exact h
    · dsimp only
      generalize recrypt _ _ sec _ = bytes
      split
      · exact h
      · split
        · exact h.of_eq rfl rfl
        · split
          · exact (h.set_mem (64 * sec) bytes).of_eq rfl rfl
          · exact (h.set_home (64 * sec) bytes).of_eq rfl rfl

theorem memInv_dropPartials {s : State} (sec : Nat) (e : DirEntry) (k : Nat) (h : MemInv s) : MemInv (dropPartials s sec e k) := by
  unfold dropPartials
  exact memInv_setCollector k sec none
    (foldl_memInv (fun st c => setPartial st c sec none) (fun _ _ hs => memInv_setPartial _ _ _ hs) _ s h)

theorem memInv_combineBase {s : State} (sec : Nat) (d : Option Partial) (h : MemInv s) : MemInv (combineBase s sec d) := by
  unfold combineBase
  split
  · exact h
  · rename_i p
    dsimp only
    generalize hst : List.foldl _ s p.els = st
    have h1 : MemInv st := by
      rw [← hst]
      refine foldl_memInv _ ?_ _ s h
      intro st x hs
      split
      · exact hs
      · exact memInv_markDirty _ _ (hs.set_home _ _)
    exact h1.of_eq rfl rfl

theorem memInv_dropHostLine {s : State} (line : Nat) (h : MemInv s) : MemInv (dropHostLine s line) := by
  refine foldl_memInv _ ?_ _ s h
  intro st i hs
  dsimp only
  split
  · exact memInv_setDir _ _ ((memInv_strikeSector 4 (4 * line + i) hs).of_eq rfl rfl)
  · exact hs

theorem memInv_dropCopy {s : State} (k sec : Nat) (h : MemInv s) : MemInv (dropCopy s k sec) := by
  unfold dropCopy
  split
  · exact memInv_modDie _ _ h
  · exact h

/-- The drop of every copy, a fold of which invalidateCopies is. -/
theorem memInv_dropHolds {s : State} (sec : Nat) (l : List Nat) (h : MemInv s) : MemInv (l.foldl (fun st k => dropCopy st k sec) s) :=
  foldl_memInv _ (fun _ _ hs => memInv_dropCopy _ _ hs) _ _ h

theorem memInv_invalidateCopies {s : State} (sec : Nat) (h : MemInv s) : MemInv (invalidateCopies s sec) := by
  have h1 := memInv_dropHolds sec (List.range 4) h
  unfold invalidateCopies
  generalize List.foldl _ s (List.range 4) = st at *
  have h2 := memInv_setPerformed (st.performed.filter (fun w => secOf w.pa != sec)) h1
  dsimp only
  split
  · exact memInv_dropHostLine _ h2
  · exact h2

theorem memInv_dropL1Sec {s : State} (core sec : Nat) (h : MemInv s) : MemInv (dropL1Sec s core sec) := by
  unfold dropL1Sec
  exact memInv_modCore _ _ h

theorem memInv_dropL1Secs (sec : Nat) (l : List Nat) : ∀ s : State, MemInv s → MemInv (l.foldl (fun st c => dropL1Sec st c sec) s) := by
  induction l with
  | nil => intro s h; exact h
  | cons c r ih => intro s h; exact ih _ (memInv_dropL1Sec _ _ h)

theorem memInv_forgetPartials {s : State} (sec : Nat) (h : MemInv s) : MemInv (forgetPartials s sec) := by
  unfold forgetPartials
  generalize h1 : List.foldl _ s s.coreKeys = s1
  have m1 : MemInv s1 := by
    rw [← h1]
    refine foldl_memInv _ ?_ _ s h
    intro st c hs
    split
    · exact memInv_setPartial _ _ _ hs
    · exact hs
  dsimp only
  generalize h2 : List.foldl _ s1 (List.range 4) = s2
  have m2 : MemInv s2 := by
    rw [← h2]
    refine foldl_memInv _ ?_ _ s1 m1
    intro st d hs
    split
    · exact memInv_setCollector d sec none hs
    · exact hs
  exact m2

theorem memInv_markSector {s : State} (sec : Nat) (h : MemInv s) : MemInv (markSector s sec) := h.of_eq rfl rfl

theorem memInv_poisonSector {s : State} (sec : Nat) (h : MemInv s) : MemInv (poisonSector s sec) := by
  have h1 := memInv_invalidateCopies sec (memInv_forgetPartials sec h)
  unfold poisonSector
  generalize invalidateCopies (forgetPartials s sec) sec = s1 at *
  exact memInv_markSector _ (memInv_setDir _ _ (memInv_fillHome sec (memInv_dropL1Secs sec s1.coreKeys s1 h1)))

theorem memInv_poisonLine {s : State} (line : Nat) (h : MemInv s) : MemInv (poisonLine poisonSector s line) := by
  have h1 := foldl_memInv (fun st i => poisonSector st (4 * line + i)) (fun _ _ hs => memInv_poisonSector _ hs) (List.range 4) s h
  unfold poisonLine
  generalize List.foldl _ s (List.range 4) = s1 at *
  exact h1.of_eq rfl rfl

theorem memInv_report {s : State} (r : Report) (h : MemInv s) : MemInv (s.report r) := h.of_eq rfl rfl

theorem memInv_merge {s : State} (sec : Nat) (h : MemInv s) : MemInv (merge s sec) := by
  unfold merge
  simp only
  split
  · split
    · exact memInv_report _ (memInv_poisonLine _ h)
    · exact memInv_setDir _ _ (foldl_memInv _ (fun _ _ hs => memInv_combineBase _ _ hs) _ _
        (foldl_memInv _ (fun _ _ hs => memInv_dropPartials _ _ _ hs) _ _ h))
  · exact h

theorem memInv_strike {s : State} (k id : Nat) (h : MemInv s) : MemInv (strike s k id) := h.of_eq rfl rfl

theorem memInv_applyOne {s : State} (k : Nat) (w : PWrite) (h : MemInv s) : MemInv (applyOne k s w) := by
  unfold applyOne
  apply memInv_strike
  split
  · split
    · exact h.of_eq rfl rfl
    · exact h
  · split
    · exact memInv_modDie _ _ h
    · exact h

theorem memInv_catchUp {s : State} (k : Nat) (ids : List Nat) (h : MemInv s) : MemInv (catchUp s k ids) :=
  foldl_memInv _ (fun _ _ hs => memInv_applyOne _ _ hs) _ _ h

theorem memInv_catchUpAll {s : State} (ids : List Nat) (h : MemInv s) : MemInv (catchUpAll s ids) :=
  foldl_memInv _ (fun _ _ hs => memInv_catchUp _ _ hs) _ _ h

theorem memInv_homeDropLine {s : State} (line : Nat) (h : MemInv s) : MemInv (homeDropLine s line) := by
  unfold homeDropLine
  refine foldl_memInv _ ?_ _ s h
  intro st i hs
  have h1 := memInv_invalidateCopies (4 * line + i) (memInv_merge (4 * line + i) hs)
  dsimp only
  split
  · exact h1
  · refine memInv_setDir _ _ ?_
    split
    · exact (memInv_writeMem _ h1).clear_home _ _
    · exact h1.clear_home _ _

theorem memInv_evictLine {s : State} (d line : Nat) (h : MemInv s) : MemInv (evictLine s d line) := by
  unfold evictLine
  dsimp only
  split
  · exact memInv_homeDropLine _ (memInv_modDie _ _ h)
  · exact foldl_memInv _ (fun _ _ hs => memInv_dropCopy _ _ hs) _ _ (memInv_modDie _ _ h)

theorem memInv_occupy {s : State} (d f line : Nat) (h : MemInv s) : MemInv (occupy s d f line) := by
  unfold occupy
  dsimp only
  split
  · exact memInv_modDie _ _ h
  · refine memInv_modDie _ _ ?_
    split
    · split
      · exact memInv_evictLine _ _ h
      · exact h
    · exact h

theorem memInv_readReq {s : State} (sec : Nat) (who : Option Nat) (h : MemInv s) : MemInv (readReq s sec who) := by
  have h1 := memInv_fillHome sec (memInv_merge sec h)
  unfold readReq
  dsimp only
  split
  · exact h1
  · split <;> exact memInv_setDir _ _ h1

theorem memInv_performWrite {s : State} (pa key : Nat) (data : List Byte) (preds : List Nat) (h : MemInv s) :
    MemInv (performWrite s pa key data preds).2 := by
  have h1 := memInv_rekey (secOf pa) key (memInv_fillHome (secOf pa) (memInv_merge (secOf pa) h))
  unfold performWrite
  dsimp only
  generalize rekey (fillHome (merge s (secOf pa)) (secOf pa)) (secOf pa) key = s1 at *
  split
  · exact (h.set_mem pa data).of_eq rfl rfl
  · exact memInv_setDir _ _ ((memInv_markDirty pa data.length (h1.set_home pa data)).of_eq rfl rfl)

theorem memInv_homeRead {s : State} (pa n key : Nat) (h : MemInv s) : MemInv (homeRead s pa n key).2 := by
  unfold homeRead
  split
  · exact h
  · exact memInv_rekey _ _ (memInv_fillHome _ (memInv_merge _ h))

theorem memInv_cleanReq {s : State} (pa : Nat) (system : Bool) (h : MemInv s) : MemInv (cleanReq s pa system) := by
  have h1 := memInv_merge (secOf pa) h
  unfold cleanReq
  dsimp only
  generalize merge s (secOf pa) = s1 at *
  split
  · exact h
  · split
    · exact h1
    · cases (dirOf s1 (secOf pa)).st <;> dsimp only
      · exact h1
      · exact h1
      · exact memInv_setDir _ _ (memInv_writeMem _ h1)
      · split
        · exact memInv_setDir _ _ (memInv_writeMem _ h1)
        · exact h1
      · exact h1

theorem memInv_throughSec {s : State} (sec : Nat) (h : MemInv s) : MemInv (throughSec s sec) := by
  have h1 := memInv_writeMem sec h
  unfold throughSec
  dsimp only
  split
  · exact memInv_setDir _ _ h1
  · split
    · exact memInv_setDir _ _ h1
    · exact h
  · split
    · exact memInv_setDir _ _ h1
    · exact h
  · exact h

theorem memInv_writeThrough {s : State} (h : MemInv s) : MemInv (writeThrough s) := by
  unfold writeThrough
  split
  · exact h
  · exact foldl_memInv _ (fun _ _ hs => memInv_throughSec _ hs) _ _ h

theorem memInv_reportRelease {s : State} (h : MemInv s) : MemInv (reportRelease s) :=
  memInv_catchUp _ _ (memInv_writeThrough h)

theorem memInv_touchHome {s : State} (pa : Nat) (h : MemInv s) : MemInv (touchHome s pa) := by
  unfold touchHome
  dsimp only
  split
  · exact h
  · split
    · exact memInv_setDir _ _ h
    · exact memInv_setDir _ _ h
    · exact h

theorem memInv_collectorOut {s : State} (d sec : Nat) (h : MemInv s) : MemInv (collectorOut s d sec) := by
  unfold collectorOut
  dsimp only
  split
  · exact memInv_report _ (memInv_poisonLine _ h)
  · exact memInv_setDir _ _ (memInv_combineBase _ _ (memInv_dropPartials _ _ _ h))

theorem memInv_collectorRoom {s : State} (d sec : Nat) (h : MemInv s) : MemInv (collectorRoom s d sec) := by
  unfold collectorRoom
  dsimp only
  split
  · exact h
  · split
    · refine foldl_memInv _ ?_ _ s h
      intro st i hs
      split
      · exact memInv_collectorOut _ _ hs
      · exact hs
    · exact h

theorem memInv_noteCollector {s : State} (core sec : Nat) (h : MemInv s) : MemInv (noteCollector s core sec) :=
  memInv_setCollector _ _ _ (memInv_collectorRoom _ _ h)

theorem memInv_registerReq {s : State} (pa tag core key : Nat) (h : MemInv s) : MemInv (registerReq s pa tag core key) := by
  have h1 : ∀ x : State, MemInv x → MemInv (if (dirOf x (secOf pa)).st = .s then invalidateCopies x (secOf pa) else x) := by
    intro x hx
    split
    · exact memInv_invalidateCopies _ hx
    · exact hx
  have h2 : ∀ c : Prop, ∀ _ : Decidable c, MemInv (if c then merge s (secOf pa) else s) := by
    intro c _
    split
    · exact memInv_merge _ h
    · exact h
  exact memInv_noteCollector _ _ (memInv_setDir _ _ (h1 _ (memInv_rekey _ _ (memInv_fillHome _ (h2 _ _)))))

theorem memInv_partialOut {s : State} (core sec : Nat) (h : MemInv s) : MemInv (partialOut s core sec) := by
  unfold partialOut
  split
  · exact h
  · have h1 := memInv_setPartial core sec none (memInv_collectorRoom (dieOfCore core) sec h)
    dsimp only
    generalize setPartial (collectorRoom s (dieOfCore core) sec) core sec none = s1 at *
    repeat' split
    all_goals first
      | exact memInv_setCollector _ _ _ h1
      | exact memInv_setDir _ _ (memInv_setCollector _ _ _ h1)

theorem memInv_dropL1Line {s : State} (core line : Nat) (h : MemInv s) : MemInv (dropL1Line s core line) := memInv_modCore _ _ h

theorem memInv_queueFill {s : State} (d sec : Nat) (h : MemInv s) : MemInv (queueFill s d sec) := memInv_modDie _ _ h

theorem memInv_forgetLine {s : State} (line : Nat) (h : MemInv s) : MemInv (forgetLine s line) := by
  unfold forgetLine
  split
  · exact memInv_modDie _ _ h
  · exact h

theorem memInv_dropHostCopies {s : State} (h : MemInv s) : MemInv (dropHostCopies s) := by
  unfold dropHostCopies
  split
  · exact h
  · refine foldl_memInv _ ?_ _ s h
    intro st p hs
    have h1 := memInv_invalidateCopies p.1 (memInv_writeMem p.1 hs)
    dsimp only
    generalize invalidateCopies (writeMem st p.1) p.1 = s1 at *
    exact memInv_forgetLine _ (memInv_setDir _ _ (h1.clear_home _ _))

theorem memInv_hostDoorbell {s : State} (h : MemInv s) : MemInv (hostDoorbell s) :=
  foldl_memInv _ (fun _ _ hs => memInv_catchUp _ _ hs) _ _ (memInv_dropHostCopies h)

theorem memInv_dropNotice {s : State} (d line : Nat) (h : MemInv s) : MemInv (dropNotice s d line) := by
  unfold dropNotice
  refine foldl_memInv _ ?_ _ s h
  intro st i hs
  dsimp only
  split
  · exact memInv_setDir _ _ (memInv_strikeSector _ _ hs)
  · exact hs

theorem memInv_completeFill {s : State} (d sec : Nat) (bytes : List Byte) (h : MemInv s) : MemInv (completeFill s d sec bytes) :=
  memInv_modDie _ _ (h.of_eq rfl rfl)

theorem memInv_queueFills (d line : Nat) (l : List Nat) :
    ∀ s, MemInv s → MemInv (l.foldl (fun st i => queueFill st d (4 * line + i)) s) :=
  foldl_memInv _ (fun _ _ hs => memInv_queueFill _ _ hs) l

theorem memInv_hostHeld {s : State} (m : NatMap (BitVec 4)) (h : MemInv s) : MemInv { s with hostHeld := m } := h.of_eq rfl rfl

theorem memInv_viewRead {s : State} (d pa n key : Nat) (h : MemInv s) : MemInv (viewRead s d pa n key).2 := by
  unfold viewRead
  dsimp only
  split
  · exact memInv_rekey _ _ (memInv_readReq _ _ h)
  · split
    · exact h
    · split
      · exact memInv_queueFills _ _ _ _ (memInv_hostHeld _ h)
      · exact memInv_queueFill _ _ (memInv_rekey _ _ (memInv_readReq _ _ h))

theorem memInv_useHome {s : State} (f pa : Nat) (h : MemInv s) : MemInv (useHome s f pa) := by
  unfold useHome
  split
  · exact memInv_occupy _ _ _ h
  · exact h

theorem memInv_addOwn {s : State} (b : Sender) (id : Nat) (h : MemInv s) : MemInv (addOwn s b id) := by
  unfold addOwn
  split
  · cases b with
    | thread uid t =>
      simp only [State.modUnit]
      split
      · exact h.of_eq rfl rfl
      · exact h
    | _ => exact h.of_eq rfl rfl
  · exact h

theorem memInv_performFor {s : State} (b : Sender) (pa key : Nat) (data : List Byte) (preds : List Nat) (h : MemInv s) :
    MemInv (performFor s b pa key data preds) := memInv_addOwn _ _ (memInv_performWrite _ _ _ _ h)

theorem memInv_homeErr {s : State} (pa key : Nat) (h : MemInv s) : MemInv (homeErr s pa key).2 := by
  unfold homeErr
  dsimp only
  split
  · exact memInv_merge _ h
  · exact h

theorem memInv_reqErr {s : State} (q : Sent) (h : MemInv s) : MemInv (reqErr s q).2 := by
  unfold reqErr
  split
  · dsimp only
    split
    · exact memInv_merge _ h
    · exact h
  · exact memInv_homeErr _ _ h

theorem memInv_reportErr {s : State} (e : AccErr) (f va pa key site consumer aux1 : Nat) (h : MemInv s) :
    MemInv (reportErr s e f va pa key site consumer aux1) := by
  cases e <;> exact memInv_report _ h

/-- A request that is performed, or answered with an error, keeps the form. -/
theorem memInv_performAs (consumer : Nat) {s : State} (q : Sent) (h : MemInv s) : MemInv (performAs consumer s q) := by
  unfold performAs
  have h1 := memInv_reqErr q h
  split
  · exact memInv_cleanReq _ _ h
  · generalize reqErr s q = r at h1
    obtain ⟨e, s1⟩ := r
    cases e with
    | some e =>
      dsimp only
      have h2 := memInv_reportErr e q.func q.va q.pa q.key (coreSite q.core) consumer q.wordPc h1
      split
      · exact memInv_setPartial _ _ _ h2
      · exact h2
    | none =>
      dsimp only at h1 ⊢
      have h2 := memInv_useHome q.func q.pa h1
      generalize useHome s1 q.func q.pa = s2 at h2
      split
      · exact memInv_dropL1Line _ _ (memInv_performFor _ _ _ _ _ h2)
      · exact memInv_dropL1Line _ _ (memInv_performFor _ _ _ _ _ (memInv_homeRead _ _ _ h2))
      · exact memInv_dropL1Line _ _ (memInv_performFor _ _ _ _ _ (memInv_homeRead _ _ _ h2))
      · exact memInv_registerReq _ _ _ _ h2
      · exact memInv_cleanReq _ _ h2

theorem memInv_sendNow {s : State} (q : Sent) (h : MemInv s) : MemInv (sendNow s q).2 := by
  unfold sendNow
  dsimp only
  split
  · exact memInv_writeThrough h
  · exact h

theorem memInv_strikeSent {s : State} (id : Nat) (h : MemInv s) : MemInv (strikeSent s id) := by
  refine foldl_memInv _ ?_ _ s h
  intro st r hs
  dsimp only
  split
  · exact (memInv_sendNow r hs).of_eq rfl rfl
  · exact hs.of_eq rfl rfl

theorem memInv_perform1 {s : State} (id : Nat) (h : MemInv s) : MemInv (perform1 s id) := by
  unfold perform1
  split
  · exact h
  · rename_i q _
    dsimp only
    refine memInv_strikeSent _ (memInv_performAs 6 _ ?_)
    split
    · exact h.of_eq rfl rfl
    · exact (memInv_sendNow q h).of_eq rfl rfl

theorem memInv_performWith {s : State} (pick : Sent → Bool) (h : MemInv s) : MemInv (performWith s pick) :=
  foldl_memInv _ (fun _ _ hs => memInv_perform1 _ hs) _ _ h

theorem memInv_l1Room {s : State} (core line : Nat) (h : MemInv s) : MemInv (l1Room s core line) := by
  have h1 (n : Nat) (x : State) (hx : MemInv x) :
      MemInv (dropL1Line ((List.range 4).foldl (fun st i => partialOut st core (4 * n + i)) x) core n) :=
    memInv_dropL1Line _ _ (foldl_memInv _ (fun _ _ hs => memInv_partialOut _ _ hs) _ x hx)
  unfold l1Room
  dsimp only
  split
  · exact h
  · split
    · exact h1 _ _ h
    · split
      · exact h1 _ _ (memInv_performWith _ h)
      · exact h

theorem memInv_l1Read {s : State} (core pa n key : Nat) (h : MemInv s) : MemInv (l1Read s core pa n key).2 := by
  unfold l1Read
  dsimp only
  split
  · exact h
  · have h1 := memInv_viewRead (dieOfCore core) (64 * secOf pa) 64 key h
    generalize viewRead s (dieOfCore core) (64 * secOf pa) 64 key = r at *
    exact memInv_modCore _ _ (memInv_l1Room _ _ h1)

theorem memInv_performRun (b : Sender) (d key : Nat) : ∀ n (s : State) pa data, MemInv s → MemInv (performRun b d key n s pa data) := by
  intro n
  induction n with
  | zero => intro s pa data h; exact h
  | succ n ih =>
    intro s pa data h
    rw [performRun]
    split
    · exact h
    · exact ih _ _ _ (memInv_performFor _ _ _ _ _ h)

theorem memInv_pokeByte {s : State} (pa : Nat) (b : Byte) (h : MemInv s) : MemInv (pokeByte s pa b) := by
  unfold pokeByte
  have h1 : MemInv { s with poison := s.poison.filter (fun k => k != secOf pa) } := h.of_eq rfl rfl
  dsimp only
  split
  · exact ⟨NatMap.wf_set 0 _ _ _ h.1, h.2⟩
  · have h2 := memInv_merge (secOf pa) h1
    exact ⟨h2.1, NatMap.wf_set 0 _ _ _ h2.2⟩

theorem memInv_pokeBytes (l : List Byte) : ∀ (s : State) pa, MemInv s → MemInv (pokeBytes s pa l) := by
  induction l with
  | nil => intro s pa h; exact h
  | cons b r ih => intro s pa h; exact ih _ _ (memInv_pokeByte _ _ h)

theorem memInv_dropCopies {s : State} (sec : Nat) (h : MemInv s) : MemInv (dropCopies s sec) := by
  unfold dropCopies
  have h1 := memInv_dropL1Secs sec (recalledCores s (sec / 4)) _ h
  dsimp only
  generalize List.foldl _ s (recalledCores s (sec / 4)) = s1 at *
  have h2 := memInv_dropHolds sec (recalledDies s (sec / 4)) h1
  generalize List.foldl _ s1 (recalledDies s (sec / 4)) = s2 at *
  have h3 := memInv_setPerformed (s2.performed.filter (fun w => secOf w.pa != sec)) h2
  split
  · exact memInv_dropHostLine _ h3
  · exact h3

theorem memInv_dropAllPartials {s : State} (sec : Nat) (h : MemInv s) : MemInv (dropAllPartials s sec) := by
  unfold dropAllPartials
  have h1 : MemInv ((partialCores s sec).foldl (fun st c => if (partialOf st c sec).isSome then setPartial st c sec none else st) s) := by
    refine foldl_memInv _ ?_ _ _ h
    intro st c hs
    split
    · exact memInv_setPartial _ _ _ hs
    · exact hs
  dsimp only
  refine foldl_memInv _ ?_ _ _ h1
  intro st d hs
  split
  · exact memInv_setCollector _ _ _ hs
  · exact hs

-- One byte after a write of memory.

/-- A byte of a sector that its home holds, after a write of the home's bytes. -/
theorem homeByte_set_home (s : State) (a : Nat) (l : List Byte) (i : Nat) (hi : i < l.length)
    (hd : (dirOf s (secOf (a + i))).st ≠ .i) :
    homeByte { s with home := NatMap.setRange 0 s.home a l } (a + i) = l[i] := by
  have : homeByte { s with home := NatMap.setRange 0 s.home a l } (a + i) =
      if (dirOf s (secOf (a + i))).st = .i then NatMap.get 0 s.mem (a + i)
      else NatMap.get 0 (NatMap.setRange 0 s.home a l) (a + i) := rfl
  rw [this, if_neg hd, NatMap.get_setRange_in 0 l s.home a i hi]

/-- A byte outside the bytes written reads as before. -/
theorem homeByte_set_home_out (s : State) (a b : Nat) (l : List Byte) (h : b < a ∨ a + l.length ≤ b) :
    homeByte { s with home := NatMap.setRange 0 s.home a l } b = homeByte s b := by
  have : homeByte { s with home := NatMap.setRange 0 s.home a l } b =
      if (dirOf s (secOf b)).st = .i then NatMap.get 0 s.mem b else NatMap.get 0 (NatMap.setRange 0 s.home a l) b := rfl
  rw [this, NatMap.get_setRange_out 0 l s.home a b h]
  rfl

theorem homeByte_set_mem_out (s : State) (a b : Nat) (l : List Byte) (h : b < a ∨ a + l.length ≤ b) :
    homeByte { s with mem := NatMap.setRange 0 s.mem a l } b = homeByte s b := by
  have : homeByte { s with mem := NatMap.setRange 0 s.mem a l } b =
      if (dirOf s (secOf b)).st = .i then NatMap.get 0 (NatMap.setRange 0 s.mem a l) b else NatMap.get 0 s.home b := rfl
  rw [this, NatMap.get_setRange_out 0 l s.mem a b h]
  rfl

end Sys2Proof
end

