-- ==== Sys2Proof/Laws/PerInstr.lean ====
section
/-! SUPPORT. The family Classified: exactly the instruction words have a word; an event of the agenda has none. One lemma for each
constructor of Instr. -/

namespace Sys2Proof.Laws.Classified

/-- A constructor has a word of 64 bits just when its row is an instruction word and no event (R25, R29). -/
def Statement (i : Sys2Proof.Instr) : Prop := Sys2Proof.Machine.isWord i = true ↔ i.desc ≠ Sys2Proof.Desc.event

end Sys2Proof.Laws.Classified

open Sys2Proof

theorem Sys2Proof.Laws.Classified.nop (o : AOps) :
    Sys2Proof.Laws.Classified.Statement (.nop o) := ⟨fun _ => nofun, fun _ => rfl⟩
theorem Sys2Proof.Laws.Classified.pairWord (o : POps) :
    Sys2Proof.Laws.Classified.Statement (.pairWord o) := ⟨fun _ => nofun, fun _ => rfl⟩
theorem Sys2Proof.Laws.Classified.iadd (o : AOps) :
    Sys2Proof.Laws.Classified.Statement (.iadd o) := ⟨fun _ => nofun, fun _ => rfl⟩
theorem Sys2Proof.Laws.Classified.isub (o : AOps) :
    Sys2Proof.Laws.Classified.Statement (.isub o) := ⟨fun _ => nofun, fun _ => rfl⟩
theorem Sys2Proof.Laws.Classified.imul (o : AOps) :
    Sys2Proof.Laws.Classified.Statement (.imul o) := ⟨fun _ => nofun, fun _ => rfl⟩
theorem Sys2Proof.Laws.Classified.imulhi (o : AOps) :
    Sys2Proof.Laws.Classified.Statement (.imulhi o) := ⟨fun _ => nofun, fun _ => rfl⟩
theorem Sys2Proof.Laws.Classified.imad (o : AOps) :
    Sys2Proof.Laws.Classified.Statement (.imad o) := ⟨fun _ => nofun, fun _ => rfl⟩
theorem Sys2Proof.Laws.Classified.ineg (o : AOps) :
    Sys2Proof.Laws.Classified.Statement (.ineg o) := ⟨fun _ => nofun, fun _ => rfl⟩
theorem Sys2Proof.Laws.Classified.iabs (o : AOps) :
    Sys2Proof.Laws.Classified.Statement (.iabs o) := ⟨fun _ => nofun, fun _ => rfl⟩
theorem Sys2Proof.Laws.Classified.imin (o : AOps) :
    Sys2Proof.Laws.Classified.Statement (.imin o) := ⟨fun _ => nofun, fun _ => rfl⟩
theorem Sys2Proof.Laws.Classified.imax (o : AOps) :
    Sys2Proof.Laws.Classified.Statement (.imax o) := ⟨fun _ => nofun, fun _ => rfl⟩
theorem Sys2Proof.Laws.Classified.iminu (o : AOps) :
    Sys2Proof.Laws.Classified.Statement (.iminu o) := ⟨fun _ => nofun, fun _ => rfl⟩
theorem Sys2Proof.Laws.Classified.imaxu (o : AOps) :
    Sys2Proof.Laws.Classified.Statement (.imaxu o) := ⟨fun _ => nofun, fun _ => rfl⟩
theorem Sys2Proof.Laws.Classified.iaddWide (o : IOps) :
    Sys2Proof.Laws.Classified.Statement (.iaddWide o) := ⟨fun _ => nofun, fun _ => rfl⟩
theorem Sys2Proof.Laws.Classified.imulWide (o : IOps) :
    Sys2Proof.Laws.Classified.Statement (.imulWide o) := ⟨fun _ => nofun, fun _ => rfl⟩
theorem Sys2Proof.Laws.Classified.andWide (o : IOps) :
    Sys2Proof.Laws.Classified.Statement (.andWide o) := ⟨fun _ => nofun, fun _ => rfl⟩
theorem Sys2Proof.Laws.Classified.orWide (o : IOps) :
    Sys2Proof.Laws.Classified.Statement (.orWide o) := ⟨fun _ => nofun, fun _ => rfl⟩
theorem Sys2Proof.Laws.Classified.xorWide (o : IOps) :
    Sys2Proof.Laws.Classified.Statement (.xorWide o) := ⟨fun _ => nofun, fun _ => rfl⟩
theorem Sys2Proof.Laws.Classified.iminWide (o : IOps) :
    Sys2Proof.Laws.Classified.Statement (.iminWide o) := ⟨fun _ => nofun, fun _ => rfl⟩
theorem Sys2Proof.Laws.Classified.imaxWide (o : IOps) :
    Sys2Proof.Laws.Classified.Statement (.imaxWide o) := ⟨fun _ => nofun, fun _ => rfl⟩
theorem Sys2Proof.Laws.Classified.movi (o : IOps) :
    Sys2Proof.Laws.Classified.Statement (.movi o) := ⟨fun _ => nofun, fun _ => rfl⟩
theorem Sys2Proof.Laws.Classified.moviHi (o : IOps) :
    Sys2Proof.Laws.Classified.Statement (.moviHi o) := ⟨fun _ => nofun, fun _ => rfl⟩
theorem Sys2Proof.Laws.Classified.shl (o : AOps) :
    Sys2Proof.Laws.Classified.Statement (.shl o) := ⟨fun _ => nofun, fun _ => rfl⟩
theorem Sys2Proof.Laws.Classified.shra (o : AOps) :
    Sys2Proof.Laws.Classified.Statement (.shra o) := ⟨fun _ => nofun, fun _ => rfl⟩
theorem Sys2Proof.Laws.Classified.shrl (o : AOps) :
    Sys2Proof.Laws.Classified.Statement (.shrl o) := ⟨fun _ => nofun, fun _ => rfl⟩
theorem Sys2Proof.Laws.Classified.rotl (o : AOps) :
    Sys2Proof.Laws.Classified.Statement (.rotl o) := ⟨fun _ => nofun, fun _ => rfl⟩
theorem Sys2Proof.Laws.Classified.and (o : AOps) :
    Sys2Proof.Laws.Classified.Statement (.and o) := ⟨fun _ => nofun, fun _ => rfl⟩
theorem Sys2Proof.Laws.Classified.or (o : AOps) :
    Sys2Proof.Laws.Classified.Statement (.or o) := ⟨fun _ => nofun, fun _ => rfl⟩
theorem Sys2Proof.Laws.Classified.xor (o : AOps) :
    Sys2Proof.Laws.Classified.Statement (.xor o) := ⟨fun _ => nofun, fun _ => rfl⟩
theorem Sys2Proof.Laws.Classified.andn (o : AOps) :
    Sys2Proof.Laws.Classified.Statement (.andn o) := ⟨fun _ => nofun, fun _ => rfl⟩
theorem Sys2Proof.Laws.Classified.not (o : AOps) :
    Sys2Proof.Laws.Classified.Statement (.not o) := ⟨fun _ => nofun, fun _ => rfl⟩
theorem Sys2Proof.Laws.Classified.popc (o : AOps) :
    Sys2Proof.Laws.Classified.Statement (.popc o) := ⟨fun _ => nofun, fun _ => rfl⟩
theorem Sys2Proof.Laws.Classified.clz (o : AOps) :
    Sys2Proof.Laws.Classified.Statement (.clz o) := ⟨fun _ => nofun, fun _ => rfl⟩
theorem Sys2Proof.Laws.Classified.brev (o : AOps) :
    Sys2Proof.Laws.Classified.Statement (.brev o) := ⟨fun _ => nofun, fun _ => rfl⟩
theorem Sys2Proof.Laws.Classified.bfx (o : AOps) :
    Sys2Proof.Laws.Classified.Statement (.bfx o) := ⟨fun _ => nofun, fun _ => rfl⟩
theorem Sys2Proof.Laws.Classified.bfi (o : AOps) :
    Sys2Proof.Laws.Classified.Statement (.bfi o) := ⟨fun _ => nofun, fun _ => rfl⟩
theorem Sys2Proof.Laws.Classified.prmt (o : AOps) :
    Sys2Proof.Laws.Classified.Statement (.prmt o) := ⟨fun _ => nofun, fun _ => rfl⟩
theorem Sys2Proof.Laws.Classified.mov (o : AOps) :
    Sys2Proof.Laws.Classified.Statement (.mov o) := ⟨fun _ => nofun, fun _ => rfl⟩
theorem Sys2Proof.Laws.Classified.kmov (o : AOps) :
    Sys2Proof.Laws.Classified.Statement (.kmov o) := ⟨fun _ => nofun, fun _ => rfl⟩
theorem Sys2Proof.Laws.Classified.rdspec (o : IOps) :
    Sys2Proof.Laws.Classified.Statement (.rdspec o) := ⟨fun _ => nofun, fun _ => rfl⟩
theorem Sys2Proof.Laws.Classified.iwiden (o : AOps) :
    Sys2Proof.Laws.Classified.Statement (.iwiden o) := ⟨fun _ => nofun, fun _ => rfl⟩
theorem Sys2Proof.Laws.Classified.klo (o : AOps) :
    Sys2Proof.Laws.Classified.Statement (.klo o) := ⟨fun _ => nofun, fun _ => rfl⟩
theorem Sys2Proof.Laws.Classified.khi (o : AOps) :
    Sys2Proof.Laws.Classified.Statement (.khi o) := ⟨fun _ => nofun, fun _ => rfl⟩
theorem Sys2Proof.Laws.Classified.icmp (o : AOps) :
    Sys2Proof.Laws.Classified.Statement (.icmp o) := ⟨fun _ => nofun, fun _ => rfl⟩
theorem Sys2Proof.Laws.Classified.pand (o : AOps) :
    Sys2Proof.Laws.Classified.Statement (.pand o) := ⟨fun _ => nofun, fun _ => rfl⟩
theorem Sys2Proof.Laws.Classified.por (o : AOps) :
    Sys2Proof.Laws.Classified.Statement (.por o) := ⟨fun _ => nofun, fun _ => rfl⟩
theorem Sys2Proof.Laws.Classified.pxor (o : AOps) :
    Sys2Proof.Laws.Classified.Statement (.pxor o) := ⟨fun _ => nofun, fun _ => rfl⟩
theorem Sys2Proof.Laws.Classified.pnot (o : AOps) :
    Sys2Proof.Laws.Classified.Statement (.pnot o) := ⟨fun _ => nofun, fun _ => rfl⟩
theorem Sys2Proof.Laws.Classified.sel (o : AOps) :
    Sys2Proof.Laws.Classified.Statement (.sel o) := ⟨fun _ => nofun, fun _ => rfl⟩
theorem Sys2Proof.Laws.Classified.lread (o : AOps) :
    Sys2Proof.Laws.Classified.Statement (.lread o) := ⟨fun _ => nofun, fun _ => rfl⟩
theorem Sys2Proof.Laws.Classified.lshfx (o : AOps) :
    Sys2Proof.Laws.Classified.Statement (.lshfx o) := ⟨fun _ => nofun, fun _ => rfl⟩
theorem Sys2Proof.Laws.Classified.lbcast (o : AOps) :
    Sys2Proof.Laws.Classified.Statement (.lbcast o) := ⟨fun _ => nofun, fun _ => rfl⟩
theorem Sys2Proof.Laws.Classified.lsum (o : AOps) :
    Sys2Proof.Laws.Classified.Statement (.lsum o) := ⟨fun _ => nofun, fun _ => rfl⟩
theorem Sys2Proof.Laws.Classified.lmax (o : AOps) :
    Sys2Proof.Laws.Classified.Statement (.lmax o) := ⟨fun _ => nofun, fun _ => rfl⟩
theorem Sys2Proof.Laws.Classified.vote (o : AOps) :
    Sys2Proof.Laws.Classified.Statement (.vote o) := ⟨fun _ => nofun, fun _ => rfl⟩
theorem Sys2Proof.Laws.Classified.lprefix (o : AOps) :
    Sys2Proof.Laws.Classified.Statement (.lprefix o) := ⟨fun _ => nofun, fun _ => rfl⟩
theorem Sys2Proof.Laws.Classified.bra (o : BOps) :
    Sys2Proof.Laws.Classified.Statement (.bra o) := ⟨fun _ => nofun, fun _ => rfl⟩
theorem Sys2Proof.Laws.Classified.brc (o : BOps) :
    Sys2Proof.Laws.Classified.Statement (.brc o) := ⟨fun _ => nofun, fun _ => rfl⟩
theorem Sys2Proof.Laws.Classified.brp (o : BOps) :
    Sys2Proof.Laws.Classified.Statement (.brp o) := ⟨fun _ => nofun, fun _ => rfl⟩
theorem Sys2Proof.Laws.Classified.jmpx (o : AOps) :
    Sys2Proof.Laws.Classified.Statement (.jmpx o) := ⟨fun _ => nofun, fun _ => rfl⟩
theorem Sys2Proof.Laws.Classified.call (o : BOps) :
    Sys2Proof.Laws.Classified.Statement (.call o) := ⟨fun _ => nofun, fun _ => rfl⟩
theorem Sys2Proof.Laws.Classified.ret (o : AOps) :
    Sys2Proof.Laws.Classified.Statement (.ret o) := ⟨fun _ => nofun, fun _ => rfl⟩
theorem Sys2Proof.Laws.Classified.reform (o : AOps) :
    Sys2Proof.Laws.Classified.Statement (.reform o) := ⟨fun _ => nofun, fun _ => rfl⟩
theorem Sys2Proof.Laws.Classified.exit (o : AOps) :
    Sys2Proof.Laws.Classified.Statement (.exit o) := ⟨fun _ => nofun, fun _ => rfl⟩
theorem Sys2Proof.Laws.Classified.fadd (o : AOps) :
    Sys2Proof.Laws.Classified.Statement (.fadd o) := ⟨fun _ => nofun, fun _ => rfl⟩
theorem Sys2Proof.Laws.Classified.fsub (o : AOps) :
    Sys2Proof.Laws.Classified.Statement (.fsub o) := ⟨fun _ => nofun, fun _ => rfl⟩
theorem Sys2Proof.Laws.Classified.fmul (o : AOps) :
    Sys2Proof.Laws.Classified.Statement (.fmul o) := ⟨fun _ => nofun, fun _ => rfl⟩
theorem Sys2Proof.Laws.Classified.ffma (o : AOps) :
    Sys2Proof.Laws.Classified.Statement (.ffma o) := ⟨fun _ => nofun, fun _ => rfl⟩
theorem Sys2Proof.Laws.Classified.fsqrt (o : AOps) :
    Sys2Proof.Laws.Classified.Statement (.fsqrt o) := ⟨fun _ => nofun, fun _ => rfl⟩
theorem Sys2Proof.Laws.Classified.dadd (o : AOps) :
    Sys2Proof.Laws.Classified.Statement (.dadd o) := ⟨fun _ => nofun, fun _ => rfl⟩
theorem Sys2Proof.Laws.Classified.dmul (o : AOps) :
    Sys2Proof.Laws.Classified.Statement (.dmul o) := ⟨fun _ => nofun, fun _ => rfl⟩
theorem Sys2Proof.Laws.Classified.dfma (o : AOps) :
    Sys2Proof.Laws.Classified.Statement (.dfma o) := ⟨fun _ => nofun, fun _ => rfl⟩
theorem Sys2Proof.Laws.Classified.fmin (o : AOps) :
    Sys2Proof.Laws.Classified.Statement (.fmin o) := ⟨fun _ => nofun, fun _ => rfl⟩
theorem Sys2Proof.Laws.Classified.fmax (o : AOps) :
    Sys2Proof.Laws.Classified.Statement (.fmax o) := ⟨fun _ => nofun, fun _ => rfl⟩
theorem Sys2Proof.Laws.Classified.dmin (o : AOps) :
    Sys2Proof.Laws.Classified.Statement (.dmin o) := ⟨fun _ => nofun, fun _ => rfl⟩
theorem Sys2Proof.Laws.Classified.dmax (o : AOps) :
    Sys2Proof.Laws.Classified.Statement (.dmax o) := ⟨fun _ => nofun, fun _ => rfl⟩
theorem Sys2Proof.Laws.Classified.fcmp (o : AOps) :
    Sys2Proof.Laws.Classified.Statement (.fcmp o) := ⟨fun _ => nofun, fun _ => rfl⟩
theorem Sys2Proof.Laws.Classified.dcmp (o : AOps) :
    Sys2Proof.Laws.Classified.Statement (.dcmp o) := ⟨fun _ => nofun, fun _ => rfl⟩
theorem Sys2Proof.Laws.Classified.fclass (o : AOps) :
    Sys2Proof.Laws.Classified.Statement (.fclass o) := ⟨fun _ => nofun, fun _ => rfl⟩
theorem Sys2Proof.Laws.Classified.frcp (o : AOps) :
    Sys2Proof.Laws.Classified.Statement (.frcp o) := ⟨fun _ => nofun, fun _ => rfl⟩
theorem Sys2Proof.Laws.Classified.frsq (o : AOps) :
    Sys2Proof.Laws.Classified.Statement (.frsq o) := ⟨fun _ => nofun, fun _ => rfl⟩
theorem Sys2Proof.Laws.Classified.fexp2 (o : AOps) :
    Sys2Proof.Laws.Classified.Statement (.fexp2 o) := ⟨fun _ => nofun, fun _ => rfl⟩
theorem Sys2Proof.Laws.Classified.flog2 (o : AOps) :
    Sys2Proof.Laws.Classified.Statement (.flog2 o) := ⟨fun _ => nofun, fun _ => rfl⟩
theorem Sys2Proof.Laws.Classified.fsin (o : AOps) :
    Sys2Proof.Laws.Classified.Statement (.fsin o) := ⟨fun _ => nofun, fun _ => rfl⟩
theorem Sys2Proof.Laws.Classified.fcos (o : AOps) :
    Sys2Proof.Laws.Classified.Statement (.fcos o) := ⟨fun _ => nofun, fun _ => rfl⟩
theorem Sys2Proof.Laws.Classified.hadd2 (o : AOps) :
    Sys2Proof.Laws.Classified.Statement (.hadd2 o) := ⟨fun _ => nofun, fun _ => rfl⟩
theorem Sys2Proof.Laws.Classified.hmul2 (o : AOps) :
    Sys2Proof.Laws.Classified.Statement (.hmul2 o) := ⟨fun _ => nofun, fun _ => rfl⟩
theorem Sys2Proof.Laws.Classified.hfma2 (o : AOps) :
    Sys2Proof.Laws.Classified.Statement (.hfma2 o) := ⟨fun _ => nofun, fun _ => rfl⟩
theorem Sys2Proof.Laws.Classified.hmax2 (o : AOps) :
    Sys2Proof.Laws.Classified.Statement (.hmax2 o) := ⟨fun _ => nofun, fun _ => rfl⟩
theorem Sys2Proof.Laws.Classified.f2i (o : AOps) :
    Sys2Proof.Laws.Classified.Statement (.f2i o) := ⟨fun _ => nofun, fun _ => rfl⟩
theorem Sys2Proof.Laws.Classified.i2f (o : AOps) :
    Sys2Proof.Laws.Classified.Statement (.i2f o) := ⟨fun _ => nofun, fun _ => rfl⟩
theorem Sys2Proof.Laws.Classified.f2f (o : AOps) :
    Sys2Proof.Laws.Classified.Statement (.f2f o) := ⟨fun _ => nofun, fun _ => rfl⟩
theorem Sys2Proof.Laws.Classified.f2d (o : AOps) :
    Sys2Proof.Laws.Classified.Statement (.f2d o) := ⟨fun _ => nofun, fun _ => rfl⟩
theorem Sys2Proof.Laws.Classified.d2f (o : AOps) :
    Sys2Proof.Laws.Classified.Statement (.d2f o) := ⟨fun _ => nofun, fun _ => rfl⟩
theorem Sys2Proof.Laws.Classified.cvts (o : AOps) :
    Sys2Proof.Laws.Classified.Statement (.cvts o) := ⟨fun _ => nofun, fun _ => rfl⟩
theorem Sys2Proof.Laws.Classified.cvtl (o : AOps) :
    Sys2Proof.Laws.Classified.Statement (.cvtl o) := ⟨fun _ => nofun, fun _ => rfl⟩
theorem Sys2Proof.Laws.Classified.aset (o : AOps) :
    Sys2Proof.Laws.Classified.Statement (.aset o) := by
  refine ⟨fun _ => ?_, fun _ => rfl⟩
  intro h
  simp only [Sys2Proof.Instr.desc] at h
  split at h <;> simp at h
theorem Sys2Proof.Laws.Classified.aget (o : AOps) :
    Sys2Proof.Laws.Classified.Statement (.aget o) := ⟨fun _ => nofun, fun _ => rfl⟩
theorem Sys2Proof.Laws.Classified.ld (o : MOps) :
    Sys2Proof.Laws.Classified.Statement (.ld o) := ⟨fun _ => nofun, fun _ => rfl⟩
theorem Sys2Proof.Laws.Classified.st (o : MOps) :
    Sys2Proof.Laws.Classified.Statement (.st o) := ⟨fun _ => nofun, fun _ => rfl⟩
theorem Sys2Proof.Laws.Classified.ldu (o : MOps) :
    Sys2Proof.Laws.Classified.Statement (.ldu o) := ⟨fun _ => nofun, fun _ => rfl⟩
theorem Sys2Proof.Laws.Classified.ldx (o : MOps) :
    Sys2Proof.Laws.Classified.Statement (.ldx o) := ⟨fun _ => nofun, fun _ => rfl⟩
theorem Sys2Proof.Laws.Classified.stx (o : MOps) :
    Sys2Proof.Laws.Classified.Statement (.stx o) := ⟨fun _ => nofun, fun _ => rfl⟩
theorem Sys2Proof.Laws.Classified.ldy (o : MOps) :
    Sys2Proof.Laws.Classified.Statement (.ldy o) := ⟨fun _ => nofun, fun _ => rfl⟩
theorem Sys2Proof.Laws.Classified.pref (o : MOps) :
    Sys2Proof.Laws.Classified.Statement (.pref o) := ⟨fun _ => nofun, fun _ => rfl⟩
theorem Sys2Proof.Laws.Classified.cinv (o : MOps) :
    Sys2Proof.Laws.Classified.Statement (.cinv o) := ⟨fun _ => nofun, fun _ => rfl⟩
theorem Sys2Proof.Laws.Classified.cwb (o : MOps) :
    Sys2Proof.Laws.Classified.Statement (.cwb o) := ⟨fun _ => nofun, fun _ => rfl⟩
theorem Sys2Proof.Laws.Classified.atomAdd (o : MOps) :
    Sys2Proof.Laws.Classified.Statement (.atomAdd o) := ⟨fun _ => nofun, fun _ => rfl⟩
theorem Sys2Proof.Laws.Classified.atomAnd (o : MOps) :
    Sys2Proof.Laws.Classified.Statement (.atomAnd o) := ⟨fun _ => nofun, fun _ => rfl⟩
theorem Sys2Proof.Laws.Classified.atomOr (o : MOps) :
    Sys2Proof.Laws.Classified.Statement (.atomOr o) := ⟨fun _ => nofun, fun _ => rfl⟩
theorem Sys2Proof.Laws.Classified.atomXor (o : MOps) :
    Sys2Proof.Laws.Classified.Statement (.atomXor o) := ⟨fun _ => nofun, fun _ => rfl⟩
theorem Sys2Proof.Laws.Classified.atomMin (o : MOps) :
    Sys2Proof.Laws.Classified.Statement (.atomMin o) := ⟨fun _ => nofun, fun _ => rfl⟩
theorem Sys2Proof.Laws.Classified.atomMax (o : MOps) :
    Sys2Proof.Laws.Classified.Statement (.atomMax o) := ⟨fun _ => nofun, fun _ => rfl⟩
theorem Sys2Proof.Laws.Classified.atomExch (o : MOps) :
    Sys2Proof.Laws.Classified.Statement (.atomExch o) := ⟨fun _ => nofun, fun _ => rfl⟩
theorem Sys2Proof.Laws.Classified.atomIncw (o : MOps) :
    Sys2Proof.Laws.Classified.Statement (.atomIncw o) := ⟨fun _ => nofun, fun _ => rfl⟩
theorem Sys2Proof.Laws.Classified.atomDecw (o : MOps) :
    Sys2Proof.Laws.Classified.Statement (.atomDecw o) := ⟨fun _ => nofun, fun _ => rfl⟩
theorem Sys2Proof.Laws.Classified.atomAddb (o : MOps) :
    Sys2Proof.Laws.Classified.Statement (.atomAddb o) := ⟨fun _ => nofun, fun _ => rfl⟩
theorem Sys2Proof.Laws.Classified.atomfAdd (o : MOps) :
    Sys2Proof.Laws.Classified.Statement (.atomfAdd o) := ⟨fun _ => nofun, fun _ => rfl⟩
theorem Sys2Proof.Laws.Classified.atomfMin (o : MOps) :
    Sys2Proof.Laws.Classified.Statement (.atomfMin o) := ⟨fun _ => nofun, fun _ => rfl⟩
theorem Sys2Proof.Laws.Classified.atomfMax (o : MOps) :
    Sys2Proof.Laws.Classified.Statement (.atomfMax o) := ⟨fun _ => nofun, fun _ => rfl⟩
theorem Sys2Proof.Laws.Classified.cas (o : MOps) :
    Sys2Proof.Laws.Classified.Statement (.cas o) := ⟨fun _ => nofun, fun _ => rfl⟩
theorem Sys2Proof.Laws.Classified.redAdd (o : MOps) :
    Sys2Proof.Laws.Classified.Statement (.redAdd o) := ⟨fun _ => nofun, fun _ => rfl⟩
theorem Sys2Proof.Laws.Classified.redAnd (o : MOps) :
    Sys2Proof.Laws.Classified.Statement (.redAnd o) := ⟨fun _ => nofun, fun _ => rfl⟩
theorem Sys2Proof.Laws.Classified.redOr (o : MOps) :
    Sys2Proof.Laws.Classified.Statement (.redOr o) := ⟨fun _ => nofun, fun _ => rfl⟩
theorem Sys2Proof.Laws.Classified.redXor (o : MOps) :
    Sys2Proof.Laws.Classified.Statement (.redXor o) := ⟨fun _ => nofun, fun _ => rfl⟩
theorem Sys2Proof.Laws.Classified.redMin (o : MOps) :
    Sys2Proof.Laws.Classified.Statement (.redMin o) := ⟨fun _ => nofun, fun _ => rfl⟩
theorem Sys2Proof.Laws.Classified.redMax (o : MOps) :
    Sys2Proof.Laws.Classified.Statement (.redMax o) := ⟨fun _ => nofun, fun _ => rfl⟩
theorem Sys2Proof.Laws.Classified.updAddI32 (o : MOps) :
    Sys2Proof.Laws.Classified.Statement (.updAddI32 o) := ⟨fun _ => nofun, fun _ => rfl⟩
theorem Sys2Proof.Laws.Classified.updAddI64 (o : MOps) :
    Sys2Proof.Laws.Classified.Statement (.updAddI64 o) := ⟨fun _ => nofun, fun _ => rfl⟩
theorem Sys2Proof.Laws.Classified.updAddF32 (o : MOps) :
    Sys2Proof.Laws.Classified.Statement (.updAddF32 o) := ⟨fun _ => nofun, fun _ => rfl⟩
theorem Sys2Proof.Laws.Classified.updMinI32 (o : MOps) :
    Sys2Proof.Laws.Classified.Statement (.updMinI32 o) := ⟨fun _ => nofun, fun _ => rfl⟩
theorem Sys2Proof.Laws.Classified.updMaxI32 (o : MOps) :
    Sys2Proof.Laws.Classified.Statement (.updMaxI32 o) := ⟨fun _ => nofun, fun _ => rfl⟩
theorem Sys2Proof.Laws.Classified.updMinN32 (o : MOps) :
    Sys2Proof.Laws.Classified.Statement (.updMinN32 o) := ⟨fun _ => nofun, fun _ => rfl⟩
theorem Sys2Proof.Laws.Classified.updMaxN32 (o : MOps) :
    Sys2Proof.Laws.Classified.Statement (.updMaxN32 o) := ⟨fun _ => nofun, fun _ => rfl⟩
theorem Sys2Proof.Laws.Classified.updMinF32 (o : MOps) :
    Sys2Proof.Laws.Classified.Statement (.updMinF32 o) := ⟨fun _ => nofun, fun _ => rfl⟩
theorem Sys2Proof.Laws.Classified.updMaxF32 (o : MOps) :
    Sys2Proof.Laws.Classified.Statement (.updMaxF32 o) := ⟨fun _ => nofun, fun _ => rfl⟩
theorem Sys2Proof.Laws.Classified.updOrB32 (o : MOps) :
    Sys2Proof.Laws.Classified.Statement (.updOrB32 o) := ⟨fun _ => nofun, fun _ => rfl⟩
theorem Sys2Proof.Laws.Classified.updXorB32 (o : MOps) :
    Sys2Proof.Laws.Classified.Statement (.updXorB32 o) := ⟨fun _ => nofun, fun _ => rfl⟩
theorem Sys2Proof.Laws.Classified.updAndB32 (o : MOps) :
    Sys2Proof.Laws.Classified.Statement (.updAndB32 o) := ⟨fun _ => nofun, fun _ => rfl⟩
theorem Sys2Proof.Laws.Classified.fence (o : AOps) :
    Sys2Proof.Laws.Classified.Statement (.fence o) := ⟨fun _ => nofun, fun _ => rfl⟩
theorem Sys2Proof.Laws.Classified.cpy (o : AOps) :
    Sys2Proof.Laws.Classified.Statement (.cpy o) := ⟨fun _ => nofun, fun _ => rfl⟩
theorem Sys2Proof.Laws.Classified.cpym (o : AOps) :
    Sys2Proof.Laws.Classified.Statement (.cpym o) := ⟨fun _ => nofun, fun _ => rfl⟩
theorem Sys2Proof.Laws.Classified.cpyw (o : AOps) :
    Sys2Proof.Laws.Classified.Statement (.cpyw o) := ⟨fun _ => nofun, fun _ => rfl⟩
theorem Sys2Proof.Laws.Classified.cpyf (o : AOps) :
    Sys2Proof.Laws.Classified.Statement (.cpyf o) := ⟨fun _ => nofun, fun _ => rfl⟩
theorem Sys2Proof.Laws.Classified.bgath (o : AOps) :
    Sys2Proof.Laws.Classified.Statement (.bgath o) := ⟨fun _ => nofun, fun _ => rfl⟩
theorem Sys2Proof.Laws.Classified.bscat (o : AOps) :
    Sys2Proof.Laws.Classified.Statement (.bscat o) := ⟨fun _ => nofun, fun _ => rfl⟩
theorem Sys2Proof.Laws.Classified.seal (o : AOps) :
    Sys2Proof.Laws.Classified.Statement (.seal o) := ⟨fun _ => nofun, fun _ => rfl⟩
theorem Sys2Proof.Laws.Classified.reclaim (o : AOps) :
    Sys2Proof.Laws.Classified.Statement (.reclaim o) := ⟨fun _ => nofun, fun _ => rfl⟩
theorem Sys2Proof.Laws.Classified.sealEntryRemove (space : SealSpace) (place : Nat) (start : Nat) :
    Sys2Proof.Laws.Classified.Statement (.sealEntryRemove space place start) := ⟨nofun, fun h => absurd rfl h⟩
theorem Sys2Proof.Laws.Classified.bar (o : AOps) :
    Sys2Proof.Laws.Classified.Statement (.bar o) := ⟨fun _ => nofun, fun _ => rfl⟩
theorem Sys2Proof.Laws.Classified.binit (o : AOps) :
    Sys2Proof.Laws.Classified.Statement (.binit o) := ⟨fun _ => nofun, fun _ => rfl⟩
theorem Sys2Proof.Laws.Classified.bexp (o : AOps) :
    Sys2Proof.Laws.Classified.Statement (.bexp o) := ⟨fun _ => nofun, fun _ => rfl⟩
theorem Sys2Proof.Laws.Classified.bwait (o : AOps) :
    Sys2Proof.Laws.Classified.Statement (.bwait o) := ⟨fun _ => nofun, fun _ => rfl⟩
theorem Sys2Proof.Laws.Classified.qinit (o : AOps) :
    Sys2Proof.Laws.Classified.Statement (.qinit o) := ⟨fun _ => nofun, fun _ => rfl⟩
theorem Sys2Proof.Laws.Classified.qpush (o : AOps) :
    Sys2Proof.Laws.Classified.Statement (.qpush o) := ⟨fun _ => nofun, fun _ => rfl⟩
theorem Sys2Proof.Laws.Classified.qpop (o : AOps) :
    Sys2Proof.Laws.Classified.Statement (.qpop o) := ⟨fun _ => nofun, fun _ => rfl⟩
theorem Sys2Proof.Laws.Classified.twait (o : AOps) :
    Sys2Proof.Laws.Classified.Statement (.twait o) := ⟨fun _ => nofun, fun _ => rfl⟩
theorem Sys2Proof.Laws.Classified.tread (o : AOps) :
    Sys2Proof.Laws.Classified.Statement (.tread o) := ⟨fun _ => nofun, fun _ => rfl⟩
theorem Sys2Proof.Laws.Classified.topk (o : AOps) :
    Sys2Proof.Laws.Classified.Statement (.topk o) := ⟨fun _ => nofun, fun _ => rfl⟩
theorem Sys2Proof.Laws.Classified.bvmask (o : AOps) :
    Sys2Proof.Laws.Classified.Statement (.bvmask o) := ⟨fun _ => nofun, fun _ => rfl⟩
theorem Sys2Proof.Laws.Classified.mma (o : AOps) :
    Sys2Proof.Laws.Classified.Statement (.mma o) := ⟨fun _ => nofun, fun _ => rfl⟩
theorem Sys2Proof.Laws.Classified.mmas (o : AOps) :
    Sys2Proof.Laws.Classified.Statement (.mmas o) := ⟨fun _ => nofun, fun _ => rfl⟩
theorem Sys2Proof.Laws.Classified.mzero (o : AOps) :
    Sys2Proof.Laws.Classified.Statement (.mzero o) := ⟨fun _ => nofun, fun _ => rfl⟩
theorem Sys2Proof.Laws.Classified.mldm (o : AOps) :
    Sys2Proof.Laws.Classified.Statement (.mldm o) := ⟨fun _ => nofun, fun _ => rfl⟩
theorem Sys2Proof.Laws.Classified.mdrain (o : AOps) :
    Sys2Proof.Laws.Classified.Statement (.mdrain o) := ⟨fun _ => nofun, fun _ => rfl⟩
theorem Sys2Proof.Laws.Classified.mqnt (o : AOps) :
    Sys2Proof.Laws.Classified.Statement (.mqnt o) := ⟨fun _ => nofun, fun _ => rfl⟩
theorem Sys2Proof.Laws.Classified.mchk (o : AOps) :
    Sys2Proof.Laws.Classified.Statement (.mchk o) := ⟨fun _ => nofun, fun _ => rfl⟩
theorem Sys2Proof.Laws.Classified.mscl (o : AOps) :
    Sys2Proof.Laws.Classified.Statement (.mscl o) := ⟨fun _ => nofun, fun _ => rfl⟩
theorem Sys2Proof.Laws.Classified.trap (o : IOps) :
    Sys2Proof.Laws.Classified.Statement (.trap o) := ⟨fun _ => nofun, fun _ => rfl⟩
theorem Sys2Proof.Laws.Classified.sysc (o : IOps) :
    Sys2Proof.Laws.Classified.Statement (.sysc o) := ⟨fun _ => nofun, fun _ => rfl⟩
theorem Sys2Proof.Laws.Classified.tret (o : AOps) :
    Sys2Proof.Laws.Classified.Statement (.tret o) := ⟨fun _ => nofun, fun _ => rfl⟩
theorem Sys2Proof.Laws.Classified.rplx (o : AOps) :
    Sys2Proof.Laws.Classified.Statement (.rplx o) := ⟨fun _ => nofun, fun _ => rfl⟩
theorem Sys2Proof.Laws.Classified.rplw (o : AOps) :
    Sys2Proof.Laws.Classified.Statement (.rplw o) := ⟨fun _ => nofun, fun _ => rfl⟩
theorem Sys2Proof.Laws.Classified.rpld (o : AOps) :
    Sys2Proof.Laws.Classified.Statement (.rpld o) := ⟨fun _ => nofun, fun _ => rfl⟩
theorem Sys2Proof.Laws.Classified.xrd (o : AOps) :
    Sys2Proof.Laws.Classified.Statement (.xrd o) := ⟨fun _ => nofun, fun _ => rfl⟩
theorem Sys2Proof.Laws.Classified.xwr (o : AOps) :
    Sys2Proof.Laws.Classified.Statement (.xwr o) := ⟨fun _ => nofun, fun _ => rfl⟩
theorem Sys2Proof.Laws.Classified.rinit (o : AOps) :
    Sys2Proof.Laws.Classified.Statement (.rinit o) := ⟨fun _ => nofun, fun _ => rfl⟩
theorem Sys2Proof.Laws.Classified.rinitPerform (die : Nat) :
    Sys2Proof.Laws.Classified.Statement (.rinitPerform die) := ⟨nofun, fun h => absurd rfl h⟩
theorem Sys2Proof.Laws.Classified.rgrab (o : AOps) :
    Sys2Proof.Laws.Classified.Statement (.rgrab o) := ⟨fun _ => nofun, fun _ => rfl⟩
theorem Sys2Proof.Laws.Classified.lnch (o : AOps) :
    Sys2Proof.Laws.Classified.Statement (.lnch o) := ⟨fun _ => nofun, fun _ => rfl⟩
theorem Sys2Proof.Laws.Classified.cntw (o : AOps) :
    Sys2Proof.Laws.Classified.Statement (.cntw o) := ⟨fun _ => nofun, fun _ => rfl⟩
theorem Sys2Proof.Laws.Classified.cncl (o : AOps) :
    Sys2Proof.Laws.Classified.Statement (.cncl o) := ⟨fun _ => nofun, fun _ => rfl⟩
theorem Sys2Proof.Laws.Classified.dlread (o : AOps) :
    Sys2Proof.Laws.Classified.Statement (.dlread o) := ⟨fun _ => nofun, fun _ => rfl⟩
theorem Sys2Proof.Laws.Classified.idem (o : AOps) :
    Sys2Proof.Laws.Classified.Statement (.idem o) := ⟨fun _ => nofun, fun _ => rfl⟩
theorem Sys2Proof.Laws.Classified.codeObjectLoad (f : Nat) (base : Nat) (obj : CodeObject) :
    Sys2Proof.Laws.Classified.Statement (.codeObjectLoad f base obj) := ⟨nofun, fun h => absurd rfl h⟩
theorem Sys2Proof.Laws.Classified.binAged (uid : Nat) (key : BinKey) :
    Sys2Proof.Laws.Classified.Statement (.binAged uid key) := ⟨nofun, fun h => absurd rfl h⟩
theorem Sys2Proof.Laws.Classified.binDraw (core : Nat) :
    Sys2Proof.Laws.Classified.Statement (.binDraw core) := ⟨nofun, fun h => absurd rfl h⟩
theorem Sys2Proof.Laws.Classified.binBringBack (uid : Nat) (key : BinKey) :
    Sys2Proof.Laws.Classified.Statement (.binBringBack uid key) := ⟨nofun, fun h => absurd rfl h⟩
theorem Sys2Proof.Laws.Classified.dissolutionMark (core : Nat) :
    Sys2Proof.Laws.Classified.Statement (.dissolutionMark core) := ⟨nofun, fun h => absurd rfl h⟩
theorem Sys2Proof.Laws.Classified.groupDissolve (core : Nat) (slot : Nat) :
    Sys2Proof.Laws.Classified.Statement (.groupDissolve core slot) := ⟨nofun, fun h => absurd rfl h⟩
theorem Sys2Proof.Laws.Classified.cohortStart (offs : List Nat) :
    Sys2Proof.Laws.Classified.Statement (.cohortStart offs) := ⟨nofun, fun h => absurd rfl h⟩
theorem Sys2Proof.Laws.Classified.unitComplete (uid : Nat) :
    Sys2Proof.Laws.Classified.Statement (.unitComplete uid) := ⟨nofun, fun h => absurd rfl h⟩
theorem Sys2Proof.Laws.Classified.quartzContextEnd (cluster : Nat) (ctx : Nat) :
    Sys2Proof.Laws.Classified.Statement (.quartzContextEnd cluster ctx) := ⟨nofun, fun h => absurd rfl h⟩
theorem Sys2Proof.Laws.Classified.launchComplete (f : Nat) (idx : Nat) :
    Sys2Proof.Laws.Classified.Statement (.launchComplete f idx) := ⟨nofun, fun h => absurd rfl h⟩
theorem Sys2Proof.Laws.Classified.copyBytesLand (op : Nat) (core : Nat) (span : CopySpan) :
    Sys2Proof.Laws.Classified.Statement (.copyBytesLand op core span) := ⟨nofun, fun h => absurd rfl h⟩
theorem Sys2Proof.Laws.Classified.copyComplete (op : Nat) :
    Sys2Proof.Laws.Classified.Statement (.copyComplete op) := ⟨nofun, fun h => absurd rfl h⟩
theorem Sys2Proof.Laws.Classified.gatherComplete (op : Nat) :
    Sys2Proof.Laws.Classified.Statement (.gatherComplete op) := ⟨nofun, fun h => absurd rfl h⟩
theorem Sys2Proof.Laws.Classified.engineTranslationFault (op : Nat) :
    Sys2Proof.Laws.Classified.Statement (.engineTranslationFault op) := ⟨nofun, fun h => absurd rfl h⟩
theorem Sys2Proof.Laws.Classified.faultRecordWrite (id : Nat) :
    Sys2Proof.Laws.Classified.Statement (.faultRecordWrite id) := ⟨nofun, fun h => absurd rfl h⟩
theorem Sys2Proof.Laws.Classified.topkComplete (core : Nat) :
    Sys2Proof.Laws.Classified.Statement (.topkComplete core) := ⟨nofun, fun h => absurd rfl h⟩
theorem Sys2Proof.Laws.Classified.prefetchHintFill (cluster : Nat) :
    Sys2Proof.Laws.Classified.Statement (.prefetchHintFill cluster) := ⟨nofun, fun h => absurd rfl h⟩
theorem Sys2Proof.Laws.Classified.matrixGrant (cluster : Nat) (faults : List ArrayFault) :
    Sys2Proof.Laws.Classified.Statement (.matrixGrant cluster faults) := ⟨nofun, fun h => absurd rfl h⟩
theorem Sys2Proof.Laws.Classified.matrixOperationComplete (cluster : Nat) (seq : Nat) :
    Sys2Proof.Laws.Classified.Statement (.matrixOperationComplete cluster seq) := ⟨nofun, fun h => absurd rfl h⟩
theorem Sys2Proof.Laws.Classified.ebudRefill :
    Sys2Proof.Laws.Classified.Statement .ebudRefill := ⟨nofun, fun h => absurd rfl h⟩
theorem Sys2Proof.Laws.Classified.rgrabReply (die : Nat) :
    Sys2Proof.Laws.Classified.Statement (.rgrabReply die) := ⟨nofun, fun h => absurd rfl h⟩
theorem Sys2Proof.Laws.Classified.cqtailWrite (f : Nat) (value : BitVec 32) :
    Sys2Proof.Laws.Classified.Statement (.cqtailWrite f value) := ⟨nofun, fun h => absurd rfl h⟩
theorem Sys2Proof.Laws.Classified.job (f : Nat) :
    Sys2Proof.Laws.Classified.Statement (.job f) := ⟨nofun, fun h => absurd rfl h⟩
theorem Sys2Proof.Laws.Classified.phase (f : Nat) :
    Sys2Proof.Laws.Classified.Statement (.phase f) := ⟨nofun, fun h => absurd rfl h⟩
theorem Sys2Proof.Laws.Classified.graph (f : Nat) :
    Sys2Proof.Laws.Classified.Statement (.graph f) := ⟨nofun, fun h => absurd rfl h⟩
theorem Sys2Proof.Laws.Classified.close (f : Nat) :
    Sys2Proof.Laws.Classified.Statement (.close f) := ⟨nofun, fun h => absurd rfl h⟩
theorem Sys2Proof.Laws.Classified.cancel (f : Nat) :
    Sys2Proof.Laws.Classified.Statement (.cancel f) := ⟨nofun, fun h => absurd rfl h⟩
theorem Sys2Proof.Laws.Classified.wait (f : Nat) :
    Sys2Proof.Laws.Classified.Statement (.wait f) := ⟨nofun, fun h => absurd rfl h⟩
theorem Sys2Proof.Laws.Classified.inval (f : Nat) :
    Sys2Proof.Laws.Classified.Statement (.inval f) := ⟨nofun, fun h => absurd rfl h⟩
theorem Sys2Proof.Laws.Classified.invalComplete (id : Nat) :
    Sys2Proof.Laws.Classified.Statement (.invalComplete id) := ⟨nofun, fun h => absurd rfl h⟩
theorem Sys2Proof.Laws.Classified.ctxswSave (f : Nat) :
    Sys2Proof.Laws.Classified.Statement (.ctxswSave f) := ⟨nofun, fun h => absurd rfl h⟩
theorem Sys2Proof.Laws.Classified.ctxswResume (f : Nat) :
    Sys2Proof.Laws.Classified.Statement (.ctxswResume f) := ⟨nofun, fun h => absurd rfl h⟩
theorem Sys2Proof.Laws.Classified.nodeStart (f : Nat) (idx : Nat) :
    Sys2Proof.Laws.Classified.Statement (.nodeStart f idx) := ⟨nofun, fun h => absurd rfl h⟩
theorem Sys2Proof.Laws.Classified.workObjectEnd (f : Nat) (level : Level) (idx : Nat) :
    Sys2Proof.Laws.Classified.Statement (.workObjectEnd f level idx) := ⟨nofun, fun h => absurd rfl h⟩
theorem Sys2Proof.Laws.Classified.nodeDeadlineExpire (f : Nat) (idx : Nat) :
    Sys2Proof.Laws.Classified.Statement (.nodeDeadlineExpire f idx) := ⟨nofun, fun h => absurd rfl h⟩
theorem Sys2Proof.Laws.Classified.phaseDeadlineExpire (f : Nat) (idx : Nat) :
    Sys2Proof.Laws.Classified.Statement (.phaseDeadlineExpire f idx) := ⟨nofun, fun h => absurd rfl h⟩
theorem Sys2Proof.Laws.Classified.cancelHang (f : Nat) (level : Level) (idx : Nat) :
    Sys2Proof.Laws.Classified.Statement (.cancelHang f level idx) := ⟨nofun, fun h => absurd rfl h⟩
theorem Sys2Proof.Laws.Classified.fanswerRetry (f : Nat) (tag : BitVec 32) :
    Sys2Proof.Laws.Classified.Statement (.fanswerRetry f tag) := ⟨nofun, fun h => absurd rfl h⟩
theorem Sys2Proof.Laws.Classified.fanswerDeliver (f : Nat) (tag : BitVec 32) :
    Sys2Proof.Laws.Classified.Statement (.fanswerDeliver f tag) := ⟨nofun, fun h => absurd rfl h⟩
theorem Sys2Proof.Laws.Classified.fanswerAbort (f : Nat) (tag : BitVec 32) :
    Sys2Proof.Laws.Classified.Statement (.fanswerAbort f tag) := ⟨nofun, fun h => absurd rfl h⟩
theorem Sys2Proof.Laws.Classified.tenantSliceEnd (cluster : Nat) :
    Sys2Proof.Laws.Classified.Statement (.tenantSliceEnd cluster) := ⟨nofun, fun h => absurd rfl h⟩
theorem Sys2Proof.Laws.Classified.drainTimeout (uid : Nat) :
    Sys2Proof.Laws.Classified.Statement (.drainTimeout uid) := ⟨nofun, fun h => absurd rfl h⟩
theorem Sys2Proof.Laws.Classified.unitSave (uid : Nat) :
    Sys2Proof.Laws.Classified.Statement (.unitSave uid) := ⟨nofun, fun h => absurd rfl h⟩
theorem Sys2Proof.Laws.Classified.forcedSave (uid : Nat) :
    Sys2Proof.Laws.Classified.Statement (.forcedSave uid) := ⟨nofun, fun h => absurd rfl h⟩
theorem Sys2Proof.Laws.Classified.quartzContextSave (cluster : Nat) (ctx : Nat) :
    Sys2Proof.Laws.Classified.Statement (.quartzContextSave cluster ctx) := ⟨nofun, fun h => absurd rfl h⟩
theorem Sys2Proof.Laws.Classified.unitRestore (f : Nat) (idx : Nat) (cohort : Nat) :
    Sys2Proof.Laws.Classified.Statement (.unitRestore f idx cohort) := ⟨nofun, fun h => absurd rfl h⟩
theorem Sys2Proof.Laws.Classified.ctxswSliceTimeout (f : Nat) :
    Sys2Proof.Laws.Classified.Statement (.ctxswSliceTimeout f) := ⟨nofun, fun h => absurd rfl h⟩
theorem Sys2Proof.Laws.Classified.unitRelaunch (uid : Nat) :
    Sys2Proof.Laws.Classified.Statement (.unitRelaunch uid) := ⟨nofun, fun h => absurd rfl h⟩
theorem Sys2Proof.Laws.Classified.homeReadRequest (pa : Nat) (who : Requester) :
    Sys2Proof.Laws.Classified.Statement (.homeReadRequest pa who) := ⟨nofun, fun h => absurd rfl h⟩
theorem Sys2Proof.Laws.Classified.homeWriteRequest (id : Nat) :
    Sys2Proof.Laws.Classified.Statement (.homeWriteRequest id) := ⟨nofun, fun h => absurd rfl h⟩
theorem Sys2Proof.Laws.Classified.homeAtomic (id : Nat) :
    Sys2Proof.Laws.Classified.Statement (.homeAtomic id) := ⟨nofun, fun h => absurd rfl h⟩
theorem Sys2Proof.Laws.Classified.updRegistration (id : Nat) :
    Sys2Proof.Laws.Classified.Statement (.updRegistration id) := ⟨nofun, fun h => absurd rfl h⟩
theorem Sys2Proof.Laws.Classified.homeCwb (id : Nat) :
    Sys2Proof.Laws.Classified.Statement (.homeCwb id) := ⟨nofun, fun h => absurd rfl h⟩
theorem Sys2Proof.Laws.Classified.dropNotice (die : Nat) (line : Nat) :
    Sys2Proof.Laws.Classified.Statement (.dropNotice die line) := ⟨nofun, fun h => absurd rfl h⟩
theorem Sys2Proof.Laws.Classified.writeApply (die : Nat) (home : Nat) :
    Sys2Proof.Laws.Classified.Statement (.writeApply die home) := ⟨nofun, fun h => absurd rfl h⟩
theorem Sys2Proof.Laws.Classified.lineFill (die : Nat) (line : Nat) :
    Sys2Proof.Laws.Classified.Statement (.lineFill die line) := ⟨nofun, fun h => absurd rfl h⟩
theorem Sys2Proof.Laws.Classified.l1CopyExpire (core : Nat) (sector : Nat) :
    Sys2Proof.Laws.Classified.Statement (.l1CopyExpire core sector) := ⟨nofun, fun h => absurd rfl h⟩
theorem Sys2Proof.Laws.Classified.partialEvict (core : Nat) (sector : Nat) :
    Sys2Proof.Laws.Classified.Statement (.partialEvict core sector) := ⟨nofun, fun h => absurd rfl h⟩
theorem Sys2Proof.Laws.Classified.collectorEvict (die : Nat) (sector : Nat) :
    Sys2Proof.Laws.Classified.Statement (.collectorEvict die sector) := ⟨nofun, fun h => absurd rfl h⟩
theorem Sys2Proof.Laws.Classified.directoryError (line : Nat) (dataCorrect : Bool) :
    Sys2Proof.Laws.Classified.Statement (.directoryError line dataCorrect) := ⟨nofun, fun h => absurd rfl h⟩
theorem Sys2Proof.Laws.Classified.hostRead (pa : Nat) (n : Nat) :
    Sys2Proof.Laws.Classified.Statement (.hostRead pa n) := ⟨nofun, fun h => absurd rfl h⟩
theorem Sys2Proof.Laws.Classified.hostWrite (pa : Nat) (data : List Byte) :
    Sys2Proof.Laws.Classified.Statement (.hostWrite pa data) := ⟨nofun, fun h => absurd rfl h⟩
theorem Sys2Proof.Laws.Classified.hostHomeUpdate (die : Nat) (line : Nat) (invalidate : Bool) :
    Sys2Proof.Laws.Classified.Statement (.hostHomeUpdate die line invalidate) := ⟨nofun, fun h => absurd rfl h⟩
theorem Sys2Proof.Laws.Classified.h1CoherentLoss :
    Sys2Proof.Laws.Classified.Statement .h1CoherentLoss := ⟨nofun, fun h => absurd rfl h⟩
theorem Sys2Proof.Laws.Classified.fabricMessageReceive (port : Nat) (sub : Nat) (ppid : Nat) (f : Nat) (va : Nat) (kind : BitVec 3) (data : List Byte) :
    Sys2Proof.Laws.Classified.Statement (.fabricMessageReceive port sub ppid f va kind data) := ⟨nofun, fun h => absurd rfl h⟩
theorem Sys2Proof.Laws.Classified.fabricWakeReceive (port : Nat) (sub : Nat) (ppid : Nat) (f : Nat) :
    Sys2Proof.Laws.Classified.Statement (.fabricWakeReceive port sub ppid f) := ⟨nofun, fun h => absurd rfl h⟩
theorem Sys2Proof.Laws.Classified.eccCorrected (pa : Nat) (f : Nat) (va : Option Nat) (where_ : EccSite) (site : BitVec 32) :
    Sys2Proof.Laws.Classified.Statement (.eccCorrected pa f va where_ site) := ⟨nofun, fun h => absurd rfl h⟩
theorem Sys2Proof.Laws.Classified.eccUncorrectable (pa : Nat) (f : Nat) (va : Option Nat) (where_ : EccSite) (site : BitVec 32) :
    Sys2Proof.Laws.Classified.Statement (.eccUncorrectable pa f va where_ site) := ⟨nofun, fun h => absurd rfl h⟩
theorem Sys2Proof.Laws.Classified.collapseBegin (f : Nat) :
    Sys2Proof.Laws.Classified.Statement (.collapseBegin f) := ⟨nofun, fun h => absurd rfl h⟩
theorem Sys2Proof.Laws.Classified.wakeWrite (f : Nat) (value : BitVec 32) :
    Sys2Proof.Laws.Classified.Statement (.wakeWrite f value) := ⟨nofun, fun h => absurd rfl h⟩
theorem Sys2Proof.Laws.Classified.wakeEnd (f : Nat) :
    Sys2Proof.Laws.Classified.Statement (.wakeEnd f) := ⟨nofun, fun h => absurd rfl h⟩
theorem Sys2Proof.Laws.Classified.fabricWakeSend (value : BitVec 64) :
    Sys2Proof.Laws.Classified.Statement (.fabricWakeSend value) := ⟨nofun, fun h => absurd rfl h⟩
theorem Sys2Proof.Laws.Classified.partitionEnable (p : Nat) (value : BitVec 64) :
    Sys2Proof.Laws.Classified.Statement (.partitionEnable p value) := ⟨nofun, fun h => absurd rfl h⟩
theorem Sys2Proof.Laws.Classified.partitionDisable (p : Nat) (value : BitVec 64) :
    Sys2Proof.Laws.Classified.Statement (.partitionDisable p value) := ⟨nofun, fun h => absurd rfl h⟩
theorem Sys2Proof.Laws.Classified.functionCreate (f : Nat) (value : BitVec 512) :
    Sys2Proof.Laws.Classified.Statement (.functionCreate f value) := ⟨nofun, fun h => absurd rfl h⟩
theorem Sys2Proof.Laws.Classified.functionDisable (f : Nat) (value : BitVec 512) :
    Sys2Proof.Laws.Classified.Statement (.functionDisable f value) := ⟨nofun, fun h => absurd rfl h⟩
theorem Sys2Proof.Laws.Classified.keyInstall (value : BitVec 64) :
    Sys2Proof.Laws.Classified.Statement (.keyInstall value) := ⟨nofun, fun h => absurd rfl h⟩
theorem Sys2Proof.Laws.Classified.keyZeroise (value : BitVec 64) :
    Sys2Proof.Laws.Classified.Statement (.keyZeroise value) := ⟨nofun, fun h => absurd rfl h⟩
theorem Sys2Proof.Laws.Classified.psplitWrite (value : BitVec 64) :
    Sys2Proof.Laws.Classified.Statement (.psplitWrite value) := ⟨nofun, fun h => absurd rfl h⟩
theorem Sys2Proof.Laws.Classified.repairSoftRow (value : BitVec 128) :
    Sys2Proof.Laws.Classified.Statement (.repairSoftRow value) := ⟨nofun, fun h => absurd rfl h⟩
theorem Sys2Proof.Laws.Classified.softRepairComplete :
    Sys2Proof.Laws.Classified.Statement .softRepairComplete := ⟨nofun, fun h => absurd rfl h⟩
theorem Sys2Proof.Laws.Classified.repairHardRow (value : BitVec 128) :
    Sys2Proof.Laws.Classified.Statement (.repairHardRow value) := ⟨nofun, fun h => absurd rfl h⟩
theorem Sys2Proof.Laws.Classified.repairArrayColumn (value : BitVec 128) :
    Sys2Proof.Laws.Classified.Statement (.repairArrayColumn value) := ⟨nofun, fun h => absurd rfl h⟩
theorem Sys2Proof.Laws.Classified.repairArrayRow (value : BitVec 128) :
    Sys2Proof.Laws.Classified.Statement (.repairArrayRow value) := ⟨nofun, fun h => absurd rfl h⟩
theorem Sys2Proof.Laws.Classified.repairCluster (value : BitVec 128) :
    Sys2Proof.Laws.Classified.Statement (.repairCluster value) := ⟨nofun, fun h => absurd rfl h⟩
theorem Sys2Proof.Laws.Classified.repairSramRow (value : BitVec 128) :
    Sys2Proof.Laws.Classified.Statement (.repairSramRow value) := ⟨nofun, fun h => absurd rfl h⟩
theorem Sys2Proof.Laws.Classified.repairD2dLane (value : BitVec 128) :
    Sys2Proof.Laws.Classified.Statement (.repairD2dLane value) := ⟨nofun, fun h => absurd rfl h⟩
theorem Sys2Proof.Laws.Classified.repairFabricLane (value : BitVec 128) :
    Sys2Proof.Laws.Classified.Statement (.repairFabricLane value) := ⟨nofun, fun h => absurd rfl h⟩
theorem Sys2Proof.Laws.Classified.pclr (value : BitVec 64) :
    Sys2Proof.Laws.Classified.Statement (.pclr value) := ⟨nofun, fun h => absurd rfl h⟩
theorem Sys2Proof.Laws.Classified.attest (value : BitVec 128) :
    Sys2Proof.Laws.Classified.Statement (.attest value) := ⟨nofun, fun h => absurd rfl h⟩
theorem Sys2Proof.Laws.Classified.powerThrottle (us : Nat) :
    Sys2Proof.Laws.Classified.Statement (.powerThrottle us) := ⟨nofun, fun h => absurd rfl h⟩
theorem Sys2Proof.Laws.Classified.packageReset (fw : Firmware) (h1Coherent : Bool) (failStep : Option (Nat × Nat)) :
    Sys2Proof.Laws.Classified.Statement (.packageReset fw h1Coherent failStep) := ⟨nofun, fun h => absurd rfl h⟩
theorem Sys2Proof.Laws.Classified.recoveryImage (fw : Firmware) (b : BringUp) :
    Sys2Proof.Laws.Classified.Statement (.recoveryImage fw b) := ⟨nofun, fun h => absurd rfl h⟩
theorem Sys2Proof.Laws.Classified.certChainRead :
    Sys2Proof.Laws.Classified.Statement .certChainRead := ⟨nofun, fun h => absurd rfl h⟩
theorem Sys2Proof.Laws.Classified.registerWrite (w : RegWrite) :
    Sys2Proof.Laws.Classified.Statement (.registerWrite w) := ⟨nofun, fun h => absurd rfl h⟩
theorem Sys2Proof.Laws.Classified.collapseComplete (f : Nat) :
    Sys2Proof.Laws.Classified.Statement (.collapseComplete f) := ⟨nofun, fun h => absurd rfl h⟩
theorem Sys2Proof.Laws.Classified.attestComplete :
    Sys2Proof.Laws.Classified.Statement .attestComplete := ⟨nofun, fun h => absurd rfl h⟩
theorem Sys2Proof.Laws.Classified.linkLaneError (fabric : Bool) (boundary : Nat) (lane : Nat) :
    Sys2Proof.Laws.Classified.Statement (.linkLaneError fabric boundary lane) := ⟨nofun, fun h => absurd rfl h⟩
end

