-- ==== Sys2Proof/Laws/Words.lean ====
section
/-! SUPPORT. What the destination writes of a word do: registers, pairs and predicates by lane, s-registers of a unit and
of a Quartz context. -/

namespace Sys2Proof.Laws

open Machine

-- Threads of a unit.

@[simp] theorem thread_setThread (u : Unit_) (t n : Nat) (x : Thread) :
    (u.setThread t x).thread n = if n = t then x else u.thread n := NatMap.get_set _ _ _ _ _

theorem setThread_frame (u : Unit_) (t : Nat) (x : Thread) : { u.setThread t x with threads := u.threads } = u := rfl

@[simp] theorem reg_setReg (t : Thread) (n m : Nat) (v : Word) : (t.setReg n v).reg m = if m = n then v else t.reg m :=
  NatMap.get_set _ _ _ _ _

theorem setReg_frame (t : Thread) (n : Nat) (v : Word) : { t.setReg n v with r := t.r } = t := rfl

/-- Bit `k` of the predicates after predicate `n` is written. -/
theorem pred_setPred (t : Thread) {n k : Nat} (v : Bool) (hn : n < 8) (hk : k < 8) :
    (t.setPred n v).pred k = if k = n then v else t.pred k := by
  have e : (1#8 <<< n).getLsbD k = decide (k = n) := by
    interval_cases n <;> interval_cases k <;> rfl
  unfold Thread.setPred Thread.pred
  cases v <;> simp only [Bool.false_eq_true, if_false, if_true, BitVec.getLsbD_and, BitVec.getLsbD_or, BitVec.getLsbD_not, e] <;>
    by_cases h : k = n <;> simp [h, hk, hn]

theorem setPred_frame (t : Thread) (n : Nat) (v : Bool) : { t.setPred n v with p := t.p } = t := rfl

/-- Change the threads of some lanes, one after the other. -/
def onLanes (T : Nat → Nat) (upd : Nat → Thread → Thread) (l : List Nat) (u : Unit_) : Unit_ :=
  l.foldl (fun u m => u.modThread (T m) (upd m)) u

theorem onLanes_frame (T : Nat → Nat) (upd : Nat → Thread → Thread) (l : List Nat) :
    ∀ u, { onLanes T upd l u with threads := u.threads } = u := by
  induction l with
  | nil => intro u; rfl
  | cons m r ih =>
    intro u
    have := ih (u.modThread (T m) (upd m))
    exact congrArg (fun w : Unit_ => { w with threads := u.threads }) this

/-- A property of a thread that every update keeps. -/
theorem onLanes_kept {P : Thread → Prop} (T : Nat → Nat) (upd : Nat → Thread → Thread) (th : Nat) (l : List Nat)
    (hupd : ∀ m ∈ l, T m = th → ∀ x, P x → P (upd m x)) : ∀ u : Unit_, P (u.thread th) → P ((onLanes T upd l u).thread th) := by
  induction l with
  | nil => intro u h; exact h
  | cons m r ih =>
    intro u h
    refine ih (fun n hn => hupd n (by simp [hn])) (u.modThread (T m) (upd m)) ?_
    unfold Unit_.modThread
    rw [thread_setThread]
    split
    · rename_i e; rw [← e]; exact hupd m (by simp) e.symm _ (by rw [e] at h ⊢; exact h)
    · exact h

/-- A property of a thread that the update of its own lane brings about, and that the other lanes of it keep. -/
theorem onLanes_made {P : Thread → Prop} (T : Nat → Nat) (upd : Nat → Thread → Thread) (m0 : Nat) (l : List Nat)
    (hm : m0 ∈ l) (hmade : ∀ x, P (upd m0 x)) (hkeep : ∀ m ∈ l, T m = T m0 → ∀ x, P (upd m x)) :
    ∀ u : Unit_, P ((onLanes T upd l u).thread (T m0)) := by
  induction l with
  | nil => simp at hm
  | cons m r ih =>
    intro u
    by_cases h : m0 ∈ r
    · exact ih h (fun n hn => hkeep n (by simp [hn])) _
    · have e : m = m0 := by
        rcases List.mem_cons.mp hm with e | e
        · exact e.symm
        · exact absurd e h
      subst e
      refine onLanes_kept T upd (T m) r (fun n hn hT x _ => hkeep n (by simp [hn]) hT x) _ ?_
      unfold Unit_.modThread
      simp [hmade]

/-- Registers written lane by lane: `ds` lists the registers, `v m` their values in lane `m`. -/
theorem threadRegs_onLanes {s : State} {c : Cap} (d : Nat) (v : Nat → Word) (u : Unit_) :
    ThreadRegs s c u (onLanes (laneThread s c.agent) (fun m x => x.setReg d (v m)) c.active u) (fun m => [(d, v m)]) := by
  refine ⟨?_, ?_, ?_⟩
  · intro m hm hsole p hp
    simp only [List.mem_singleton] at hp
    subst hp
    refine onLanes_made (P := fun x => x.reg d = v m) _ _ m _ hm (fun x => by simp) (fun n hn hT x => ?_) u
    rw [hsole n hn hT]; simp
  · intro th n hn
    refine onLanes_kept (P := fun x => x.reg n = (u.thread th).reg n) _ _ th _ (fun m hm hT x hx => ?_) u rfl
    have := hn m hm hT
    simp only [List.map_cons, List.map_nil, List.mem_singleton] at this
    simp [this, hx]
  · intro th
    exact onLanes_kept (P := fun x => { x with r := (u.thread th).r } = u.thread th) (laneThread s c.agent)
      (fun m x => x.setReg d (v m)) th _ (fun m _ _ x hx => hx) u rfl

theorem threadPreds_onLanes {s : State} {c : Cap} {n : Nat} (hn : n < 8) (v : Nat → Bool) (u : Unit_) :
    ThreadPreds s c u (onLanes (laneThread s c.agent) (fun m x => x.setPred n (v m)) c.active u) n v := by
  refine ⟨?_, ?_, ?_⟩
  · intro m hm hsole
    refine onLanes_made (P := fun x => x.pred n = v m) _ _ m _ hm (fun x => by simp [pred_setPred x _ hn hn]) (fun k hk hT x => ?_) u
    rw [hsole k hk hT]; simp [pred_setPred x _ hn hn]
  · intro th k hk hne
    refine onLanes_kept (P := fun x => x.pred k = (u.thread th).pred k) _ _ th _ (fun m hm hT x hx => ?_) u rfl
    have h : k ≠ n := fun e => hne e m hm hT
    simp [pred_setPred x _ hn hk, h, hx]
  · intro th
    exact onLanes_kept (P := fun x => { x with p := (u.thread th).p } = u.thread th) (laneThread s c.agent)
      (fun m x => x.setPred n (v m)) th _ (fun m _ _ x hx => hx) u rfl

-- The destination writers.

section group

variable {i : Instr} {s : State} {k sl f l : Nat} {fr : Front} {c : Cap} {g : Group} {u : Unit_}

theorem foldl_lanes (T : Nat → Nat) (d : Nat) (v : Nat → Word) (l : List Nat) : ∀ u : Unit_,
    (l.map (fun m => (m, v m))).foldl (fun u p => u.modThread (T p.1) (fun t => t.setReg d p.2)) u
      = onLanes T (fun m x => x.setReg d (v m)) l u := by
  induction l with
  | nil => intro u; rfl
  | cons m r ih => intro u; exact ih _

/-- What writeLanes does to the unit, in the active lanes. -/
theorem writeLanes_unit (hg : s.group? k sl = some g) (hu : s.unit? g.uid = some u) (ha : c.agent = .group k sl) (d : Nat)
    (v : Nat → Word) : writeLanes s c d (c.active.map (fun m => (m, v m)))
      = s.setUnit g.uid (some (onLanes (laneThread s c.agent) (fun m x => x.setReg d (v m)) c.active u)) := by
  unfold writeLanes
  rw [uid_of_group ha hg, State.modUnit_some _ hu, foldl_lanes]

/-- writeIv changes one interval of the group. -/
theorem writeIv_group (hg : s.group? k sl = some g) (ha : c.agent = .group k sl) (d : Nat) (n : Iv) :
    (writeIv s c d n = s ∧ d < 480) ∨
      (480 ≤ d ∧ ∃ v, writeIv s c d n = s.setGroup k sl (some { g with iv := ivSet g.iv (d - 480) v })) := by
  by_cases h : d < 480
  · exact .inl ⟨by simp [writeIv, h], h⟩
  · exact .inr ⟨by omega, _, by simp only [writeIv, h, if_false, ha]; exact State.modGroup_some _ hg _⟩

theorem ivGet_ivSet_ne (m : NatMap Iv) {n k : Nat} (v : Iv) (h : k ≠ n) : ivGet (ivSet m n v) k = ivGet m k :=
  NatMap.get_set_ne _ _ _ h

/-- A performed word whose meaning leaves the intervals `iv1` and the threads `ths`, and changes nothing else. -/
theorem finish_threads (h : OnGroup i s k sl f l fr c g u) {s1 : State} {iv1 : NatMap Iv} {ths : NatMap Thread} {ds : List Nat}
    {wr : Nat → List (Nat × Word)} (rest : { s1 with units := s.units, groups := s.groups } = tokenAcquire s u i)
    (units : ∀ n, n ≠ g.uid → s1.unit? n = s.unit? n)
    (groups : ∀ n, n ≠ 32 * k + sl → NatMap.get none s1.groups n = NatMap.get none s.groups n)
    (hg1 : s1.group? k sl = some { g with iv := iv1 })
    (hiv : ∀ n, 480 + n ∉ ds → ivGet iv1 n = ivGet g.iv n) (hu1 : s1.unit? g.uid = some { u with threads := ths })
    (hr : ThreadRegs s c u { u with threads := ths } wr) :
    ∃ t, finish s (.group k sl) c g.uid f (.ok s1) = .next t ∧ WroteThreads i s t k sl fr c g u ds wr := by
  have hfr : ({ g with iv := iv1 } : Group).front = fr := by
    have := h.front; simp [frontOf, h.group] at this; exact this
  have hq : Reported s1 := by
    have e := congrArg State.reports rest
    simp only [tokenAcquire_reports] at e
    exact e.trans h.quiet
  refine ⟨_, rfl, ?_⟩
  have adv := advance_group (c := c) hg1 (u1 := { u with threads := ths }) hu1 hfr h.goes
  simp only at adv
  rcases adv with e | ⟨e0, e⟩
  · rw [e, flushReports_quiet (by exact hq)]
    refine ⟨⟨rest, fun n hn => ?_, fun n hn => ?_⟩, { g with iv := iv1, front := frontAfter fr c },
      unitAfter { u with threads := ths } c, ?_, ?_, rfl, hiv, rfl, ⟨hr.written, hr.kept, hr.others⟩⟩
    · simpa [hn] using units n hn
    · simpa [State.setGroup, NatMap.get_set, hn] using groups n hn
    · simp
    · simp
  · rw [e, flushReports_quiet (by exact hq)]
    refine ⟨⟨rest, fun n hn => ?_, fun n hn => ?_⟩, { g with iv := iv1, front := frontAfter fr c },
      { u with threads := ths }, ?_, ?_, rfl, hiv, ?_, hr⟩
    · simpa using units n hn
    · simpa [State.setGroup, NatMap.get_set, hn] using groups n hn
    · simp
    · simpa using hu1
    · simp [unitAfter, e0]

/-- The groups and units that a token's acquire leaves. -/
theorem acquired (hg : s.group? k sl = some g) (hu : s.unit? g.uid = some u) (ha : c.agent = .group k sl) :
    (tokenAcquire s u i).group? k sl = some g ∧ (tokenAcquire s u i).unit? g.uid = some u ∧
      laneThread (tokenAcquire s u i) c.agent = laneThread s c.agent ∧
      ∀ n, (tokenAcquire s u i).unit? n = s.unit? n := by
  have hg0 : (tokenAcquire s u i).group? k sl = some g := by
    unfold State.group?; rw [tokenAcquire_groups]; exact hg
  have hul (n : Nat) : (tokenAcquire s u i).unit? n = s.unit? n := by
    unfold State.unit?; rw [tokenAcquire_units]
  refine ⟨hg0, (hul _).trans hu, ?_, hul⟩
  funext m; simp [laneThread, ha, groupOf, hg0, hg]

/-- After the threads of the unit have changed. -/
theorem setUnit_rest (x : Option Unit_) :
    { (tokenAcquire s u i).setUnit g.uid x with units := s.units, groups := s.groups } = tokenAcquire s u i := by
  have e := tokenAcquire_units s u i
  have e2 := tokenAcquire_groups s u i
  generalize tokenAcquire s u i = a at *
  rw [← e, ← e2]
  rfl

/-- A change of the unit's threads alone, with or without one of the group's intervals. -/
theorem finish_lanes (h : OnGroup i s k sl f l fr c g u) {d : Nat} {ths : NatMap Thread} {wr : Nat → List (Nat × Word)}
    (hr : ThreadRegs s c u { u with threads := ths } wr) (n : Iv) :
    ∃ t, finish s (.group k sl) c g.uid f
      (.ok (writeIv ((tokenAcquire s u i).setUnit g.uid (some { u with threads := ths })) c d n)) = .next t ∧
      WroteThreads i s t k sl fr c g u [d] wr := by
  obtain ⟨ha, -⟩ := capture_group h.operands
  obtain ⟨hg0, -, -, hul⟩ := acquired (i := i) h.group h.unit ha
  have hg1 : ((tokenAcquire s u i).setUnit g.uid (some { u with threads := ths })).group? k sl = some g := hg0
  have units : ∀ n, n ≠ g.uid → ((tokenAcquire s u i).setUnit g.uid (some { u with threads := ths })).unit? n = s.unit? n :=
    fun n hn => by rw [State.unit_setUnit, if_neg hn]; exact hul n
  have groups : ∀ n, NatMap.get none ((tokenAcquire s u i).setUnit g.uid (some { u with threads := ths })).groups n
      = NatMap.get none s.groups n := fun n => by rw [State.setUnit_groups, tokenAcquire_groups]
  have hu1 : ((tokenAcquire s u i).setUnit g.uid (some { u with threads := ths })).unit? g.uid = some { u with threads := ths } := by
    rw [State.unit_setUnit, if_pos rfl]
  have rest := setUnit_rest (s := s) (u := u) (i := i) (g := g) (some { u with threads := ths })
  generalize (tokenAcquire s u i).setUnit g.uid (some { u with threads := ths }) = s1 at *
  rcases writeIv_group hg1 ha d n with ⟨e1, -⟩ | ⟨hd, w, e1⟩
  · rw [e1]
    exact finish_threads h (iv1 := g.iv) rest units (fun n _ => groups n) hg1 (fun _ _ => rfl) hu1 hr
  · rw [e1]
    refine finish_threads h (iv1 := ivSet g.iv (d - 480) w) rest (fun n hn => units n hn) (fun n hn => ?_)
      (State.group_setGroup_same _ _ _ _) (fun n hn => ?_) hu1 hr
    · rw [← groups n]; simp [State.setGroup, NatMap.get_set, hn]
    · simp only [List.mem_singleton] at hn; exact ivGet_ivSet_ne _ _ (by omega)

/-- The write of a thread register and its interval (R59, R16). -/
theorem finish_writeT (h : OnGroup i s k sl f l fr c g u) (d : Nat) (n : Iv) (v : Nat → Word) :
    ∃ t, finish s (.group k sl) c g.uid f (.ok (writeT (tokenAcquire s u i) c d n v)) = .next t ∧
      WroteThreads i s t k sl fr c g u [d] (fun m => [(d, v m)]) := by
  obtain ⟨ha, -⟩ := capture_group h.operands
  obtain ⟨hg0, hu0, hT, -⟩ := acquired (i := i) h.group h.unit ha
  unfold writeT
  rw [writeLanes_unit hg0 hu0 ha, hT]
  have hr := threadRegs_onLanes (s := s) (c := c) d v u
  have e := onLanes_frame (laneThread s c.agent) (fun m x => x.setReg d (v m)) c.active u
  generalize onLanes (laneThread s c.agent) (fun m x => x.setReg d (v m)) c.active u = u1 at *
  have e2 : u1 = { u with threads := u1.threads } := by rw [← e]
  rw [e2] at hr ⊢
  exact finish_lanes h hr n

end group

end Sys2Proof.Laws
end

