-- ==== Sys2Proof/Tests/Slice0.lean ====
section
/-! SUPPORT. Tests: words written out from the spec's encodings, ill-formed words that check 3 refuses, one step of an
instruction here and there, and for each statement a state that meets its hypotheses. Expected results come from the spec's
worked examples and tables, named in each comment. -/

namespace Sys2Proof.Tests

set_option Elab.async false

open Sys2Proof.Machine
open Sys2Proof.Claims

def g0 : Guard := ⟨false, false, 0⟩

def aop (d : BitVec 9) (s1 s2 s3 : Src) (x : BitVec 3 := 0) (h : Hold := .none) (e : Bool := false) : AOps :=
  ⟨e, d, s1, s2, s3, g0, h, x, false⟩

def mop (d : BitVec 9) (ar : BitVec 4) (ix : Src) (sz : BitVec 3) (ord : Order := .rlx) (scope : BitVec 3 := 0) : MOps :=
  ⟨false, d, ar, ix, 0, g0, sz, ord, scope⟩

-- Worked encodings of chapters 02 to 06, 09, 12, 13, 16 and 20.
theorem test_decode_iadd : decode 0x003E33C281000000 = .word (.iadd (aop 483 (.reg 481) (.lit 4) (.reg 0))) := by decide
theorem test_decode_pair : decode 0x41810058220480E0 =
    .word (.pairWord ⟨false, ⟨3, 4, .reg 11, false, 0⟩, ⟨0x22, 9, .reg 14, false, 0⟩⟩) := by decide
theorem test_decode_st : decode 0x1860623C00020094 =
    .word (.st ⟨false, 6, 2, .reg 480, 16, g0, 4, .rel, 4⟩) := by decide
theorem test_decode_unassigned : decode (BitVec.ofNat 64 (0x01F * 2 ^ 53)) = .unassigned 0x01F := by decide
theorem test_decode_pair_unassigned : decode (BitVec.ofNat 64 (2 ^ 62 + 0x18 * 2 ^ 24)) = .unassigned 0x18 := by decide
theorem test_decode_brc : decode 0x8A27890417FFFFF8 =
    .word (.brc ⟨true, .reg 482, .lit 8, 2, 0x3FFFFFC, false⟩) := by decide
theorem test_decode_cvts : decode 0x14A0500480400002 = .word (.cvts (aop 5 (.reg 2) (.lit 1) (.reg 0) 1)) := by decide
theorem test_decode_ld : decode 0x1840143CBFFF0080 =
    .word (.ld ⟨false, 1, 4, .reg 485, 0xFFF8, g0, 4, .rlx, 0⟩) := by decide
theorem test_decode_atom_addb : decode 0x1B20813C80000049 =
    .word (.atomAddb ⟨false, 8, 1, .reg 484, 0, g0, 2, .acq, 1⟩) := by decide
theorem test_decode_red : decode 0x1C00224000000054 = .word (.redAdd ⟨false, 2, 2, .lit 0, 0, g0, 2, .rel, 4⟩) := by decide
theorem test_decode_upd : decode 0x1E40113C20000000 = .word (.updAddF32 (mop 1 1 (.reg 481) 0)) := by decide
theorem test_decode_fence : decode 0x2000400000000004 = .word (.fence (aop 4 (.reg 0) (.reg 0) (.reg 0) 2)) := by decide
theorem test_decode_cpy : decode 0x20200C0A90000000 = .word (.cpy (aop 0 (.sreg 5) (.lit 64) (.reg 0))) := by decide
theorem test_decode_cpym : decode 0x20400C0A90107800 = .word (.cpym (aop 0 (.sreg 5) (.lit 64) (.lit 15))) := by decide
theorem test_decode_twait : decode 0xA2E0040080400000 =
    .word (.twait (aop 0 (.lit 0) (.lit 1) (.reg 0) 0 .none true)) := by decide
theorem test_decode_topk : decode 0x2320800E00000000 = .word (.topk (aop 8 (.reg 7) (.reg 0) (.reg 0))) := by decide
theorem test_decode_mma : decode 0x2808000801403004 = .word (.mma (aop 128 (.reg 4) (.reg 5) (.reg 6) 2)) := by decide
theorem test_decode_reform : decode 0x8AC0000000000002 =
    .word (.reform (aop 0 (.reg 0) (.reg 0) (.reg 0) 1 .none true)) := by decide
theorem test_decode_xrd : decode 0x30A3C40400000000 = .word (.xrd (aop 60 (.lit 2) (.reg 0) (.reg 0))) := by decide
theorem test_decode_rplw : decode 0x306154008180A000 = .word (.rplw (aop 21 (.lit 0) (.lit 6) (.reg 20))) := by decide
theorem test_decode_tret : decode 0xB020000000000000 =
    .word (.tret (aop 0 (.reg 0) (.reg 0) (.reg 0) 0 .none true)) := by decide
-- Words built from the tables of R25, R29 and R43.
theorem test_decode_movi : decode (BitVec.ofNat 64 (0x027 * 2 ^ 53 + 7 * 2 ^ 44 + 0x200 * 2 ^ 33 + 0xDEADBEEF * 2)) =
    .word (.movi ⟨false, 7, .lit 0, 0xDEADBEEF, false⟩) := by decide
theorem test_decode_dfma : decode (BitVec.ofNat 64 (0x092 * 2 ^ 53 + 2 * 2 ^ 44 + 4 * 2 ^ 33 + 6 * 2 ^ 22 + 8 * 2 ^ 11)) =
    .word (.dfma (aop 2 (.reg 4) (.reg 6) (.reg 8))) := by decide
theorem test_decode_sysc : decode (BitVec.ofNat 64 (2 ^ 63 + 0x187 * 2 ^ 53 + 9 * 2)) =
    .word (.sysc ⟨true, 0, .reg 0, 9, false⟩) := by decide
theorem test_decode_rgrab : decode (BitVec.ofNat 64 (0x189 * 2 ^ 53 + 6 * 2 ^ 44 + 0x203 * 2 ^ 33)) =
    .word (.rgrab (aop 6 (.lit 3) (.reg 0) (.reg 0))) := by decide
theorem test_decode_bar : decode (BitVec.ofNat 64 (2 ^ 63 + 0x110 * 2 ^ 53)) =
    .word (.bar (aop 0 (.reg 0) (.reg 0) (.reg 0) 0 .none true)) := by decide

-- WellFormed: one ill-formed term for each check of R44 row 3.
theorem test_wf_iadd : Instr.wf .vector (.iadd (aop 483 (.reg 481) (.lit 4) (.reg 0))) = true := by decide
theorem test_wf_mbz_refused : Instr.wf .vector (.iadd (aop 0 (.reg 1) (.reg 2) (.reg 3))) = false := by decide
theorem test_wf_x_refused : Instr.wf .vector (.imul (aop 0 (.reg 1) (.reg 2) (.reg 0) 2)) = false := by decide
theorem test_wf_cond_refused : Instr.wf .vector (.brc ⟨true, .reg 0, .reg 1, 10, 0, false⟩) = false := by decide
theorem test_wf_sz_refused : Instr.wf .vector (.ld ⟨false, 0, 0, .reg 0, 0, g0, 7, .rlx, 0⟩) = false := by decide
theorem test_wf_ord_refused : Instr.wf .vector (.st ⟨false, 0, 0, .reg 0, 0, g0, 4, .acq, 0⟩) = false := by decide
-- The compiler's ST with SCOPE 0b111 (chapter 02).
theorem test_wf_scope_refused : Instr.wf .vector (.st ⟨false, 6, 2, .reg 480, 16, g0, 4, .rel, 7⟩) = false := by decide
theorem test_wf_mode_refused : Instr.wf .vector (.mov (aop 0 (.latch 3) (.reg 0) (.reg 0))) = false := by decide
theorem test_wf_quartz_reg_refused : Instr.wf .quartz (.mov (aop 0 (.reg 64) (.reg 0) (.reg 0))) = false := by decide
theorem test_wf_dclass_refused : Instr.wf .vector (.dadd (aop 1 (.reg 2) (.reg 4) (.reg 0))) = false := by decide
-- The pair of chapter 02 whose reads of v4 and v8 fall in one bank.
theorem test_wf_pair_bank_refused : Instr.wf .vector
    (.pairWord ⟨false, ⟨3, 4, .reg 8, false, 0⟩, ⟨0x22, 9, .reg 14, false, 0⟩⟩) = false := by decide
theorem test_wf_pair_ok : Instr.wf .vector
    (.pairWord ⟨false, ⟨3, 4, .reg 11, false, 0⟩, ⟨0x22, 9, .reg 14, false, 0⟩⟩) = true := by decide
theorem test_wf_pair_same_dest_refused : Instr.wf .vector
    (.pairWord ⟨false, ⟨1, 4, .reg 11, false, 0⟩, ⟨1, 4, .reg 14, false, 0⟩⟩) = false := by decide
theorem test_wf_hold_refused : Instr.wf .vector (.mov (aop 0 (.reg 1) (.reg 0) (.reg 0) 0 .s2)) = false := by decide
theorem test_wf_guard_refused : Instr.wf .quartz
    (.mov ⟨false, 0, .reg 1, .reg 0, .reg 0, ⟨true, false, 0⟩, .none, 0, false⟩) = false := by decide
theorem test_class_quartz_refuses_v : Instr.classOk .quartz (.fadd (aop 0 (.reg 1) (.reg 2) (.reg 0))) = false := by decide

-- States to test on, and checks of the conditions that the statements start from.

/-- A group of 32 lanes of the physical function in slot 0 of core 0, after bring-up: v5 of each thread is its lane, a0 is 64
words of global memory at 0x10000, a1 64 words of X, a2 of Y, a3 4 words of global memory with ACT = TRAP. -/
def base : State :=
  { (placeWord State.reset 0).modUnit 0 (fun u => { u with
      a := [(0, ⟨0x10000, 64, 66⟩), (1, ⟨0, 64, 74⟩), (2, ⟨0, 64, 82⟩), (3, ⟨0x10000, 4, 98⟩)]
      threads := (List.range 32).map (fun i => (i, { Thread.start with r := [(5, BitVec.ofNat 32 i)] })) }) with
    boot := ⟨1, 7, 0, false⟩
    tlbs := [(0, [⟨0, 16, 16, 0, false, true, true, 1⟩]), (320, [⟨0, 16, 16, 0, false, true, true, 1⟩])] }

/-- The same with one lane. -/
def single : State := base.modGroup 0 0 (fun g => { g with lanes := [(0, some 0)] })

/-- A context in place 0 of the Quartz core of cluster 0. -/
def quartz : State :=
  { placeWord State.reset 0x2808000801403004 with boot := ⟨1, 7, 0, false⟩ }

/-- Privileged, with one replay entry of `IADD v3, v1, v2`. -/
def entryAdd : ReplayEntry := ⟨0x0020300200800000, 0x8000, 0xFFFFFFFF, 0, [], [], [], [], none, none⟩
def priv (s : State) (q : List ReplayEntry) : State :=
  (s.modGroup 0 0 (fun g => { g with front := { g.front with priv := true, replay := q } })).modCtx 0 0
    (fun x => { x with front := { x.front with priv := true, replay := q } })

def goes (o : Host.Outcome State Fault Refusal) : Bool :=
  match o with
  | .next _ => true
  | _ => false

theorem next_of {o : Host.Outcome State Fault Refusal} (h : goes o = true) : ∃ t, o = .next t := by
  cases o with
  | next t => exact ⟨t, rfl⟩
  | _ => simp [goes] at h

/-- A property of the next state. -/
def after (o : Host.Outcome State Fault Refusal) (p : State → Bool) : Bool :=
  match o with
  | .next t => p t
  | _ => false

def issuesB (i : Instr) (s : State) (a : Agent) (f l : Nat) (fr : Front) : Bool :=
  decide (s.cur = some a) && decide (agentLaunch s a = some (f, l)) && decide (fr.hold = none) && !standing s a fr
    && !behind fr i && !(mayStand i && !i.eBit && !fr.priv && (s.later || fr.unfinished != [])) && decide (checkWord s a fr (recOf s f l) i = none) && !scoreboard s a i && !(fr.priv && isNested i) && decide (s.reports = [])

def onGroupB (i : Instr) (s : State) (k sl f l : Nat) (P : Front → Cap → Group → Unit_ → Bool) : Bool :=
  match frontOf s (.group k sl), s.group? k sl with
  | some fr, some g =>
    (match s.unit? g.uid, capture s (.group k sl) i ((encode i).getD 0) fr with
     | some u, some c =>
       issuesB i s (.group k sl) f l fr && !u.stopping && decide (mismatch s u c = 0) && P fr c g u
     | _, _ => false)
  | _, _ => false

theorem issues_of {i : Instr} {s : State} {a : Agent} {f l : Nat} {fr : Front} {c : Cap} (h : issuesB i s a f l fr = true)
    (hf : frontOf s a = some fr) (hc : capture s a i ((encode i).getD 0) fr = some c) : Issues i s a f l fr c := by
  simp only [issuesB, Bool.and_eq_true, decide_eq_true_eq, Bool.not_eq_true'] at h
  obtain ⟨⟨⟨⟨⟨⟨⟨⟨⟨h1, h2⟩, h3⟩, h4⟩, h9⟩, h10⟩, h5⟩, h6⟩, h7⟩, h8⟩ := h
  exact ⟨h1, hf, h2, h3, h4, hc, h9, h10, h5, h6, h7, h8⟩

theorem onGroup_of {i : Instr} {s : State} {k sl f l : Nat} {P : Front → Cap → Group → Unit_ → Bool}
    (h : onGroupB i s k sl f l P = true) : ∃ fr c g u, OnGroup i s k sl f l fr c g u ∧ P fr c g u = true := by
  unfold onGroupB at h
  split at h
  · rename_i fr g hf hg
    split at h
    · rename_i u c hu hc
      simp only [Bool.and_eq_true, decide_eq_true_eq, Bool.not_eq_true'] at h
      obtain ⟨⟨⟨h1, h9⟩, h10⟩, h11⟩ := h
      exact ⟨fr, c, g, u, ⟨issues_of h1 hf hc, hg, hu, h9, h10⟩, h11⟩
    · simp at h
  · simp at h

def onQuartzB (i : Instr) (s : State) (cl x f l : Nat) (P : Front → Cap → Ctx → Bool) : Bool :=
  match frontOf s (.quartz cl x), s.ctx? cl x with
  | some fr, some q =>
    (match capture s (.quartz cl x) i ((encode i).getD 0) fr with
     | some c => issuesB i s (.quartz cl x) f l fr && P fr c q
     | _ => false)
  | _, _ => false

theorem onQuartz_of {i : Instr} {s : State} {cl x f l : Nat} {P : Front → Cap → Ctx → Bool}
    (h : onQuartzB i s cl x f l P = true) : ∃ fr c q, OnQuartz i s cl x f l fr c q ∧ P fr c q = true := by
  unfold onQuartzB at h
  split at h
  · rename_i fr q hf hq
    split at h
    · rename_i c hc
      simp only [Bool.and_eq_true] at h
      exact ⟨fr, c, q, ⟨issues_of h.1 hf hc, hq⟩, h.2⟩
    · simp at h
  · simp at h

/-- A partial function that is defined on a list has a total one that agrees with it there. -/
theorem total_of {α : Type} (d : α) (f : Nat → Option α) (l : List Nat) (h : l.all (fun m => (f m).isSome) = true) :
    ∃ v : Nat → α, ∀ m ∈ l, f m = some (v m) := by
  refine ⟨fun m => (f m).getD d, fun m hm => ?_⟩
  have := List.all_eq_true.mp h m hm
  obtain ⟨v, hv⟩ := Option.isSome_iff_exists.mp this
  simp [hv]

theorem room_of {s : State} (h : s.dies = []) (n : Nat) (hn : n < 8192) : L2Room s n := by
  intro d line
  simpa [setLines, State.die, h, NatMap.get, DieSt.reset] using hn

/-- The tables of a state by which it is settled: no unit's threads wait for a fence, and the L1s stand empty. -/
def settledB (s : State) : Bool :=
  decide (s.sent = []) && decide (s.performed = []) && decide (s.dir = []) && decide (s.dies = []) &&
    s.cores.all (fun p => decide (p.2.l1 = []) && decide (p.2.partials = [])) &&
    s.units.all (fun p => p.2.all (fun u => u.threads.all (fun x => decide (x.2.fence = []))))

/-- What holds of the value of an unlisted key and of each listed one holds of every value. -/
theorem get_all {α : Type} (P : α → Prop) {d : α} {m : NatMap α} (h0 : P d) (h : ∀ p ∈ m, P p.2) (n : Nat) :
    P (NatMap.get d m n) := by
  induction m with
  | nil => exact h0
  | cons x r ih =>
    simp only [NatMap.get]
    split
    · exact h x (by simp)
    · exact ih (fun p hp => h p (by simp [hp]))

theorem settled_of {s : State} (h : settledB s = true) : Settled s := by
  simp only [settledB, Bool.and_eq_true, decide_eq_true_eq, List.all_eq_true] at h
  obtain ⟨⟨⟨⟨⟨h1, h2⟩, h3⟩, h4⟩, h5⟩, h6⟩ := h
  refine ⟨h1, h2, fun sec => by simp [dirOf, h3, DirEntry.idle], fun pa _ => by simp [dirOf, h3, DirEntry.idle], ?_, ?_,
    room_of h4 64 (by omega)⟩
  · intro n u th hu id hid
    have hf : (u.thread th).fence = [] := by
      have hall := get_all (d := none) (m := s.units) (fun o : Option Unit_ => ∀ v, o = some v → ∀ x ∈ v.threads, x.2.fence = [])
        (by simp) (fun p hp v hv x hx => by
          have := h6 p hp
          rw [hv] at this
          simp only [Option.all_some, List.all_eq_true, decide_eq_true_eq] at this
          exact this x hx) n u hu
      exact get_all (fun t : Thread => t.fence = []) rfl hall th
    rw [hf] at hid
    exact absurd hid (by simp)
  · intro k
    have := get_all (d := CoreSt.reset) (m := s.cores) (fun c : CoreSt => c.l1 = [] ∧ c.partials = []) ⟨rfl, rfl⟩ h5 k
    have h7 : (s.core k).l1 = [] ∧ (s.core k).partials = [] := this
    simp [l1Lines, h7.1, h7.2]

theorem settled_base : Settled base := settled_of (by decide +kernel)
theorem settled_single : Settled single := settled_of (by decide +kernel)

/-- The lanes' translations by the TLB. -/
def seen (s : State) (h f : Nat) (a : List (Nat × Nat)) : List LaneT :=
  a.filterMap (fun p => ((NatMap.get [] s.tlbs h).find? (fun e => e.func == f && decide (e.vpn ≤ p.2 / 4096) &&
    decide (p.2 / 4096 < e.vpn + e.pages))).map (fun e => ⟨p.1, p.2, ⟨e.ppn * 4096 + (p.2 - e.vpn * 4096), e.key, e.unc⟩⟩))

def keyedB (s : State) (pa key : Nat) : Bool :=
  match NatMap.get none s.keys key with
  | some k => decide (NatMap.get .boot s.secKey (secOf pa) = k)
  | none => false

theorem keyed_of {s : State} {pa key : Nat} (h : keyedB s pa key = true) : Keyed s pa key := by
  unfold keyedB at h
  split at h
  · rename_i k hk
    exact .inr ⟨k, hk, of_decide_eq_true h⟩
  · simp at h

def reachedB (s : State) (h f : Nat) (want : Want) (a : List (Nat × Nat)) (n : Nat) (l : List LaneT) : Bool :=
  decide (l.map (fun x => (x.lane, x.va)) = a) && l.all (fun x =>
    (match (NatMap.get [] s.tlbs h).find? (fun e => e.func == f && decide (e.vpn ≤ x.va / 4096) &&
        decide (x.va / 4096 < e.vpn + e.pages) && e.allows want) with
     | some e => decide (x.t = ⟨e.ppn * 4096 + (x.va - e.vpn * 4096), e.key, e.unc⟩)
     | none => false)
    && decide (accErr s x.t.pa x.t.key = none) && decide (x.t.pa % 64 + n ≤ 64) && keyedB s x.t.pa x.t.key
    && ((l1Copy s h (secOf x.t.pa)).all (fun c => !c.bad) && !(s.die (dieOfCore h)).bad.contains (secOf x.t.pa)))

theorem reached_of {s : State} {hd f : Nat} {want : Want} {a : List (Nat × Nat)} {n : Nat} {l : List LaneT}
    (h : reachedB s hd f want a n l = true) : Reached s hd f want a n l := by
  simp only [reachedB, Bool.and_eq_true, decide_eq_true_eq, List.all_eq_true] at h
  refine ⟨h.1, fun x hx => ?_, fun x hx => (h.2 x hx).1.1.1.2, fun x hx => (h.2 x hx).1.1.2, fun x hx => keyed_of (h.2 x hx).1.2,
    fun x hx => ⟨fun c hc => ?_, ?_⟩⟩
  · have h1 := (h.2 x hx).1.1.1.1
    split at h1
    · rename_i e he
      exact ⟨e, he, of_decide_eq_true h1⟩
    · simp at h1
  · have h2 := (h.2 x hx).2.1
    simpa [hc] using h2
  · simpa using (h.2 x hx).2.2

def admittedB (s : State) (u : Unit_) (o : MOps) (c : Cap) (spaces : List Nat) (n : Option Nat) : Bool :=
  !arrayBad (u.aregAt s.clock o.ar.toNat) spaces n && ((masked s u o c).isEmpty || !(u.aregAt s.clock o.ar.toNat).act) && decide (c.active.length ≤ 32)

theorem admitted_of {s : State} {u : Unit_} {o : MOps} {c : Cap} {spaces : List Nat} {n : Option Nat} (h : admittedB s u o c spaces n = true) :
    Admitted s u o c spaces n := by
  simp only [admittedB, masked, Bool.and_eq_true, Bool.or_eq_true, decide_eq_true_eq, Bool.not_eq_true', List.isEmpty_iff] at h
  exact ⟨h.1.1, h.1.2, h.2⟩

-- Integer, index, floating-point and control words.

def always : Front → Cap → Group → Unit_ → Bool := fun _ _ _ _ => true
def alwaysQ : Front → Cap → Ctx → Bool := fun _ _ _ => true
def wIadd : Instr := .iadd (aop 483 (.reg 481) (.lit 4) (.reg 0))
/-- IADD into s3, under p0, which is false in every thread. -/
def wMasked : Instr := .iadd ⟨false, 3, .lit 1, .lit 2, .reg 0, ⟨true, false, 0⟩, .none, 1, false⟩
def wScalar : Instr := .iadd (aop 3 (.lit 1) (.lit 2) (.reg 0) 1)

-- Hypotheses of IntWordsWriteThreads.
theorem witness_int : isIntA wIadd = true ∧ sDestOf .vector wIadd = false ∧
    ∃ fr c g u, OnGroup wIadd base 0 0 0 0 fr c g u ∧ always fr c g u = true :=
  ⟨by decide, by decide, onGroup_of (by decide +kernel)⟩
-- Of IntWordsWriteSRegisters: no lane active, equal results, the Quartz core.
theorem witness_int_masked : isIntA wMasked = true ∧ sDestOf .vector wMasked = true ∧ ∃ fr c g u,
    OnGroup wMasked base 0 0 0 0 fr c g u ∧ decide (c.active = []) = true :=
  ⟨by decide, by decide, onGroup_of (P := fun _ c _ _ => decide (c.active = [])) (by decide +kernel)⟩
theorem witness_int_scalar : isIntA wScalar = true ∧ sDestOf .vector wScalar = true ∧ ∃ fr c g u,
    OnGroup wScalar base 0 0 0 0 fr c g u ∧ (decide (c.active ≠ []) && decide (∀ m ∈ c.active, int64V wScalar c m = 3)) = true :=
  ⟨by decide, by decide, onGroup_of
    (P := fun _ c _ _ => decide (c.active ≠ []) && decide (∀ m ∈ c.active, int64V wScalar c m = 3)) (by decide +kernel)⟩
def wQiadd : Instr := .iadd (aop 3 (.lit 1) (.lit 2) (.reg 0))
theorem witness_int_quartz : isIntA wQiadd = true ∧ ∃ fr c q, OnQuartz wQiadd quartz 0 0 0 0 fr c q ∧ alwaysQ fr c q = true :=
  ⟨by decide, onQuartz_of (by decide +kernel)⟩

-- Of IndexAndLaneWordsWriteThreads to PredicateWordsWritePredicates.
def wKmov : Instr := .kmov (aop 484 (.reg 5) (.reg 0) (.reg 0))
theorem witness_index : isIndexWord wKmov = true ∧ ∃ fr c g u, OnGroup wKmov base 0 0 0 0 fr c g u ∧
    c.active.all (fun m => (indexSpec base c g u (recOf base 0 0) wKmov m).isSome) = true :=
  ⟨by decide, onGroup_of (P := fun _ c g u => c.active.all (fun m => (indexSpec base c g u (recOf base 0 0) wKmov m).isSome))
    (by decide +kernel)⟩
def wFadd : Instr := .fadd (aop 1 (.reg 5) (.reg 5) (.reg 0))
theorem witness_float : isFloatWord wFadd = true ∧ ∃ fr c g u, OnGroup wFadd base 0 0 0 0 fr c g u ∧
    c.active.all (fun m => (floatSpec c wFadd m).isSome) = true :=
  ⟨by decide, onGroup_of (P := fun _ c _ _ => c.active.all (fun m => (floatSpec c wFadd m).isSome)) (by decide +kernel)⟩
def wCvts : Instr := .cvts (aop 1 (.reg 5) (.lit 0) (.reg 0) 0)
theorem witness_slot : isSlotWord wCvts = true ∧ ∃ fr c g u, OnGroup wCvts base 0 0 0 0 fr c g u ∧
    c.active.all (fun m => (slotSpec base c u (recOf base 0 0) wCvts m).isSome) = true :=
  ⟨by decide, onGroup_of (P := fun _ c _ u => c.active.all (fun m => (slotSpec base c u (recOf base 0 0) wCvts m).isSome))
    (by decide +kernel)⟩
def wDadd : Instr := .dadd (aop 2 (.reg 4) (.reg 6) (.reg 0))
theorem witness_double : isDoubleWord wDadd = true ∧ ∃ fr c g u, OnGroup wDadd base 0 0 0 0 fr c g u ∧
    c.active.all (fun m => (doubleSpec c wDadd m).isSome) = true :=
  ⟨by decide, onGroup_of (P := fun _ c _ _ => c.active.all (fun m => (doubleSpec c wDadd m).isSome)) (by decide +kernel)⟩
def wIcmp : Instr := .icmp (aop 65 (.reg 5) (.lit 7) (.reg 0))
theorem witness_pred : isPredWord wIcmp = true ∧ ∃ fr c g u, OnGroup wIcmp base 0 0 0 0 fr c g u ∧
    c.active.all (fun m => (predSpec base c u wIcmp m).isSome) = true :=
  ⟨by decide, onGroup_of (P := fun _ c _ u => c.active.all (fun m => (predSpec base c u wIcmp m).isSome)) (by decide +kernel)⟩
-- What total_of makes of the four above: the `v` of the statements.
theorem witness_values (f : Nat → Option Word) (l : List Nat) (h : l.all (fun m => (f m).isSome) = true) :
    ∃ v : Nat → Word, ∀ m ∈ l, f m = some (v m) := total_of 0 f l h

-- Of PairWordReadsBeforeItWrites: the pair of chapter 02, on both cores.
def wPair : POps := ⟨false, ⟨3, 4, .reg 11, false, 0⟩, ⟨0x22, 9, .reg 14, false, 0⟩⟩
def wPairNop : POps := ⟨false, ⟨0, 0, .reg 0, false, 0⟩, ⟨0, 0, .reg 0, false, 0⟩⟩
def wPairQ : POps := ⟨false, ⟨3, 4, .reg 11, false, 0⟩, ⟨4, 9, .reg 14, false, 0⟩⟩
theorem witness_pair : ∃ fr c g u, OnGroup (.pairWord wPair) base 0 0 0 0 fr c g u ∧ always fr c g u = true :=
  onGroup_of (by decide +kernel)
theorem witness_pair_quartz : ∃ fr c q, OnQuartz (.pairWord wPairQ) quartz 0 0 0 0 fr c q ∧ alwaysQ fr c q = true :=
  onQuartz_of (by decide +kernel)
-- The operands that capture reads: a register, a literal, a masked word, and the Quartz core.
theorem witness_capture : (base.group? 0 0).any (fun g => NatMap.wf none g.lanes && (base.unit? g.uid).isSome &&
    [wIadd, wMasked, wFadd, wDadd, .pand (aop 0 (.reg 1) (.reg 2) (.reg 0)), .st (mop 1 0 (.reg 5) 4), .pairWord wPair].all (fun i =>
      (capture base (.group 0 0) i 0 g.front).isSome)) = true ∧ (quartz.ctx? 0 0).any (fun q =>
    (capture quartz (.quartz 0 0) wQiadd 0 q.front).isSome) = true := by decide +kernel
-- R31: a literal of a floating position denotes its value: FADD v1, v5, 2.
theorem test_capture_literal : (base.group? 0 0).any (fun g => (capture base (.group 0 0) (.fadd (aop 1 (.reg 5) (.lit 2) (.reg 0))) 0
    g.front).any (fun c => decide (c.a2 3 = 0x40000000 ∧ c.a1 3 = 3))) = true := by decide +kernel
-- The halves write v4 := v4 + v11 and v9 := v9 * v14 from the old values (R40): 4 + 11 = 15.
theorem test_pair_adds : after (exec (.pairWord wPair) (base.modUnit 0 (fun u => u.modThread 0 (fun t =>
    { t with r := [(4, 4), (11, 11)] })))) (fun t => match t.unit? 0 with
      | some u => decide ((u.thread 0).reg 4 = 15)
      | none => false) = true := by decide +kernel

-- Of WordsKeepIntervals: the lanes are canonical, every k-register lies in its interval, and the word completes.
theorem base_groups : base.groups = [(0, some (placeGroup 0))] := by decide +kernel
theorem witness_lanes : LanesInv base := by
  intro p hp g hg
  rw [base_groups] at hp
  simp only [List.mem_singleton] at hp
  subst hp
  simp only [Option.some.injEq] at hg
  subst hg
  decide +kernel
def baseUnit : Unit_ := (base.unit? 0).getD placeUnit
theorem witness_intervals : IvHolds base 0 0 := by
  intro g u hg hu
  have h0 : base.group? 0 0 = some (placeGroup 0) := by decide +kernel
  rw [h0, Option.some.injEq] at hg
  subst hg
  have h1 : base.unit? (placeGroup 0).uid = some baseUnit := by decide +kernel
  rw [h1, Option.some.injEq] at hu
  subst hu
  decide +kernel
theorem base_units : base.units = [(0, some baseUnit)] := by decide +kernel
theorem no_popper : NoPopper base 0 := by
  intro v hv p hp
  rw [base_units, List.mem_singleton, Prod.mk.injEq, Option.some.injEq] at hv
  have h : baseUnit.parked = [] := by decide +kernel
  rw [hv.2, h] at hp
  cases hp
theorem witness_keeps : (∃ t, exec wIadd base = .next t) ∧ ∃ fr c g u, OnGroup wIadd base 0 0 0 0 fr c g u ∧
    (decide (g.uid = 0) && g.members.all (fun p => decide (u.index < (recOf base 0 0).gridx * (recOf base 0 0).gridy * (recOf base 0 0).gridz)
      && decide (u.core < 256) && decide (u.nthreads % 32 = 0) && decide (p.2 < u.nthreads))) = true :=
  ⟨next_of (by decide +kernel), onGroup_of (P := fun _ _ g u => decide (g.uid = 0) && g.members.all (fun p =>
      decide (u.index < (recOf base 0 0).gridx * (recOf base 0 0).gridy * (recOf base 0 0).gridz)
      && decide (u.core < 256) && decide (u.nthreads % 32 = 0) && decide (p.2 < u.nthreads))) (by decide +kernel)⟩

-- Of IntWordsSetIntervals: IADD k3; IWIDEN k3 to [0, 9], as it stands and clamping v5 = lane.
theorem witness_sets_interval : hasIvSpec wIadd = true ∧ dest wIadd = 480 + 3 := by decide
def wIwiden : AOps := aop 483 (.lit 0) (.lit 9) (.reg 0)
theorem witness_iwiden : ∃ fr c g u, OnGroup (.iwiden wIwiden) base 0 0 0 0 fr c g u ∧ (decide (c.present ≠ []) &&
    decide (∀ m ∈ c.present, c.a1 m = 0 ∧ c.a2 m = 9) && Iv.inside (ivGet g.iv 3) ⟨0, 9⟩) = true :=
  onGroup_of (P := fun _ c g _ => decide (c.present ≠ []) && decide (∀ m ∈ c.present, c.a1 m = 0 ∧ c.a2 m = 9)
    && Iv.inside (ivGet g.iv 3) ⟨0, 9⟩) (by decide +kernel)
/-- k3 of each thread is its lane, in an interval that holds them. -/
def wideK : State :=
  (base.modUnit 0 (fun u => { u with
    threads := (List.range 32).map (fun i => (i, { Thread.start with r := [(483, BitVec.ofNat 32 i)] })) })).modGroup 0 0
    (fun g => { g with iv := [(3, ⟨0, 31⟩)] })
theorem witness_iwiden_clamps : ∃ fr c g u, OnGroup (.iwiden wIwiden) wideK 0 0 0 0 fr c g u ∧ (decide (c.present ≠ []) &&
    decide (∀ m ∈ c.present, c.a1 m = 0 ∧ c.a2 m = 9) && !Iv.inside (ivGet g.iv 3) ⟨0, 9⟩ &&
      decide ((recOf wideK 0 0).flags.getLsbD 2 = false)) = true :=
  onGroup_of (P := fun _ c g _ => decide (c.present ≠ []) && decide (∀ m ∈ c.present, c.a1 m = 0 ∧ c.a2 m = 9)
    && !Iv.inside (ivGet g.iv 3) ⟨0, 9⟩ && decide ((recOf wideK 0 0).flags.getLsbD 2 = false)) (by decide +kernel)
-- R69: values above hi are clamped to hi, and their threads' bounds flags are set.
theorem test_iwiden_clamps : after (exec (.iwiden wIwiden) wideK) (fun t => match t.unit? 0 with
      | some u => decide ((u.thread 9).reg 483 = 9) && decide ((u.thread 31).reg 483 = 9) && (u.thread 31).bounds
          && !(u.thread 9).bounds
      | none => false) = true := by decide +kernel

-- Of NopOnlyAdvances.
def wNop : AOps := aop 0 (.reg 0) (.reg 0) (.reg 0)
theorem witness_nop : ∃ fr c g u, OnGroup (.nop wNop) base 0 0 0 0 fr c g u ∧ always fr c g u = true := onGroup_of (by decide +kernel)
theorem witness_nop_quartz : ∃ fr c q, OnQuartz (.nop wNop) quartz 0 0 0 0 fr c q ∧ alwaysQ fr c q = true :=
  onQuartz_of (by decide +kernel)
theorem witness_pair_nop : wPairNop.h0.op = 0 ∧ wPairNop.h1.op = 0 ∧
    ∃ fr c g u, OnGroup (.pairWord wPairNop) base 0 0 0 0 fr c g u ∧ always fr c g u = true :=
  ⟨rfl, rfl, onGroup_of (by decide +kernel)⟩
theorem witness_pair_nop_quartz : ∃ fr c q, OnQuartz (.pairWord wPairNop) quartz 0 0 0 0 fr c q ∧ alwaysQ fr c q = true :=
  onQuartz_of (by decide +kernel)

-- Of TransfersMoveWholeGroup and TransfersFileDivergedThreads: a BRA, and a BRC that the lanes below 7 take.
def wBra : Instr := .bra ⟨true, .reg 0, .reg 0, 0, 3, false⟩
theorem witness_bra : ∃ fr c g u, OnGroup wBra base 0 0 0 0 fr c g u ∧ (decide (c.present ≠ []) &&
    decide (∀ m ∈ c.present, nextPc base fr c u wBra m = some (fr.pc + 24))) = true :=
  onGroup_of (P := fun fr c _ u => decide (c.present ≠ []) &&
    decide (∀ m ∈ c.present, nextPc base fr c u wBra m = some (fr.pc + 24))) (by decide +kernel)
-- One lane, 0 < 7: the whole group takes the branch.
theorem witness_brc_whole : ∃ fr c g u, OnGroup (.brc ⟨true, .reg 5, .lit 7, 2, 3, false⟩) single 0 0 0 0 fr c g u ∧
    (decide (c.present ≠ []) && decide (∀ m ∈ c.present,
      nextPc single fr c u (.brc ⟨true, .reg 5, .lit 7, 2, 3, false⟩) m = some (fr.pc + 24))) = true :=
  onGroup_of (P := fun fr c _ u => decide (c.present ≠ []) && decide (∀ m ∈ c.present,
    nextPc single fr c u (.brc ⟨true, .reg 5, .lit 7, 2, 3, false⟩) m = some (fr.pc + 24))) (by decide +kernel)
def wBrc : Instr := .brc ⟨true, .reg 5, .lit 7, 2, 3, false⟩
theorem witness_brc_diverges : (∀ c fr, targetsAligned c fr wBrc) ∧ ∃ fr c g u, OnGroup wBrc base 0 0 0 0 fr c g u ∧
    (!fr.priv && decide (∀ m ∈ c.present, nextPc base fr c u wBrc m = some (if m < 7 then fr.pc + 24 else fr.pc + 8)) &&
      decide (∃ m ∈ c.present, ∃ n ∈ c.present, nextPc base fr c u wBrc m ≠ nextPc base fr c u wBrc n)) = true :=
  ⟨fun _ _ => trivial, onGroup_of (P := fun fr c _ u =>
    !fr.priv && decide (∀ m ∈ c.present, nextPc base fr c u wBrc m = some (if m < 7 then fr.pc + 24 else fr.pc + 8)) &&
      decide (∃ m ∈ c.present, ∃ n ∈ c.present, nextPc base fr c u wBrc m ≠ nextPc base fr c u wBrc n)) (by decide +kernel)⟩
def wRet : Instr := .ret (aop 0 (.reg 4) (.reg 0) (.reg 0) 0 .none true)
theorem witness_ret_aligned : ∃ fr c g u, OnGroup wRet base 0 0 0 0 fr c g u ∧
    decide (∀ m ∈ c.active, bits (c.a1 m) 0 3 = 0) = true :=
  onGroup_of (P := fun _ c _ _ => decide (∀ m ∈ c.active, bits (c.a1 m) 0 3 = 0)) (by decide +kernel)

-- Of CallsAndQuartzTransfers.
def wCall : BOps := ⟨true, .reg 10, .reg 0, 0, 3, false⟩
theorem witness_call : wCall.s1 = .reg 10 ∧ ∃ fr c g u, OnGroup (.call wCall) base 0 0 0 0 fr c g u ∧ decide (c.present ≠ []) = true :=
  ⟨rfl, onGroup_of (P := fun _ c _ _ => decide (c.present ≠ [])) (by decide +kernel)⟩
theorem witness_call_quartz : ∃ fr c q, OnQuartz (.call wCall) quartz 0 0 0 0 fr c q ∧ alwaysQ fr c q = true :=
  onQuartz_of (by decide +kernel)
theorem witness_bra_quartz : ∃ fr c q, OnQuartz wBra quartz 0 0 0 0 fr c q ∧ alwaysQ fr c q = true := onQuartz_of (by decide +kernel)
theorem witness_brc_quartz : ∃ fr c q, OnQuartz wBrc quartz 0 0 0 0 fr c q ∧ alwaysQ fr c q = true := onQuartz_of (by decide +kernel)
def wJmpx : AOps := aop 0 (.lit 16) (.reg 0) (.reg 0) 0 .none true
theorem witness_jmpx_quartz : ∃ fr c q, OnQuartz (.jmpx wJmpx) quartz 0 0 0 0 fr c q ∧
    decide (bits (fr.pc.setWidth 64 + c.a1 0) 0 3 = 0) = true :=
  onQuartz_of (P := fun fr c _ => decide (bits (fr.pc.setWidth 64 + c.a1 0) 0 3 = 0)) (by decide +kernel)
theorem witness_ret_quartz : ∃ fr c q, OnQuartz wRet quartz 0 0 0 0 fr c q ∧ decide (bits (c.a1 0) 0 3 = 0) = true :=
  onQuartz_of (P := fun _ c _ => decide (bits (c.a1 0) 0 3 = 0)) (by decide +kernel)

-- Of ReformFilesEveryThread and ExitEndsActiveThreads: all lanes, and the lanes under p0 inverted in lane 0.
def wReform : Instr := .reform (aop 0 (.reg 0) (.reg 0) (.reg 0) 1 .none true)
theorem witness_reform : ∃ fr c g u, OnGroup wReform base 0 0 0 0 fr c g u ∧
    decide (∀ m ∈ c.present, laneThread base c.agent m < 1024) = true :=
  onGroup_of (P := fun _ c _ _ => decide (∀ m ∈ c.present, laneThread base c.agent m < 1024)) (by decide +kernel)
def wExit : Instr := .exit (aop 0 (.reg 0) (.reg 0) (.reg 0) 0 .none true)
def wExitP : Instr := .exit ⟨true, 0, .reg 0, .reg 0, .reg 0, ⟨true, false, 0⟩, .none, 0, false⟩
def someP : State := base.modUnit 0 (fun u => u.modThread 3 (fun t => { t with p := 1 }))
theorem witness_exit_some : ∃ fr c g u, OnGroup wExitP someP 0 0 0 0 fr c g u ∧ (decide (u.arrived = []) &&
    decide (∃ th ∈ u.live, ∀ m ∈ c.active, laneThread someP c.agent m ≠ th) && decide (c.active = [3])) = true :=
  onGroup_of (P := fun _ c _ u => decide (u.arrived = []) &&
    decide (∃ th ∈ u.live, ∀ m ∈ c.active, laneThread someP c.agent m ≠ th) && decide (c.active = [3])) (by decide +kernel)
theorem witness_exit_all : ∃ fr c g u, OnGroup wExit base 0 0 0 0 fr c g u ∧ decide (c.active = c.present) = true :=
  onGroup_of (P := fun _ c _ _ => decide (c.active = c.present)) (by decide +kernel)
theorem witness_exit_quartz : ∃ fr c q, OnQuartz wExit quartz 0 0 0 0 fr c q ∧ alwaysQ fr c q = true :=
  onQuartz_of (by decide +kernel)

-- Traps and replay.

/-- A state and its trap with no check of R44 passed yet. -/
def arrivesB (i : Instr) (s : State) (a : Agent) (f l : Nat) (P : Front → Cap → Bool) : Bool :=
  match frontOf s a with
  | some fr =>
    (match capture s a i ((encode i).getD 0) fr with
     | some c => decide (s.cur = some a) && decide (agentLaunch s a = some (f, l)) && decide (fr.hold = none) && !standing s a fr
         && !behind fr i && decide (s.reports = []) && P fr c
     | none => false)
  | none => false

theorem arrives_of {i : Instr} {s : State} {a : Agent} {f l : Nat} {P : Front → Cap → Bool} (h : arrivesB i s a f l P = true) :
    ∃ fr c, Arrives i s a f l fr c ∧ P fr c = true := by
  unfold arrivesB at h
  split at h
  · rename_i fr hf
    split at h
    · rename_i c hc
      simp only [Bool.and_eq_true, decide_eq_true_eq, Bool.not_eq_true'] at h
      obtain ⟨⟨⟨⟨⟨⟨h1, h2⟩, h3⟩, h4⟩, h7⟩, h5⟩, h6⟩ := h
      exact ⟨fr, c, ⟨h1, hf, h2, h3, h4, hc, h7, h5⟩, h6⟩
    · simp at h
  · simp at h

/-- The places of R44, checks 1 to 6, in Bool. -/
def failsB (s : State) (a : Agent) (fr : Front) (rc : LaunchRec) (i : Instr) (n : Nat) : Bool :=
  match n with
  | 1 => !i.classOk a.kind
  | 2 => !i.eBit && (i.ends || decide (23 ≤ fr.j))
  | 3 => !i.wf a.kind || !slotsOk rc (readBWord s a fr) i
  | 4 => decide (a.kind = .vector) && !regsInRange rc.regs i
  | 5 => decide (∃ e ∈ latchReads i, latchOk fr.latch e fr.j = false)
  | 6 => isPrivileged i && !fr.priv
  | _ => false

/-- Check `n` is the first that fails, and the handler stands. -/
def firstB (i : Instr) (s : State) (a : Agent) (n : Nat) (fr : Front) : Bool :=
  failsB s a fr (recOf s 0 0) i n && (List.range n).all (fun m => !failsB s a fr (recOf s 0 0) i m) && !fr.priv
    && decide ((recOf s 0 0).trapentry ≠ 0)

-- Of FailedCheckEntersHandler: each of the six checks.
theorem witness_check1 : ∃ fr c, Arrives wFadd quartz (.quartz 0 0) 0 0 fr c ∧ firstB wFadd quartz (.quartz 0 0) 1 fr = true :=
  arrives_of (P := fun fr _ => firstB wFadd quartz (.quartz 0 0) 1 fr) (by decide +kernel)
def wBraOpen : Instr := .bra ⟨false, .reg 0, .reg 0, 0, 3, false⟩
theorem witness_check2 : ∃ fr c, Arrives wBraOpen base (.group 0 0) 0 0 fr c ∧ firstB wBraOpen base (.group 0 0) 2 fr = true :=
  arrives_of (P := fun fr _ => firstB wBraOpen base (.group 0 0) 2 fr) (by decide +kernel)
/-- At run position 23 every word must end the run. -/
def lateRun : State := base.modGroup 0 0 (fun g => { g with front := { g.front with j := 23 } })
theorem witness_check2_late : ∃ fr c, Arrives wIadd lateRun (.group 0 0) 0 0 fr c ∧ firstB wIadd lateRun (.group 0 0) 2 fr = true :=
  arrives_of (P := fun fr _ => firstB wIadd lateRun (.group 0 0) 2 fr) (by decide +kernel)
def wBadMbz : Instr := .iadd (aop 0 (.reg 1) (.reg 2) (.reg 3))
theorem witness_check3 : ∃ fr c, Arrives wBadMbz base (.group 0 0) 0 0 fr c ∧ firstB wBadMbz base (.group 0 0) 3 fr = true :=
  arrives_of (P := fun fr _ => firstB wBadMbz base (.group 0 0) 3 fr) (by decide +kernel)
/-- The launch has 32 registers. -/
def fewRegs : State := base.modFunc 0 (fun x => { x with launches :=
  [(0, some { placeLaunch with rcd := { placeLaunch.rcd with regs := 32 } })] })
def wHigh : Instr := .mov (aop 40 (.reg 1) (.reg 0) (.reg 0))
theorem witness_check4 : ∃ fr c, Arrives wHigh fewRegs (.group 0 0) 0 0 fr c ∧ firstB wHigh fewRegs (.group 0 0) 4 fr = true :=
  arrives_of (P := fun fr _ => firstB wHigh fewRegs (.group 0 0) 4 fr) (by decide +kernel)
def wLatch : Instr := .mov (aop 4 (.latch 0) (.reg 0) (.reg 0))
theorem witness_check5 : ∃ fr c, Arrives wLatch base (.group 0 0) 0 0 fr c ∧ firstB wLatch base (.group 0 0) 5 fr = true :=
  arrives_of (P := fun fr _ => firstB wLatch base (.group 0 0) 5 fr) (by decide +kernel)
def wTret : AOps := aop 0 (.reg 0) (.reg 0) (.reg 0) 0 .none true
theorem witness_check6 : ∃ fr c, Arrives (.tret wTret) base (.group 0 0) 0 0 fr c ∧
    firstB (.tret wTret) base (.group 0 0) 6 fr = true :=
  arrives_of (P := fun fr _ => firstB (.tret wTret) base (.group 0 0) 6 fr) (by decide +kernel)
theorem test_failsB_sound (s : State) (a : Agent) (fr : Front) (rc : LaunchRec) (i : Instr) (n : Nat)
    (h : failsB s a fr rc i n = true) : Fails s a fr rc i n := by
  unfold failsB at h
  unfold Fails
  split at h <;> simp at h <;> simp [h]
-- R319: PRIVILEGE is cause 6; XADDR is the word's address.
theorem test_privilege_trap : after (exec (.tret wTret) base) (fun t => match t.group? 0 0 with
      | some g => g.front.priv && decide (g.front.xcause = 0xFF06) && decide (g.front.pc = 0x9000)
          && decide (g.front.xaddr = 0x8000) && decide (g.front.xpc = 0x8000)
      | none => false) = true := by decide +kernel

-- Of TrapAndSyscEnterHandler, on both cores.
def wSysc : IOps := ⟨true, 0, .reg 0, 9, false⟩
theorem witness_sysc : (recOf base 0 0).trapentry ≠ 0 ∧ ∃ fr c g u, OnGroup (.sysc wSysc) base 0 0 0 0 fr c g u ∧ (!fr.priv) = true :=
  ⟨by decide +kernel, onGroup_of (P := fun fr _ _ _ => !fr.priv) (by decide +kernel)⟩
theorem witness_trap_quartz : (recOf quartz 0 0).trapentry ≠ 0 ∧
    ∃ fr c q, OnQuartz (.trap wSysc) quartz 0 0 0 0 fr c q ∧ (!fr.priv) = true :=
  ⟨by decide +kernel, onQuartz_of (P := fun fr _ _ => !fr.priv) (by decide +kernel)⟩
-- R173: SYSC 9 raises 0x17 with 9 in XADDR and returns to the next word.
theorem test_sysc : after (exec (.sysc wSysc) base) (fun t => match t.group? 0 0 with
      | some g => decide (g.front.xcause = 0xFF17) && decide (g.front.xaddr = 9) && decide (g.front.xpc = 0x8008)
          && decide (g.front.replay = [])
      | none => false) = true := by decide +kernel

-- Of NonuniformResultTraps: v5 is the lane, so that v5 + 1 differs.
def wNonuniform : Instr := .iadd (aop 3 (.reg 5) (.lit 1) (.reg 0) 1)
theorem witness_nonuniform : isIntA wNonuniform = true ∧ sDestOf .vector wNonuniform = true ∧
    ∃ fr c g u, OnGroup wNonuniform base 0 0 0 0 fr c g u ∧ (decide (c.active.head? = some 0) &&
      decide (∃ n ∈ c.active.drop 1, int64V wNonuniform c n ≠ int64V wNonuniform c 0) && !fr.priv) = true :=
  ⟨by decide, by decide, onGroup_of (P := fun fr c _ _ => decide (c.active.head? = some 0) &&
      decide (∃ n ∈ c.active.drop 1, int64V wNonuniform c n ≠ int64V wNonuniform c 0) && !fr.priv) (by decide +kernel)⟩

-- Of NestedTrapIsFatal: a failing check, and a TRAP, in privileged mode.
def handler : State := priv base []
theorem witness_nested : ∃ fr c, Arrives wBadMbz handler (.group 0 0) 0 0 fr c ∧
    (failsB handler (.group 0 0) fr (recOf handler 0 0) wBadMbz 3 && fr.priv) = true :=
  arrives_of (P := fun fr _ => failsB handler (.group 0 0) fr (recOf handler 0 0) wBadMbz 3 && fr.priv) (by decide +kernel)
/-- No handler: TRAPENTRY is 0. -/
def noHandler : State := base.modFunc 0 (fun x => { x with launches :=
  [(0, some { placeLaunch with rcd := { placeLaunch.rcd with trapentry := 0 } })] })
theorem witness_no_handler : isSoft (.sysc wSysc) = true ∧ (recOf noHandler 0 0).trapentry = 0 ∧
    ∃ fr c g u, OnGroup (.sysc wSysc) noHandler 0 0 0 0 fr c g u ∧ always fr c g u = true :=
  ⟨by decide, by decide +kernel, onGroup_of (by decide +kernel)⟩

-- Of TretResumesRun and TretReissuesEntry.
theorem witness_tret : ∃ fr c g u, OnGroup (.tret wTret) handler 0 0 0 0 fr c g u ∧ decide (fr.replay = []) = true :=
  onGroup_of (P := fun fr _ _ _ => decide (fr.replay = [])) (by decide +kernel)
theorem witness_tret_quartz : ∃ fr c q, OnQuartz (.tret wTret) (priv quartz []) 0 0 0 0 fr c q ∧ decide (fr.replay = []) = true :=
  onQuartz_of (P := fun fr _ _ => decide (fr.replay = [])) (by decide +kernel)
def handlerAdd : State := priv base [entryAdd]
theorem witness_tret_entry : decode entryAdd.word = .word (.iadd (aop 3 (.reg 1) (.reg 2) (.reg 0))) ∧ entryAdd.stat = 0 ∧
    entryAdd.mask ≠ 0 ∧ ∃ fr c g u, OnGroup (.tret wTret) handlerAdd 0 0 0 0 fr c g u ∧ decide (fr.replay = [entryAdd]) = true :=
  ⟨by decide, rfl, by decide, onGroup_of (P := fun fr _ _ _ => decide (fr.replay = [entryAdd])) (by decide +kernel)⟩

-- Of BankedRegistersReadAndWrite.
def wXrd : AOps := aop 60 (.lit 2) (.reg 0) (.reg 0)
theorem witness_xrd : ∃ fr c g u, OnGroup (.xrd wXrd) handler 0 0 0 0 fr c g u ∧ always fr c g u = true := onGroup_of (by decide +kernel)
theorem witness_xrd_quartz : ∃ fr c q, OnQuartz (.xrd wXrd) (priv quartz []) 0 0 0 0 fr c q ∧ alwaysQ fr c q = true :=
  onQuartz_of (by decide +kernel)
def wXwr : AOps := aop 480 (.lit 0) (.lit 64) (.reg 0)
theorem witness_xwr : ∃ fr c g u, OnGroup (.xwr wXwr) handler 0 0 0 0 fr c g u ∧ (decide (c.active ≠ []) &&
    decide (∀ m ∈ c.active, c.a2 m = 64) && Iv.inside (ivGet g.iv 0) ⟨-(2 ^ 31), 2 ^ 31 - 1⟩) = true :=
  onGroup_of (P := fun _ c g _ => decide (c.active ≠ []) && decide (∀ m ∈ c.active, c.a2 m = 64)
    && Iv.inside (ivGet g.iv 0) ⟨-(2 ^ 31), 2 ^ 31 - 1⟩) (by decide +kernel)
def wXwrMasked : AOps := ⟨false, 480, .lit 0, .lit 64, .reg 0, ⟨true, false, 0⟩, .none, 0, false⟩
theorem witness_xwr_masked : ∃ fr c g u, OnGroup (.xwr wXwrMasked) handler 0 0 0 0 fr c g u ∧ decide (c.active = []) = true :=
  onGroup_of (P := fun _ c _ _ => decide (c.active = [])) (by decide +kernel)
def wXwrLanes : AOps := aop 4 (.lit 0) (.reg 5) (.reg 0)
theorem witness_xwr_nonuniform : ∃ fr c g u, OnGroup (.xwr wXwrLanes) handler 0 0 0 0 fr c g u ∧
    decide (∃ m ∈ c.active, ∃ n ∈ c.active, c.a2 m ≠ c.a2 n) = true :=
  onGroup_of (P := fun _ c _ _ => decide (∃ m ∈ c.active, ∃ n ∈ c.active, c.a2 m ≠ c.a2 n)) (by decide +kernel)
theorem witness_xwr_quartz : ∃ fr c q, OnQuartz (.xwr (aop 3 (.lit 0) (.lit 64) (.reg 0))) (priv quartz []) 0 0 0 0 fr c q ∧
    alwaysQ fr c q = true := onQuartz_of (by decide +kernel)
theorem witness_xrd_wf : (Instr.xrd wXrd).wf .vector = true ∧ (Instr.xwr wXwr).wf .vector = true ∧
    (Instr.xrd (aop 60 (.lit 1) (.reg 0) (.reg 0) 1)).wf .vector = false ∧
    (Instr.xwr (aop 480 (.lit 1) (.lit 64) (.reg 0))).wf .vector = false := by decide
-- R175: bits [2:0] of XPC are written as 0.
theorem test_xwr : after (exec (.xwr (aop 4 (.lit 0) (.lit 0x47) (.reg 0))) handler) (fun t => match t.group? 0 0 with
      | some g => decide (g.front.xpc = 0x40)
      | none => false) = true := by decide +kernel

-- Of ReplayWordsEditEntries.
def wRplx : AOps := aop 20 (.lit 0) (.lit 6) (.reg 0)
theorem witness_rplx : ∃ fr c g u, OnGroup (.rplx wRplx) handlerAdd 0 0 0 0 fr c g u ∧ (decide (c.present ≠ []) &&
    decide (∀ m ∈ c.present, c.a1 m = 0) && decide (fr.replay[0]? = some entryAdd)) = true :=
  onGroup_of (P := fun fr c _ _ => decide (c.present ≠ []) && decide (∀ m ∈ c.present, c.a1 m = 0)
    && decide (fr.replay[0]? = some entryAdd)) (by decide +kernel)
def wRplw : AOps := aop 21 (.lit 0) (.lit 4) (.lit 3)
theorem witness_rplw : ∃ fr c g u, OnGroup (.rplw wRplw) handlerAdd 0 0 0 0 fr c g u ∧ (decide (c.present ≠ []) &&
    decide (∀ m ∈ c.present, c.a1 m = 0) && decide (fr.replay[0]? = some entryAdd) && decide (∀ m ∈ c.active, c.a3 m = 3)) = true :=
  onGroup_of (P := fun fr c _ _ => decide (c.present ≠ []) && decide (∀ m ∈ c.present, c.a1 m = 0)
    && decide (fr.replay[0]? = some entryAdd) && decide (∀ m ∈ c.active, c.a3 m = 3)) (by decide +kernel)
def wRpld : AOps := aop 0 (.lit 0) (.reg 0) (.reg 0)
theorem witness_rpld : ∃ fr c g u, OnGroup (.rpld wRpld) handlerAdd 0 0 0 0 fr c g u ∧ (decide (c.present ≠ []) &&
    decide (∀ m ∈ c.present, c.a1 m = 0) && decide (fr.replay.length = 1)) = true :=
  onGroup_of (P := fun fr c _ _ => decide (c.present ≠ []) && decide (∀ m ∈ c.present, c.a1 m = 0)
    && decide (fr.replay.length = 1)) (by decide +kernel)
def quartzAdd : State := priv quartz [entryAdd]
theorem witness_rplx_quartz : ∃ fr c q, OnQuartz (.rplx wRplx) quartzAdd 0 0 0 0 fr c q ∧
    decide (fr.replay[(c.a1 0).toNat]? = some entryAdd) = true :=
  onQuartz_of (P := fun fr c _ => decide (fr.replay[(c.a1 0).toNat]? = some entryAdd)) (by decide +kernel)
theorem witness_rplw_quartz : ∃ fr c q, OnQuartz (.rplw wRplw) quartzAdd 0 0 0 0 fr c q ∧
    decide (fr.replay[(c.a1 0).toNat]? = some entryAdd) = true :=
  onQuartz_of (P := fun fr c _ => decide (fr.replay[(c.a1 0).toNat]? = some entryAdd)) (by decide +kernel)
theorem witness_rpld_quartz : ∃ fr c q, OnQuartz (.rpld wRpld) quartzAdd 0 0 0 0 fr c q ∧
    decide ((c.a1 0).toNat < fr.replay.length) = true :=
  onQuartz_of (P := fun fr c _ => decide ((c.a1 0).toNat < fr.replay.length)) (by decide +kernel)
-- R176: RPLW of MASK leaves old AND val.
theorem test_rplw_mask : after (exec (.rplw wRplw) handlerAdd) (fun t => match t.group? 0 0 with
      | some g => decide (g.front.replay.map (·.mask) = [3])
      | none => false) = true := by decide +kernel

-- Of StepRunsDecodedWord, UnassignedOpcodeTraps, StepKeepsMemoryCanonical and StepKeepsReportsAndLanes.
def placed (w : Nat) : State := { State.reset with boot := ⟨1, 7, 0, false⟩ }.withFetchWord 64 w
def chosenGroup (s : State) (k sl : Nat) (stalls : List Nat) : Bool :=
  (!withinRun s k (lastSlotOf s k (sl / 8)) || lastSlotOf s k (sl / 8) == sl) &&
  (withinRun s k (lastSlotOf s k (sl / 8)) || (List.range 8).all (fun n =>
    decide (¬ (n + 7 - lastSlotOf s k (sl / 8) % 8) % 8 < (sl % 8 + 7 - lastSlotOf s k (sl / 8) % 8) % 8) ||
      (waits s (.group k (8 * (sl / 8) + n)) || decide (8 * (sl / 8) + n ∈ stalls))))
theorem chosen_of {s : State} {k sl : Nat} {stalls : List Nat} (h : chosenGroup s k sl stalls = true) :
    Chosen s (.group k sl) stalls := by
  simp only [chosenGroup, Bool.and_eq_true, Bool.or_eq_true, Bool.not_eq_true', beq_iff_eq, List.all_eq_true, List.mem_range,
    decide_eq_true_eq] at h
  refine ⟨fun e => ?_, fun e n hn hlt => ?_⟩
  · rcases h.1 with h1 | h1
    · rw [e] at h1; cases h1
    · exact h1
  · rcases h.2 with h1 | h1
    · rw [e] at h1; cases h1
    · rcases h1 n hn with h2 | h2
      · exact absurd hlt h2
      · exact h2
def held (s : State) : State := modFront s (.group 0 0) (fun f => { f with hold := some (.range 0) })
/-- `s`, in the clock of its first issue, and after the fetch of its word. -/
def issuing (s : State) : State := { clocksLater s 1 with upset := 0, later := false }
/-- The translation at 0x8000, the test of its sector, and the read of its word, by the group of slot 0. -/
def foundAt (s : State) : Tr Trans × State := translate s (coreTlbs 0) 0 0x8000 .fetch
def testedAt (s : State) : Option AccErr × State := codeErr (foundAt s).2 (.group 0 0) 0x8000 0
def readAt (s : State) : List Byte × State := codeAt (testedAt s).2 (.group 0 0) 0 0x8000 0
def fetched (s : State) : State := (readAt (issuing s)).2
def startFront : Front := .start (BitVec.ofNat 57 placeAt)
/-- The group of `placed` is next, and the fetch gives the bytes of `w`. -/
def fetchesB (s : State) (w : Nat) : Bool :=
  !issuedNow (issuing s) (.group 0 0) && decide (s.agenda = []) && decide (s.cur = some (.group 0 0)) && clockFree s (s.clock + 1) &&
    chosenGroup (issuing s) 0 0 (List.range 32) && decide (frontOf (issuing s) (.group 0 0) = some startFront) &&
    decide (agentLaunch (issuing s) (.group 0 0) = some (0, 0)) && !standing (issuing s) (.group 0 0) startFront &&
    decide ((foundAt (issuing s)).1 = .ok ⟨0x8000, 0, false⟩) && decide ((testedAt (issuing s)).1 = none) &&
    decide ((readAt (issuing s)).1 = leBytes 8 w)
theorem fetches_of {s : State} {w : Nat} (h : fetchesB s w = true) : IssueTurn s (issuing s) (.group 0 0) ∧
    MayIssue (issuing s) (.group 0 0) 0 0 startFront ∧ Fetches (issuing s) (.group 0 0) 0 startFront (leBytes 8 w) (fetched s) := by
  simp only [fetchesB, Bool.and_eq_true, decide_eq_true_eq, Bool.not_eq_true'] at h
  obtain ⟨⟨⟨⟨⟨⟨⟨⟨⟨⟨h1, h2⟩, h3⟩, h4⟩, h5⟩, h6⟩, h7⟩, h8⟩, h9⟩, h10⟩, h11⟩ := h
  exact ⟨⟨h1, .inr ⟨h2, h3, .inr h4, rfl, chosen_of h5⟩⟩, ⟨h6, h7, rfl, h8⟩, ⟨⟨0x8000, 0, false⟩, (foundAt (issuing s)).2,
    (testedAt (issuing s)).2, Prod.ext h9 rfl, Prod.ext h10 rfl, Prod.ext h11 rfl⟩⟩
def placedIadd : State := placed 0x003E33C281000000
theorem witness_fetch : fetchesB placedIadd 0x003E33C281000000 = true ∧ decodeBytes (leBytes 8 0x003E33C281000000) = .word wIadd ∧
    (fetched placedIadd).rank ≤ issueRank (.group 0 0) wIadd ∧ stallsNow (fetched placedIadd) (.group 0 0) wIadd = false := by
  decide +kernel
-- A TOPK will write k1, which the word reads.
def placedStalls : State := { placedIadd with topks := [⟨0, 0, [0], 481, 0, false, [], 0, 1, 0⟩] }
theorem witness_fetch_stalls : fetchesB placedStalls 0x003E33C281000000 = true ∧
    (fetched placedStalls).rank ≤ issueRank (.group 0 0) wIadd ∧ stallsNow (fetched placedStalls) (.group 0 0) wIadd = true := by
  decide +kernel
-- A later quadrant has acted in the clock already.
def placedLate : State := { issuing placedIadd with
  rank := issueRank (.group 0 8) wIadd, agenda := [⟨0, .issue (.group 0 0) 0 [] false⟩] }
def lateTurn : State := { clocksLater placedLate 0 with agenda := [], cur := some (.group 0 0), upset := 0, later := false }
theorem witness_fetch_order : IssueTurn placedLate lateTurn (.group 0 0) ∧
    MayIssue lateTurn (.group 0 0) 0 0 startFront ∧ (∃ s2, Fetches lateTurn (.group 0 0) 0 startFront (leBytes 8 0x003E33C281000000) s2 ∧
      issueRank (.group 0 0) wIadd < s2.rank) :=
  ⟨⟨by decide +kernel, .inl ⟨[], ⟨0, 0, false, [], rfl, .inl rfl, rfl⟩, chosen_of (by decide +kernel)⟩⟩,
    ⟨by decide +kernel, by decide +kernel, rfl, by decide +kernel⟩,
    (readAt lateTurn).2, ⟨⟨0x8000, 0, false⟩, (foundAt lateTurn).2, (testedAt lateTurn).2, by decide +kernel, by decide +kernel,
      by decide +kernel⟩, by decide +kernel⟩
def placedIllegal : State := placed (0x01F * 2 ^ 53)
-- The same behind unfinished words: behind one with E = 0, and with E = 1, and behind 16.
def unfinishedFront (n : Nat) : Front :=
  { startFront with unfinished := List.replicate n ⟨entryAdd, Iv.top, ArrayReg.reset⟩ }
def behindWord (p : Nat × Nat) : State := (placed p.1).modGroup 0 0 (fun g => { g with front := unfinishedFront p.2 })
theorem witness_fetch_unassigned_behind : [(0x01F * 2 ^ 53, 1), (2 ^ 63 + 0x01F * 2 ^ 53, 1), (0x01F * 2 ^ 53, 16)].all (fun p =>
    frontOf (issuing (behindWord p)) (.group 0 0) = some (unfinishedFront p.2) ∧
    standing (issuing (behindWord p)) (.group 0 0) (unfinishedFront p.2) = false ∧
    frontOf (fetched (behindWord p)) (.group 0 0) = some (unfinishedFront p.2) ∧
    standing (fetched (behindWord p)) (.group 0 0) (unfinishedFront p.2) = false ∧ clockFree (behindWord p) 1 ∧
    decode (BitVec.ofNat 64 p.1) = .unassigned 0x01F ∧ (recOf (fetched (behindWord p)) 0 0).trapentry ≠ 0 ∧
    (fetched (behindWord p)).rank ≤ agentRank (.group 0 0) ∧ chosenGroup (issuing (behindWord p)) 0 0 (List.range 32) ∧
    (testedAt (issuing (behindWord p))).1 = none ∧ (readAt (issuing (behindWord p))).1 = leBytes 8 p.1) = true := by
  decide +kernel
theorem witness_fetch_unassigned : fetchesB placedIllegal (0x01F * 2 ^ 53) = true ∧
    decode (BitVec.ofNat 64 (0x01F * 2 ^ 53)) = .unassigned 0x01F ∧ (fetched placedIllegal).reports = [] ∧
    frontOf (fetched placedIllegal) (.group 0 0) = some startFront ∧
    standing (fetched placedIllegal) (.group 0 0) startFront = false ∧ (recOf (fetched placedIllegal) 0 0).trapentry ≠ 0 ∧
    (fetched placedIllegal).rank ≤ agentRank (.group 0 0) := by decide +kernel
-- Slot 1 of quadrant 0 holds a second group: it stands within its run and was chosen last, or is at its entry.
def rivals (j last : Nat) : State :=
  takeTurn ({ base with groups := [] }.setGroup 0 0 (some (placeGroup 0)) |>.setGroup 0 1
    (some { placeGroup 0 with front := { Front.start (BitVec.ofNat 57 placeAt) with j := j } })) (.group 0 last)
def turnTo (s : State) (slot : Nat) (stalls : List Nat) : State :=
  { s with agenda := [⟨4, .issue (.group 0 slot) 0 stalls false⟩] }
/-- `turnTo`, after the clocks of the turn. -/
def turned (s : State) (slot : Nat) : State :=
  { clocksLater s 4 with agenda := [], cur := some (.group 0 slot), upset := 0, later := false }
theorem turn_to (s : State) (slot : Nat) (stalls : List Nat) (h : clockFree (turnTo s slot stalls) (s.clock + 4) = true) :
    TurnOf (turnTo s slot stalls) (turned s slot) (.group 0 slot) stalls := ⟨4, 0, false, [], rfl, .inr h, rfl⟩
theorem witness_turn_of_agenda : IssueTurn (turnTo (rivals 0 0) 1 []) (turned (rivals 0 0) 1) (.group 0 1) :=
  ⟨by decide +kernel, .inl ⟨[], turn_to _ _ _ (by decide +kernel), chosen_of (by decide +kernel)⟩⟩
theorem witness_turn_past_stall : IssueTurn (turnTo (rivals 0 0) 0 [1]) (turned (rivals 0 0) 0) (.group 0 0) :=
  ⟨by decide +kernel, .inl ⟨[1], turn_to _ _ _ (by decide +kernel), chosen_of (by decide +kernel)⟩⟩
theorem witness_turn_waits : TurnOf (turnTo (held (rivals 0 0)) 0 []) (turned (held (rivals 0 0)) 0) (.group 0 0) [] ∧
    (frontOf (turned (held (rivals 0 0)) 0) (.group 0 0)).any (fun fr => decide (fr.hold ≠ none)) = true :=
  ⟨turn_to _ _ _ (by decide +kernel), by decide +kernel⟩
theorem witness_turn_refused : TurnOf (turnTo (rivals 3 1) 0 []) (turned (rivals 3 1) 0) (.group 0 0) [] ∧
    (frontOf (turned (rivals 3 1) 0) (.group 0 0)).any (fun fr => decide (fr.hold = none) &&
      !standing (turned (rivals 3 1) 0) (.group 0 0) fr) = true ∧ ¬ Chosen (turned (rivals 3 1) 0) (.group 0 0) [] :=
  ⟨turn_to _ _ _ (by decide +kernel), by decide +kernel, fun h => absurd (h.1 (by decide +kernel)) (by decide +kernel)⟩
-- A second word of the quadrant in the same clock: the quadrant has issued at clock 4 of `turned`.
def issuedTwice : State := (rivals 0 0).modCore 0 (fun c => { c with issued := [(0, (rivals 0 0).clock + 5)] })
theorem witness_turn_twice : TurnOf (turnTo issuedTwice 1 []) (turned issuedTwice 1) (.group 0 1) [] ∧
    issuedNow (turned issuedTwice 1) (.group 0 1) = true := ⟨turn_to _ _ _ (by decide +kernel), by decide +kernel⟩
/-- A node's deadline falls within the 4 clocks of the turn. -/
def dueSoon : State := modLaunch (rivals 0 0) 0 0 (fun l => { l with obj := { l.obj with deadline := 1, dlStart := some 0 } })
theorem witness_clock_held : ¬ Passes { dueSoon with agenda := [⟨2000, .event .ebudRefill⟩] } 2000 :=
  fun h => h.elim (fun h => absurd h (by decide)) (fun h => absurd h (by decide +kernel))
-- An event with no place in the clock, one with a place, and one whose place has gone by.
theorem witness_event_ranks : eventRank base .ebudRefill = none ∧ eventRank base (.nodeStart 0 0) = some (7 * 2 ^ 20) ∧
    base.rank ≤ 7 * 2 ^ 20 ∧ eventRank placedLate (.launchComplete 0 0) = some 0 ∧ 0 < placedLate.rank ∧
    base.rank ≤ agentRank (.group 0 0) ∧ agentRank (.group 0 0) < placedLate.rank := by decide +kernel
theorem witness_event_turn : (Instr.powerThrottle 3).desc = .event ∧ wIadd.desc ≠ .event := by decide
theorem witness_idle : State.reset.agenda = [] ∧ State.reset.cur = none := ⟨rfl, rfl⟩
theorem witness_step : MemInv (placed 0x003E33C281000000) ∧ Reported (placed 0x003E33C281000000) ∧
    LanesInv (placed 0x003E33C281000000) ∧ ∃ t, step (placed 0x003E33C281000000) = .next t := by
  refine ⟨⟨by decide +kernel, by decide +kernel⟩, ?_, ?_, next_of (by decide +kernel)⟩
  · show (placed 0x003E33C281000000).reports = []
    decide +kernel
  · intro p hp g hg
    have h : (placed 0x003E33C281000000).groups = [(0, some (placeGroup 0))] := by decide +kernel
    rw [h, List.mem_singleton] at hp
    subst hp
    simp only [Option.some.injEq] at hg
    subst hg
    decide +kernel
-- The step runs the placed IADD k3, k1, 4: k3 of lane 0 becomes 4 (chapter 02).
theorem test_step_iadd : after (step (placed 0x003E33C281000000)) (fun t => match t.unit? 0 with
      | some u => decide ((u.thread 0).reg 483 = 4)
      | none => false) = true := by decide +kernel
-- XstatFieldsStand, DecodeOfEncode and EncodeOfDecode.
theorem witness_xstat : (23 : Nat) < 24 ∧ (255 : Nat) < 256 ∧ (31 : Nat) < 32 ∧ (63 : Nat) < 64 ∧ (7 : Nat) < 8 := by decide
-- Legal and illegal fields of words of several families, and of a pair whose reads fall in one bank.
theorem witness_legal : legalWord .vector wIadd ∧ ¬ legalWord .vector wBadMbz ∧ wIadd.classOk .vector = true ∧
    wBadMbz.classOk .vector = true ∧ ¬ legalPair .vector ⟨false, ⟨3, 4, .reg 8, false, 0⟩, ⟨0x22, 9, .reg 14, false, 0⟩⟩ := by
  refine ⟨?_, ?_, by decide, by decide, ?_⟩
  · refine ⟨by decide, by decide, trivial, trivial, rfl, by decide, .inl rfl⟩
  · rintro ⟨-, -, -, -, h, -⟩
    exact absurd (show Src.reg 3 = Src.reg 0 from h) (by decide)
  · rintro ⟨-, -, -, -, h⟩
    exact absurd (h 4 8 (.inl (.inl ⟨rfl, by decide⟩)) (.inl (.inr ⟨by decide, 8, rfl, .inl rfl⟩)) rfl) (by decide)
theorem witness_encode : wIadd.wf .vector = true ∧ encode wIadd = some 0x003E33C281000000 ∧
    decode 0x003E33C281000000 = .word wIadd := by decide

-- Memory words: the array registers of `base`.

def memB (s : State) (want : Want) (spaces : List Nat) (o : MOps) (n : Nat) : Front → Cap → Group → Unit_ → Bool :=
  fun _ c _ u => admittedB s u o c spaces (some n) && reachedB s 0 u.func want (accesses s u o c) n (seen s 0 u.func (accesses s u o c))

/-- What memB says of a word on a settled state, in the statements' terms. -/
theorem memory_of {i : Instr} {s : State} {want : Want} {spaces : List Nat} {o : MOps} {n : Nat}
    (h : onGroupB i s 0 0 0 0 (memB s want spaces o n) = true) : ∃ fr c g u xs, OnGroup i s 0 0 0 0 fr c g u ∧
      Admitted s u o c spaces (some n) ∧ Reached s 0 u.func want (accesses s u o c) n xs := by
  obtain ⟨fr, c, g, u, hg, hp⟩ := onGroup_of h
  simp only [memB, Bool.and_eq_true] at hp
  exact ⟨fr, c, g, u, _, hg, admitted_of hp.1, reached_of hp.2⟩

theorem local_of {i : Instr} {s : State} {spaces : List Nat} {o : MOps} {n : Nat}
    (h : onGroupB i s 0 0 0 0 (fun _ c _ u => admittedB s u o c spaces (some n)) = true) : ∃ fr c g u,
      OnGroup i s 0 0 0 0 fr c g u ∧ Admitted s u o c spaces (some n) := by
  obtain ⟨fr, c, g, u, hg, hp⟩ := onGroup_of h
  exact ⟨fr, c, g, u, hg, admitted_of hp⟩

-- Of AsetSetsArrayRegister.
def wAset : AOps := aop 4 (.lit 0) (.lit 64) (.lit 66)
theorem witness_aset : ∃ fr c g u, OnGroup (.aset wAset) base 0 0 0 0 fr c g u ∧ (decide (c.present ≠ []) &&
    decide (∀ m ∈ c.present, wide c true true wAset.s1 (c.a1 m) = 0 ∧ c.a2 m = 64 ∧ c.a3 m = 66)) = true :=
  onGroup_of (P := fun _ c _ _ => decide (c.present ≠ []) &&
    decide (∀ m ∈ c.present, wide c true true wAset.s1 (c.a1 m) = 0 ∧ c.a2 m = 64 ∧ c.a3 m = 66)) (by decide +kernel)
def wAsetExt : AOps := aop 0 (.lit 10) (.reg 0) (.reg 0) 1
theorem witness_aset_ext : ∃ fr c g u, OnGroup (.aset wAsetExt) base 0 0 0 0 fr c g u ∧ (decide (c.present ≠ []) &&
    decide (∀ m ∈ c.present, c.a1 m = 10) && (u.areg 0).attr.getLsbD 6 && ({ u.areg 0 with ext := 10 } : ArrayReg).fits u.xbytes) = true :=
  onGroup_of (P := fun _ c _ u => decide (c.present ≠ []) && decide (∀ m ∈ c.present, c.a1 m = 10)
    && (u.areg 0).attr.getLsbD 6 && ({ u.areg 0 with ext := 10 } : ArrayReg).fits u.xbytes) (by decide +kernel)

-- Of LoadsReturnVisibleBytes: LD of a0 by lane; LDU at 3 and outside the extent.
def oLd : MOps := mop 1 0 (.reg 5) 4
theorem witness_ld : Settled base ∧ ∃ fr c g u xs, OnGroup (.ld oLd) base 0 0 0 0 fr c g u ∧ Admitted base u oLd c [0] (some 4) ∧
    Reached base 0 u.func .read (accesses base u oLd c) 4 xs := ⟨settled_base, memory_of (by decide +kernel)⟩
theorem witness_ld_buffer : (base.unit? 0).any (fun u => decide (u.buffer = [])) = true := by decide +kernel
def oLdu : MOps := mop 1 0 (.lit 3) 4
theorem witness_ldu : ∃ fr c g u, OnGroup (.ldu oLdu) single 0 0 0 0 fr c g u ∧ (memB single .read [0] oLdu 4 fr c g u &&
    decide (∀ m ∈ c.active, c.a1 m = 3) && decide ((accesses single u oLdu c).length = 1)) = true :=
  onGroup_of (P := fun fr c g u => memB single .read [0] oLdu 4 fr c g u &&
    decide (∀ m ∈ c.active, c.a1 m = 3) && decide ((accesses single u oLdu c).length = 1)) (by decide +kernel)
def oLduOut : MOps := mop 1 0 (.lit 100) 4
theorem witness_ldu_masked : ∃ fr c g u, OnGroup (.ldu oLduOut) base 0 0 0 0 fr c g u ∧ (admittedB base u oLduOut c [0] (some 4) &&
    decide (∀ m ∈ c.active, c.a1 m = 100) && decide (accesses base u oLduOut c = [])) = true :=
  onGroup_of (P := fun _ c _ u => admittedB base u oLduOut c [0] (some 4) &&
    decide (∀ m ∈ c.active, c.a1 m = 100) && decide (accesses base u oLduOut c = [])) (by decide +kernel)
-- R110: a lane outside the extent receives 0 and its thread's bounds flag.
theorem test_ld_masked : after (exec (.ldu oLduOut) base) (fun t => match t.unit? 0 with
      | some u => decide ((u.thread 7).reg 1 = 0) && (u.thread 7).bounds
      | none => false) = true := by decide +kernel
-- LD.b32 of bytes 1, 2, 3, 4 at 0x10004 gives lane 1 0x04030201 (R10, R113).
theorem test_ld : after (exec (.ld oLd) (pokeBytes base 0x10004 [1, 2, 3, 4])) (fun t => match t.unit? 0 with
      | some u => decide ((u.thread 1).reg 1 = 0x04030201) && decide ((u.thread 0).reg 1 = 0)
      | none => false) = true := by decide +kernel

-- Of LocalWordsAccessXAndY. No word of X or Y has an uncorrectable error.
theorem sound_nil (a n : Nat) : SoundAt [] a n := fun _ h => absurd h (List.not_mem_nil)
def oLdx : MOps := mop 1 1 (.reg 5) 4
theorem witness_ldx : ∃ fr c g u, OnGroup (.ldx oLdx) base 0 0 0 0 fr c g u ∧ Admitted base u oLdx c [1] (some 4) :=
  local_of (by decide +kernel)
def oLduX : MOps := mop 1 1 (.lit 3) 4
theorem witness_ldu_x : ∃ fr c g u, OnGroup (.ldu oLduX) base 0 0 0 0 fr c g u ∧ (admittedB base u oLduX c [1] (some 4) &&
    decide (∀ m ∈ c.active, c.a1 m = 3) && (accesses base u oLduX c).head?.isSome) = true :=
  onGroup_of (P := fun _ c _ u => admittedB base u oLduX c [1] (some 4) && decide (∀ m ∈ c.active, c.a1 m = 3)
    && (accesses base u oLduX c).head?.isSome) (by decide +kernel)
def oLduXOut : MOps := mop 1 1 (.lit 100) 4
theorem witness_ldu_x_masked : ∃ fr c g u, OnGroup (.ldu oLduXOut) base 0 0 0 0 fr c g u ∧ (admittedB base u oLduXOut c [1] (some 4) &&
    decide (∀ m ∈ c.active, c.a1 m = 100) && decide (accesses base u oLduXOut c = [])) = true :=
  onGroup_of (P := fun _ c _ u => admittedB base u oLduXOut c [1] (some 4) &&
    decide (∀ m ∈ c.active, c.a1 m = 100) && decide (accesses base u oLduXOut c = [])) (by decide +kernel)
/-- Y with an entry that is sealed, or is reclaimed while a word reads it. -/
def sealedY (st : SealState) : State := base.modCluster 0 (fun c => { c with ySeals := [⟨0, 256, st, 1, none, false⟩] })
def oLdy : MOps := mop 1 2 (.reg 5) 4
def ldyB (s : State) : Front → Cap → Group → Unit_ → Bool := fun _ c _ u => admittedB s u oLdy c [2] (some 4) &&
  decide ((s.cluster (u.core / 4)).badY = []) && (accesses s u oLdy c).all (fun p => (s.cluster (u.core / 4)).ySeals.any (fun e =>
    decide (e.state ≠ .filling ∧ e.start ≤ p.2 ∧ p.2 + 4 ≤ e.start + e.len)))
theorem witness_ldy : ∃ fr c g u, OnGroup (.ldy oLdy) (sealedY .sealed) 0 0 0 0 fr c g u ∧ ldyB (sealedY .sealed) fr c g u = true :=
  onGroup_of (by decide +kernel)
theorem witness_ldy_reclaiming : ∃ fr c g u, OnGroup (.ldy oLdy) (sealedY .reclaiming) 0 0 0 0 fr c g u ∧
    ldyB (sealedY .reclaiming) fr c g u = true := onGroup_of (by decide +kernel)
theorem settled_y : Settled (sealedY .sealed) ∧ Settled (sealedY .reclaiming) :=
  ⟨settled_of (by decide +kernel), settled_of (by decide +kernel)⟩
theorem witness_stx : (base.core 0).badX = [] ∧ (base.core 0).barriers = [] ∧ (base.cluster 0).queues = [] ∧ (base.core 0).seals = [] ∧
    ∃ fr c g u, OnGroup (.stx oLdx) base 0 0 0 0 fr c g u ∧ Admitted base u oLdx c [1] (some 4) :=
  ⟨by decide +kernel, by decide +kernel, by decide +kernel, by decide +kernel, local_of (by decide +kernel)⟩

-- Of StoresSendTheirBytes: by lane, every lane at 3, and a contained unit.
theorem witness_st : ∃ fr c g u, OnGroup (.st oLd) base 0 0 0 0 fr c g u ∧ (memB base .write [0] oLd 4 fr c g u &&
    decide (((seen base 0 u.func (accesses base u oLd c)).map (fun x => x.t.pa)).Nodup) && !u.contain) = true :=
  onGroup_of (P := fun fr c g u => memB base .write [0] oLd 4 fr c g u &&
    decide (((seen base 0 u.func (accesses base u oLd c)).map (fun x => x.t.pa)).Nodup) && !u.contain) (by decide +kernel)
theorem witness_st_same : ∃ fr c g u, OnGroup (.st oLdu) base 0 0 0 0 fr c g u ∧ (memB base .write [0] oLdu 4 fr c g u &&
    !decide (((seen base 0 u.func (accesses base u oLdu c)).map (fun x => x.t.pa)).Nodup) && !u.contain) = true :=
  onGroup_of (P := fun fr c g u => memB base .write [0] oLdu 4 fr c g u &&
    !decide (((seen base 0 u.func (accesses base u oLdu c)).map (fun x => x.t.pa)).Nodup) && !u.contain) (by decide +kernel)
def contained : State := base.modUnit 0 (fun u => { u with contain := true, relaunchable := true })
theorem witness_st_contained : ∃ fr c g u, OnGroup (.st oLd) contained 0 0 0 0 fr c g u ∧
    (memB contained .write [0] oLd 4 fr c g u && u.contain && u.relaunchable && decide (u.buffer = [])) = true :=
  onGroup_of (P := fun fr c g u => memB contained .write [0] oLd 4 fr c g u && u.contain && u.relaunchable && decide (u.buffer = []))
    (by decide +kernel)

-- Of AtomicsReadModifyWrite and ReductionsAndUpdatesContribute.
def oAtom : MOps := mop 8 0 (.reg 5) 2
theorem witness_atomic : atomicOf (.atomAdd oAtom) = some (oAtom, newOf 0 2) ∧ ∃ fr c g u, OnGroup (.atomAdd oAtom) base 0 0 0 0 fr c g u ∧
    (memB base .write [0] oAtom 4 fr c g u && !u.contain && decide ((u.aregAt base.clock 0).space = 0)) = true :=
  ⟨rfl, onGroup_of (P := fun fr c g u => memB base .write [0] oAtom 4 fr c g u && !u.contain && decide ((u.aregAt base.clock 0).space = 0))
    (by decide +kernel)⟩
def oAtomX : MOps := mop 8 1 (.reg 5) 2
theorem witness_atomic_x : ∃ fr c g u, OnGroup (.atomAdd oAtomX) base 0 0 0 0 fr c g u ∧ Admitted base u oAtomX c [1] (some 4) :=
  local_of (by decide +kernel)
-- ATOM.add.n32 by 32 lanes of 1 each at one element leaves 32, and lane 31 sees 31 (R117).
theorem test_atomic_adds : after (exec (.atomAdd (mop 8 1 (.lit 0) 2)) (base.modUnit 0 (fun u => { u with
      threads := (List.range 32).map (fun i => (i, { Thread.start with r := [(8, 1)] })) }))) (fun t => match t.unit? 0 with
      | some u => decide ((u.thread 31).reg 8 = 31) && decide (NatMap.get 0 (t.core 0).x 0 = 32)
      | none => false) = true := by decide +kernel
theorem witness_red : reductionOf (.redAdd oAtom) = some (oAtom, 0) ∧ ∃ fr c g u, OnGroup (.redAdd oAtom) base 0 0 0 0 fr c g u ∧
    (memB base .write [0] oAtom 4 fr c g u && !u.contain &&
      decide (((seen base 0 u.func (accesses base u oAtom c)).map (fun x => x.t.pa)).Nodup)) = true :=
  ⟨rfl, onGroup_of (P := fun fr c g u => memB base .write [0] oAtom 4 fr c g u && !u.contain &&
      decide (((seen base 0 u.func (accesses base u oAtom c)).map (fun x => x.t.pa)).Nodup)) (by decide +kernel)⟩
theorem witness_red_x : ∃ fr c g u, OnGroup (.redAdd oAtomX) base 0 0 0 0 fr c g u ∧ Admitted base u oAtomX c [1] (some 4) :=
  local_of (by decide +kernel)
def oUpd : MOps := mop 1 0 (.reg 5) 0
theorem witness_upd : updateOf (.updAddI32 oUpd) = some (oUpd, 0) ∧ ∃ fr c g u, OnGroup (.updAddI32 oUpd) single 0 0 0 0 fr c g u ∧
    (memB single .write [0] oUpd 4 fr c g u && !u.contain && decide ((seen single 0 0 (accesses single u oUpd c)).length = 1) &&
      decide (homeOf single 0x10000 ≠ 4) && decide (partialOf single u.core (secOf 0x10000) = none)) = true :=
  ⟨rfl, onGroup_of (P := fun fr c g u => memB single .write [0] oUpd 4 fr c g u && !u.contain &&
      decide ((seen single 0 0 (accesses single u oUpd c)).length = 1) && decide (homeOf single 0x10000 ≠ 4) &&
      decide (partialOf single u.core (secOf 0x10000) = none)) (by decide +kernel)⟩
def uncached : State := { single with tlbs := [(0, [⟨0, 16, 16, 0, true, true, true, 1⟩])] }
theorem witness_upd_uncached : ∃ fr c g u, OnGroup (.updAddI32 oUpd) uncached 0 0 0 0 fr c g u ∧
    (memB uncached .write [0] oUpd 4 fr c g u && (seen uncached 0 0 (accesses uncached u oUpd c)).all (fun x => x.t.unc)) = true :=
  onGroup_of (P := fun fr c g u => memB uncached .write [0] oUpd 4 fr c g u &&
    (seen uncached 0 0 (accesses uncached u oUpd c)).all (fun x => x.t.unc)) (by decide +kernel)

-- Of BadAccessTraps: LD of an X array, and LD past the extent of a3, which traps.
theorem witness_array_bad : (recOf base 0 0).trapentry ≠ 0 ∧ ∃ fr c g u, OnGroup (.ld oLdx) base 0 0 0 0 fr c g u ∧
    (arrayBad (u.areg 1) [0] (some 4) && !fr.priv) = true :=
  ⟨by decide +kernel, onGroup_of (P := fun fr _ _ u => arrayBad (u.areg 1) [0] (some 4) && !fr.priv) (by decide +kernel)⟩
def oLdTrap : MOps := mop 1 3 (.reg 5) 4
theorem witness_bounds : ∃ fr c g u, OnGroup (.ld oLdTrap) base 0 0 0 0 fr c g u ∧ (!arrayBad (u.areg 3) [0] (some 4) && !fr.priv &&
    decide ((masked base u oLdTrap c).head? = some 4) && (u.areg 3).act) = true :=
  onGroup_of (P := fun fr c _ u => !arrayBad (u.areg 3) [0] (some 4) && !fr.priv &&
    decide ((masked base u oLdTrap c).head? = some 4) && (u.areg 3).act) (by decide +kernel)
/-- The same for each word and array space of the statement: v5 is the lane; a3 has 4 words, with ACT = TRAP, in the space. -/
def trapSpace (n : Nat) : State := base.modUnit 0 (fun u => { u with a := [(3, ⟨0, 4, BitVec.ofNat 32 (98 + 8 * n)⟩)] })
theorem witness_bounds_all : [((.st oLdTrap : Instr), 0), (.ldx oLdTrap, 1), (.stx oLdTrap, 1), (.ldy oLdTrap, 2)].all (fun p =>
    onGroupB p.1 (trapSpace p.2) 0 0 0 0 (fun fr c _ u => !arrayBad (u.areg 3) [p.2] (some 4) && !fr.priv &&
      decide ((masked (trapSpace p.2) u oLdTrap c).head? = some 4) && (u.areg 3).act)) = true := by decide +kernel
-- R319: BOUNDS is cause 8; XADDR is the lowest masked lane's index, XMASK the masked lanes.
theorem test_bounds : after (exec (.ld oLdTrap) base) (fun t => match t.group? 0 0 with
      | some g => decide (g.front.xcause = 8) && decide (g.front.xaddr = 4) && decide (g.front.xmask = 0xFFFFFFF0)
      | none => false) = true := by decide +kernel

-- Of CacheWordsAndFences. The lines that PREF fills meet no error; their home is the die of the core, or die 1.
def farBase : State := { base with tlbs := [(0, [⟨0, 16, 33554432, 0, false, true, true, 1⟩])] }
theorem witness_pref_fills : [(base, 0x10000), (farBase, 2 ^ 37)].all (fun p => [0, 1, 2, 3].all (fun i =>
    decide (accErr p.1 (64 * (4 * lineOf p.2 + i)) 0 = none) && !(p.1.die 0).bad.contains (4 * lineOf p.2 + i) &&
    decide (partialOf p.1 0 (4 * lineOf p.2 + i) = none) && decide (l1Copy p.1 0 (4 * lineOf p.2 + i) = none))) = true ∧
    homeOf base 0x10000 = 0 ∧ homeOf farBase (2 ^ 37) = 1 := by decide +kernel
theorem settled_far : Settled farBase := settled_of (by decide +kernel)
theorem witness_bvmask : ∃ fr c g u, OnGroup (.bvmask (aop 1 (.reg 0) (.reg 0) (.reg 0))) base 0 0 0 0 fr c g u ∧ always fr c g u = true :=
  onGroup_of (by decide +kernel)
def oPref : MOps := mop 0 0 (.reg 5) 0
theorem witness_pref : ∃ fr c g u, OnGroup (.pref oPref) base 0 0 0 0 fr c g u ∧ (!arrayBad (u.areg 0) [0] none &&
    decide (c.active.length ≤ 32) && reachedB base 0 0 .read (accesses base u oPref c) 1 (seen base 0 0 (accesses base u oPref c)) &&
    (seen base 0 0 (accesses base u oPref c)).all (fun x => (List.range 4).all (fun i => keyedB base (64 * (4 * lineOf x.t.pa + i)) x.t.key))) = true :=
  onGroup_of (P := fun _ c _ u => !arrayBad (u.areg 0) [0] none &&
    decide (c.active.length ≤ 32) && reachedB base 0 0 .read (accesses base u oPref c) 1 (seen base 0 0 (accesses base u oPref c)) &&
    (seen base 0 0 (accesses base u oPref c)).all (fun x => (List.range 4).all (fun i => keyedB base (64 * (4 * lineOf x.t.pa + i)) x.t.key)))
    (by decide +kernel)
theorem witness_pref_far : ∃ fr c g u, OnGroup (.pref oPref) farBase 0 0 0 0 fr c g u ∧ (!arrayBad (u.areg 0) [0] none &&
    reachedB farBase 0 0 .read (accesses farBase u oPref c) 1 (seen farBase 0 0 (accesses farBase u oPref c)) &&
    (seen farBase 0 0 (accesses farBase u oPref c)).all (fun x => !x.t.unc && decide (homeOf farBase x.t.pa = 1))) = true :=
  onGroup_of (P := fun _ c _ u => !arrayBad (u.areg 0) [0] none &&
    reachedB farBase 0 0 .read (accesses farBase u oPref c) 1 (seen farBase 0 0 (accesses farBase u oPref c)) &&
    (seen farBase 0 0 (accesses farBase u oPref c)).all (fun x => !x.t.unc && decide (homeOf farBase x.t.pa = 1))) (by decide +kernel)
theorem witness_cinv : ∃ fr c g u, OnGroup (.cinv oPref) base 0 0 0 0 fr c g u ∧ (!arrayBad (u.areg 0) [0] none &&
    reachedB base 0 0 .read (accesses base u oPref c) 1 (seen base 0 0 (accesses base u oPref c))) = true :=
  onGroup_of (P := fun _ c _ u => !arrayBad (u.areg 0) [0] none &&
    reachedB base 0 0 .read (accesses base u oPref c) 1 (seen base 0 0 (accesses base u oPref c))) (by decide +kernel)
def oCwb : MOps := mop 0 0 (.reg 5) 0 .rlx 5
theorem witness_cwb : ∃ fr c g u, OnGroup (.cwb oCwb) single 0 0 0 0 fr c g u ∧ (!arrayBad (u.areg 0) [0] none &&
    reachedB single 0 0 .read (accesses single u oCwb c) 1 (seen single 0 0 (accesses single u oCwb c)) &&
    decide ((seen single 0 0 (accesses single u oCwb c)).length = 1)) = true :=
  onGroup_of (P := fun _ c _ u => !arrayBad (u.areg 0) [0] none &&
    reachedB single 0 0 .read (accesses single u oCwb c) 1 (seen single 0 0 (accesses single u oCwb c)) &&
    decide ((seen single 0 0 (accesses single u oCwb c)).length = 1)) (by decide +kernel)
def wFence : AOps := aop 4 (.reg 0) (.reg 0) (.reg 0) 1
theorem witness_fence : wFence.x ≠ 2 ∧ 2 ≤ wFence.d.toNat ∧ ∃ fr c g u, OnGroup (.fence wFence) base 0 0 0 0 fr c g u ∧
    decide (c.active ≠ []) = true :=
  ⟨by decide, by decide, onGroup_of (P := fun _ c _ _ => decide (c.active ≠ [])) (by decide +kernel)⟩
theorem witness_fence_quartz : ∃ fr c q, OnQuartz (.fence wFence) quartz 0 0 0 0 fr c q ∧ alwaysQ fr c q = true :=
  onQuartz_of (by decide +kernel)

-- Engines, seals, barriers and queues.

def uniformB (c : Cap) (f : Nat → DWord) (v : DWord) : Bool := decide (c.present ≠ []) && decide (∀ m ∈ c.present, f m = v)
theorem uniform_of {c : Cap} {f : Nat → DWord} {v : DWord} (h : uniformB c f v = true) : Uniform c f v := by
  simpa [uniformB, Uniform] using h

def putX (s : State) (a : Nat) (b : List Byte) : State := s.modCore 0 (fun c => { c with x := NatMap.setRange 0 c.x a b })

/-- A copy of 64 bytes from 0x10000 to X offset 0x100. -/
def copyBytes : List Byte :=
  leBytes 8 0x10000 ++ leBytes 8 0x100 ++ leBytes 4 1 ++ leBytes 4 64 ++ leBytes 4 64 ++ leBytes 4 64 ++ leBytes 4 4
    ++ leBytes 4 0xFFFFFFFF ++ leBytes 24 0
def copyState : State := putX base 64 copyBytes
def oCpy : AOps := aop 0 (.sreg 5) (.lit 64) (.reg 0)
theorem witness_engine : engineOf (.cpy oCpy) = some (oCpy, .cpy) ∧ ∃ fr c g u, OnGroup (.cpy oCpy) copyState 0 0 0 0 fr c g u ∧
    (!u.contain && uniformB c c.a2 64 && decide (128 ≤ u.xbytes) &&
      decide (NatMap.getRange 0 (copyState.core u.core).x (u.xoff + 64) 64 = copyBytes) && descOk .cpy u (descOf copyBytes) &&
      (destCores .cpy u).all (fun n => peerOn copyState u n) && decide (sealSrc .cpy copyState u (descOf copyBytes) = none) &&
      decide (sealDst .cpy copyState u (descOf copyBytes) = none)) = true :=
  ⟨rfl, onGroup_of (P := fun _ c _ u => !u.contain && uniformB c c.a2 64 && decide (128 ≤ u.xbytes) &&
      decide (NatMap.getRange 0 (copyState.core u.core).x (u.xoff + 64) 64 = copyBytes) && descOk .cpy u (descOf copyBytes) &&
      (destCores .cpy u).all (fun n => peerOn copyState u n) && decide (sealSrc .cpy copyState u (descOf copyBytes) = none) &&
      decide (sealDst .cpy copyState u (descOf copyBytes) = none)) (by decide +kernel)⟩
-- No word of X that the descriptor or a pass reads has an uncorrectable error, and the operations' numbers lie in the past.
theorem witness_engine_sound : (copyState.core 0).badX = [] ∧ copyState.engineOps = [] := by decide +kernel
-- The first copy takes number 1 of timeline 0 (R125).
theorem test_cpy : after (exec (.cpy oCpy) copyState) (fun t => decide (t.engineOps.map (fun o => (o.tl, o.num, o.token)) = [(0, 1, 5)]))
    = true := by decide +kernel

-- Of SealEntriesLiveAndDie.
def oSeal : AOps := aop 0 (.lit 0) (.reg 4) (.reg 0)
/-- v4 of each thread is 256. -/
def sealState : State := base.modUnit 0 (fun u => { u with
  threads := (List.range 32).map (fun i => (i, { Thread.start with r := [(4, 256)] })) })
theorem witness_seal : (sealState.core 0).seals = [] ∧ ∃ fr c g u, OnGroup (.seal oSeal) sealState 0 0 0 0 fr c g u ∧
    (decide (c.active ≠ []) && uniformB c c.a1 0 && uniformB c c.a2 256 && decide (256 ≤ u.xbytes) &&
      !copyInto sealState u u.xoff 256) = true :=
  ⟨by decide +kernel, onGroup_of (P := fun _ c _ u => decide (c.active ≠ []) && uniformB c c.a1 0 && uniformB c c.a2 256
    && decide (256 ≤ u.xbytes) && !copyInto sealState u u.xoff 256) (by decide +kernel)⟩
def sealed0 : State := ((base.modCore 0 (fun c => { c with seals := [⟨0, 256, .sealed, 0, some 0, false⟩] })).modCluster 0
  (fun c => { c with wSeals := [⟨0, 256, .sealed, 0, none, false⟩], ySeals := [⟨0, 256, .sealed, 0, none, false⟩] }))
def oReclaim (x : BitVec 3) : AOps := aop 0 (.lit 0) (.reg 0) (.reg 0) x
def reclaimB (tab : SealTab) : Front → Cap → Group → Unit_ → Bool := fun _ c _ u =>
  decide (c.active ≠ []) && uniformB c c.a1 0 && decide (u.core = 0 ∧ u.xoff = 0 ∧ 0 < u.xbytes) &&
    (sealsOf sealed0 tab).any (fun e => decide (e.start = 0 ∧ e.state = .sealed))
theorem witness_reclaim_x : ∃ fr c g u, OnGroup (.reclaim (oReclaim 0)) sealed0 0 0 0 0 fr c g u ∧ reclaimB (.x 0) fr c g u = true :=
  onGroup_of (by decide +kernel)
theorem witness_reclaim_w : ∃ fr c g u, OnGroup (.reclaim (oReclaim 1)) sealed0 0 0 0 0 fr c g u ∧ reclaimB (.w 0) fr c g u = true :=
  onGroup_of (by decide +kernel)
theorem witness_reclaim_y : ∃ fr c g u, OnGroup (.reclaim (oReclaim 2)) sealed0 0 0 0 0 fr c g u ∧ reclaimB (.y 0) fr c g u = true :=
  onGroup_of (by decide +kernel)
def reclaiming0 : State := ((base.modCore 0 (fun c => { c with seals := [⟨0, 256, .reclaiming, 0, some 0, false⟩] })).modCluster 0
  (fun c => { c with wSeals := [⟨0, 256, .reclaiming, 0, none, false⟩], ySeals := [⟨0, 256, .reclaiming, 0, none, false⟩] }))
theorem witness_remove : reclaiming0.reports = [] ∧ [SealTab.x 0, .w 0, .y 0].all (fun tab =>
    (sealsOf reclaiming0 tab).any (fun e => decide (e.start = 0 ∧ e.state = .reclaiming ∧ e.refs = 0))) = true := by decide +kernel

-- Of BarrierWordsArriveAndWait. A second group holds threads 32 to 63 in the first case.
def wBar : AOps := aop 0 (.reg 0) (.reg 0) (.reg 0) 0 .none true
def twoGroups : State := base.modUnit 0 (fun u => { u with nthreads := 64 })
theorem witness_bar_parks : ∃ fr c g u, OnGroup (.bar wBar) twoGroups 0 0 0 0 fr c g u ∧ (u.live.any (fun th =>
    !u.arrived.contains th && c.present.all (fun m => decide (laneThread twoGroups c.agent m ≠ th)))) = true :=
  onGroup_of (P := fun _ c _ u => u.live.any (fun th =>
    !u.arrived.contains th && c.present.all (fun m => decide (laneThread twoGroups c.agent m ≠ th)))) (by decide +kernel)
theorem settled_two : Settled twoGroups := settled_of (by decide +kernel)
theorem witness_bar_opens : ∃ fr c g u, OnGroup (.bar wBar) base 0 0 0 0 fr c g u ∧ (decide (c.present ≠ []) && u.live.all (fun th =>
    u.arrived.contains th || c.present.any (fun m => decide (laneThread base c.agent m = th)))) = true :=
  onGroup_of (P := fun _ c _ u => decide (c.present ≠ []) && u.live.all (fun th =>
    u.arrived.contains th || c.present.any (fun m => decide (laneThread base c.agent m = th)))) (by decide +kernel)
def oByte : AOps := aop 0 (.lit 0) (.lit 10) (.reg 0)
theorem witness_binit : BarrierPlain base 0 0 ∧ barrierWaited base 0 0 = false ∧ ∃ fr c g u,
    OnGroup (.binit oByte) base 0 0 0 0 fr c g u ∧ (uniformB c c.a1 0 && uniformB c c.a2 10 && decide (16 ≤ u.xbytes)) = true :=
  ⟨⟨by decide +kernel, by decide +kernel, by decide +kernel⟩, by decide +kernel,
    onGroup_of (P := fun _ c _ u => uniformB c c.a1 0 && uniformB c c.a2 10 && decide (16 ≤ u.xbytes)) (by decide +kernel)⟩
/-- The object at X offset 0: 0 expected, 10 arrived, PHASE 3. -/
def arrived10 : State := putX base 4 (leBytes 4 10 ++ leBytes 4 3)
theorem witness_bexp_short : xWord base 0 4 < xWord base 0 0 + 10 ∧ ∃ fr c g u, OnGroup (.bexp oByte) base 0 0 0 0 fr c g u ∧
    (uniformB c c.a1 0 && uniformB c c.a2 10 && decide (16 ≤ u.xbytes)) = true :=
  ⟨by decide +kernel, onGroup_of (P := fun _ c _ u => uniformB c c.a1 0 && uniformB c c.a2 10 && decide (16 ≤ u.xbytes))
    (by decide +kernel)⟩
-- The boundary: as many arrived as are expected.
theorem witness_bexp_full : BarrierPlain arrived10 0 0 ∧ xWord arrived10 0 0 + 10 ≠ 0 ∧
    xWord arrived10 0 0 + 10 ≤ xWord arrived10 0 4 ∧ ∃ fr c g u, OnGroup (.bexp oByte) arrived10 0 0 0 0 fr c g u ∧
    (uniformB c c.a1 0 && uniformB c c.a2 10 && decide (16 ≤ u.xbytes)) = true :=
  ⟨⟨by decide +kernel, by decide +kernel, by decide +kernel⟩, by decide +kernel, by decide +kernel,
    onGroup_of (P := fun _ c _ u => uniformB c c.a1 0 && uniformB c c.a2 10 && decide (16 ≤ u.xbytes)) (by decide +kernel)⟩
-- A BEXP whose sum passes 32 bits, in a launch with a handler.
def manyExpected : State := putX base 0 (leBytes 4 (2 ^ 32 - 5))
theorem witness_bexp_traps : BarrierPlain manyExpected 0 0 ∧ 2 ^ 32 ≤ xWord manyExpected 0 0 + 10 ∧ (recOf manyExpected 0 0).trapentry ≠ 0 ∧
    ∃ fr c g u, OnGroup (.bexp oByte) manyExpected 0 0 0 0 fr c g u ∧
      (uniformB c c.a1 0 && uniformB c c.a2 10 && decide (16 ≤ u.xbytes) && !fr.priv) = true :=
  ⟨⟨by decide +kernel, by decide +kernel, by decide +kernel⟩, by decide +kernel, by decide +kernel,
    onGroup_of (P := fun fr c _ u => uniformB c c.a1 0 && uniformB c c.a2 10 && decide (16 ≤ u.xbytes) && !fr.priv) (by decide +kernel)⟩
def oBwait (n : BitVec 9) : AOps := aop 0 (.lit 0) (.lit n) (.reg 0) 0 .none true
theorem witness_bwait_on : xWord arrived10 0 8 ≠ 2 ∧ ∃ fr c g u, OnGroup (.bwait (oBwait 2)) arrived10 0 0 0 0 fr c g u ∧
    (uniformB c c.a1 0 && uniformB c c.a2 2 && decide (16 ≤ u.xbytes)) = true :=
  ⟨by decide +kernel, onGroup_of (P := fun _ c _ u => uniformB c c.a1 0 && uniformB c c.a2 2 && decide (16 ≤ u.xbytes))
    (by decide +kernel)⟩
theorem witness_bwait_parks : xWord arrived10 0 8 = 3 ∧ ∃ fr c g u, OnGroup (.bwait (oBwait 3)) arrived10 0 0 0 0 fr c g u ∧
    (uniformB c c.a1 0 && uniformB c c.a2 3 && decide (16 ≤ u.xbytes)) = true :=
  ⟨by decide +kernel, onGroup_of (P := fun _ c _ u => uniformB c c.a1 0 && uniformB c c.a2 3 && decide (16 ≤ u.xbytes))
    (by decide +kernel)⟩

-- Of QueueWordsPushAndPop.
theorem no_waiters {s : State} (f l cl q : Nat) (hu : s.units = [(0, s.unit? 0)])
    (hp : (s.unit? 0).all (fun u => decide (u.parked = [])) = true) (hc : s.ctxs = []) : NoWaiters s f l cl q := by
  cases h : s.unit? 0 with
  | none => rw [h] at hu; constructor <;> simp [waitersOf, hu, hc]
  | some u =>
    rw [h] at hu hp
    have hp' : u.parked = [] := by simpa using hp
    constructor <;> simp [waitersOf, hu, hc, hp']
theorem base_no_waiters (q : Nat) : NoWaiters base 0 0 0 q :=
  no_waiters 0 0 0 q (by decide +kernel) (by decide +kernel) (by decide +kernel)
def oQinit : AOps := aop 0 (.lit 1) (.lit 0) (.lit 4) 1
theorem witness_qinit : queueOf base 0 0 0 1 = none ∧ sealHit base (.x 0) 0 48 anySeal = false ∧ (base.core 0).barriers = [] ∧
    (base.cluster 0).queues = [] ∧ ∃ fr c g u, OnGroup (.qinit oQinit) base 0 0 0 0 fr c g u ∧ (uniformB c c.a1 1 &&
      uniformB c c.a2 0 && uniformB c c.a3 4 && decide (u.live ≠ []) && decide (48 ≤ u.xbytes)) = true :=
  ⟨by decide +kernel, by decide +kernel, by decide +kernel, by decide +kernel, onGroup_of (P := fun _ c _ u => uniformB c c.a1 1 &&
      uniformB c c.a2 0 && uniformB c c.a3 4 && decide (u.live ≠ []) && decide (48 ≤ u.xbytes)) (by decide +kernel)⟩
/-- Queue 1 at X offset 0: HEAD, TAIL, allowance and capacity. -/
def queueState (head tail allow : Nat) (closed : Bool) : State :=
  ((putX base 0 (leBytes 4 head ++ leBytes 4 tail ++ leBytes 4 allow ++ leBytes 4 4)).modCluster 0
    (fun c => { c with queues := [⟨0, 0, 1, 0, 0, closed, none⟩] })).modCore 0 (fun c => { c with xres := [⟨0, 0, 0, 0, 4096⟩] })
theorem queue_whole {s : State} {b : QBind} (h1 : queueOf s 0 0 0 1 = some b)
    (h2 : decide (1 ≤ xWord s b.core (b.off + 12)) && decide (xWord s b.core (b.off + 12) ≤ 256)
      && !sealHit s (.x b.core) b.off (16 + 8 * xWord s b.core (b.off + 12)) anySeal && decide ((s.core b.core).barriers = [])
      && decide (b.kept = none) && qReach s b (xWord s b.core b.off % xWord s b.core (b.off + 12))
      && qReach s b (xWord s b.core (b.off + 4) % xWord s b.core (b.off + 12)) = true)
    (h3 : NoWaiters s 0 0 0 1) : QueueAt s 0 0 0 1 b := by
  simp only [Bool.and_eq_true, decide_eq_true_eq, Bool.not_eq_true'] at h2
  exact ⟨h1, h2.1.1.1.1.1, h2.1.1.1.1.2, by simp [h2.1.1.1.2], h3, h2.1.1.2, h2.1.2, h2.2⟩
def oQpush : AOps := aop 0 (.lit 1) (.lit 9) (.reg 0) 0 .none true
theorem witness_qpush : QueueAt (queueState 0 0 4 false) 0 0 0 1 ⟨0, 0, 1, 0, 0, false, none⟩ ∧ 0 < xWord (queueState 0 0 4 false) 0 8 ∧
    ∃ fr c g u, OnGroup (.qpush oQpush) (queueState 0 0 4 false) 0 0 0 0 fr c g u ∧
      (uniformB c c.a1 1 && uniformB c c.a2 9 && !u.contain) = true :=
  ⟨queue_whole (by decide +kernel) (by decide +kernel) (no_waiters 0 0 0 1 (by decide +kernel) (by decide +kernel) (by decide +kernel)),
    by decide +kernel, onGroup_of (P := fun _ c _ u => uniformB c c.a1 1 && uniformB c c.a2 9 && !u.contain) (by decide +kernel)⟩
theorem witness_qpush_parks : QueueAt (queueState 0 4 0 false) 0 0 0 1 ⟨0, 0, 1, 0, 0, false, none⟩ ∧ xWord (queueState 0 4 0 false) 0 8 = 0 ∧
    ∃ fr c g u, OnGroup (.qpush oQpush) (queueState 0 4 0 false) 0 0 0 0 fr c g u ∧
      (uniformB c c.a1 1 && uniformB c c.a2 9 && !u.contain) = true :=
  ⟨queue_whole (by decide +kernel) (by decide +kernel) (no_waiters 0 0 0 1 (by decide +kernel) (by decide +kernel) (by decide +kernel)),
    by decide +kernel, onGroup_of (P := fun _ c _ u => uniformB c c.a1 1 && uniformB c c.a2 9 && !u.contain) (by decide +kernel)⟩
def oQpop : AOps := aop 4 (.lit 1) (.reg 0) (.reg 0) 0 .none true
theorem witness_qpop : QueueAt (queueState 0 1 3 false) 0 0 0 1 ⟨0, 0, 1, 0, 0, false, none⟩ ∧
    xWord (queueState 0 1 3 false) 0 0 ≠ xWord (queueState 0 1 3 false) 0 4 ∧
    ∃ fr c g u, OnGroup (.qpop oQpop) (queueState 0 1 3 false) 0 0 0 0 fr c g u ∧ uniformB c c.a1 1 = true :=
  ⟨queue_whole (by decide +kernel) (by decide +kernel) (no_waiters 0 0 0 1 (by decide +kernel) (by decide +kernel) (by decide +kernel)),
    by decide +kernel, onGroup_of (P := fun _ c _ _ => uniformB c c.a1 1) (by decide +kernel)⟩
theorem witness_qpop_closed : QueueAt (queueState 0 0 4 true) 0 0 0 1 ⟨0, 0, 1, 0, 0, true, none⟩ ∧
    ∃ fr c g u, OnGroup (.qpop oQpop) (queueState 0 0 4 true) 0 0 0 0 fr c g u ∧ uniformB c c.a1 1 = true :=
  ⟨queue_whole (by decide +kernel) (by decide +kernel) (no_waiters 0 0 0 1 (by decide +kernel) (by decide +kernel) (by decide +kernel)),
    onGroup_of (P := fun _ c _ _ => uniformB c c.a1 1) (by decide +kernel)⟩
theorem witness_qpop_parks : QueueAt (queueState 0 0 4 false) 0 0 0 1 ⟨0, 0, 1, 0, 0, false, none⟩ ∧
    ∃ fr c g u, OnGroup (.qpop oQpop) (queueState 0 0 4 false) 0 0 0 0 fr c g u ∧ uniformB c c.a1 1 = true :=
  ⟨queue_whole (by decide +kernel) (by decide +kernel) (no_waiters 0 0 0 1 (by decide +kernel) (by decide +kernel) (by decide +kernel)),
    onGroup_of (P := fun _ c _ _ => uniformB c c.a1 1) (by decide +kernel)⟩
/-- The context of `quartz` beside the unit of `base`, with a value in queue 1. -/
def quartzQueue : State :=
  (queueState 0 1 3 false).setCtx 0 0 (some placeCtx)
def quartzPop : State := { quartzQueue with cur := some (.quartz 0 0) }
theorem witness_qpop_quartz : clusterUnitsExited quartzPop 0 0 0 = false ∧ queueOf quartzPop 0 0 0 1 = some ⟨0, 0, 1, 0, 0, false, none⟩ ∧
    waitersOf quartzPop 0 0 0 (isPop 1) = [] ∧ waitersOf quartzPop 0 0 0 (isPush 1) = [] ∧
    ∃ fr c q, OnQuartz (.qpop oQpop) quartzPop 0 0 0 0 fr c q ∧ decide ((c.a1 0).toNat = 1) = true :=
  ⟨by decide +kernel, by decide +kernel, by decide +kernel, by decide +kernel,
    onQuartz_of (P := fun _ c _ => decide ((c.a1 0).toNat = 1)) (by decide +kernel)⟩
-- R140: the value at HEAD reaches every lane, and HEAD and the allowance grow by 1.
theorem test_qpop : after (exec (.qpop oQpop) (putX (queueState 0 1 3 false) 16 (leBytes 8 77))) (fun t => match t.unit? 0 with
      | some u => decide ((u.thread 31).reg 4 = 77) && decide (xWord t 0 0 = 1) && decide (xWord t 0 8 = 4)
      | none => false) = true := by decide +kernel

-- Of TimelineAndRankWords.
def oTwait : AOps := aop 0 (.lit 0) (.lit 1) (.reg 0) 0 .none true
def timeline (i c : Nat) : State := base.modUnit 0 (fun u => { u with tl := [(0, ⟨i, c, []⟩)] })
theorem witness_twait_on : ∃ fr c g u, OnGroup (.twait oTwait) (timeline 1 1) 0 0 0 0 fr c g u ∧ (uniformB c c.a2 1 &&
    decide ((timelineOf (timeline 1 1) u 0).c = 1 ∧ (timelineOf (timeline 1 1) u 0).i = 1)) = true :=
  onGroup_of (P := fun _ c _ u => uniformB c c.a2 1 && decide ((timelineOf (timeline 1 1) u 0).c = 1 ∧ (timelineOf (timeline 1 1) u 0).i = 1))
    (by decide +kernel)
theorem witness_twait_parks : ∃ fr c g u, OnGroup (.twait oTwait) (timeline 1 0) 0 0 0 0 fr c g u ∧ (uniformB c c.a2 1 &&
    decide ((timelineOf (timeline 1 0) u 0).c = 0 ∧ (timelineOf (timeline 1 0) u 0).i = 1)) = true :=
  onGroup_of (P := fun _ c _ u => uniformB c c.a2 1 && decide ((timelineOf (timeline 1 0) u 0).c = 0 ∧ (timelineOf (timeline 1 0) u 0).i = 1))
    (by decide +kernel)
theorem witness_tread : ∃ fr c g u, OnGroup (.tread (aop 4 (.lit 0) (.reg 0) (.reg 0) 3)) base 0 0 0 0 fr c g u ∧ always fr c g u = true :=
  onGroup_of (by decide +kernel)
/-- At X offset 0: scores at 64, results at 128, N 4, K 2, IBASE 100. -/
def topkBytes : List Byte :=
  leBytes 4 64 ++ leBytes 4 128 ++ leBytes 4 4 ++ leBytes 4 2 ++ leBytes 4 100 ++ leBytes 12 0
def topkState : State := putX (putX base 0 topkBytes) 64 (leBytes 4 5 ++ leBytes 4 9 ++ leBytes 4 1 ++ leBytes 4 9)
def oTopk : AOps := aop 8 (.lit 0) (.reg 0) (.reg 0) 2
def topkWord (i : Nat) : Nat := leNat (NatMap.getRange 0 (topkState.core 0).x (4 * i) 4)
theorem witness_topk : topkWord 0 = 64 ∧ topkWord 1 = 128 ∧ topkWord 2 = 4 ∧ topkWord 3 = 2 ∧ topkWord 5 = 0 ∧ topkWord 6 = 0 ∧
    topkWord 7 = 0 ∧ ∃ fr c g u, OnGroup (.topk oTopk) topkState 0 0 0 0 fr c g u ∧ (uniformB c c.a1 0 && decide (c.active ≠ []) &&
      decide (u.core = 0 ∧ u.xoff = 0 ∧ 144 ≤ u.xbytes)) = true :=
  ⟨by decide +kernel, by decide +kernel, by decide +kernel, by decide +kernel, by decide +kernel, by decide +kernel, by decide +kernel,
    onGroup_of (P := fun _ c _ u => uniformB c c.a1 0 && decide (c.active ≠ []) && decide (u.core = 0 ∧ u.xoff = 0 ∧ 144 ≤ u.xbytes))
      (by decide +kernel)⟩


-- The matrix path.

/-- The registers of `mat`: s0 an A word of one row of 16 bytes, s1 a B word of K 4 and N 1, s3 the same in slot 1 with K 16. -/
def matRegs : NatMap DWord := [(0, 0x400000000), (1, 0xC00000), (3, 0x2003C00000)]
/-- Slot 0 FP32, slot 1 INT8. -/
def matSlots (x : Func) : Func :=
  { x with launches := x.launches.map (fun p => (p.1, p.2.map (fun l =>
      { l with rcd := { l.rcd with slots := [(1, 8)] } }))) }
/-- The context of `quartz` beside the unit of `base`, whose X holds 4,096 sealed bytes and W 256. -/
def mat : State :=
  { (((((base.setCtx 0 0 (some { placeCtx with ebud := 100, s := matRegs })).modCore 0
      (fun c => { c with seals := [⟨0, 4096, .sealed, 0, some 0, false⟩], xres := [⟨0, 0, 0, 0, 4096⟩] })).modCluster 0
      (fun c => { c with wSeals := [⟨0, 256, .sealed, 0, none, false⟩] }))).modFunc 0 matSlots) with cur := some (.quartz 0 0) }
def matRoom (s : State) (cost : Nat) : Bool :=
  match s.ctx? 0 0 with
  | some q => decide ((s.cluster 0).table.length < 32) && decide (((s.cluster 0).table.filter (fun m => m.ctx == 0)).length < 16)
      && decide (cost ≤ q.ebud.toNat)
  | none => false
theorem postable_of {s : State} {q : Ctx} {cost : Nat} (h : matRoom s cost = true) (hq : s.ctx? 0 0 = some q) :
    Postable s 0 0 q cost := by
  simp only [matRoom, hq, Bool.and_eq_true, decide_eq_true_eq] at h
  exact ⟨h.1.1, h.1.2, h.2⟩
def passB (s : State) (sparse : Bool) (o : AOps) (xa : Nat) : Front → Cap → Ctx → Bool := fun _ c q =>
  let rc := recOf s 0 0
  let v1 := c.a1 0
  let v2 := c.a2 0
  let v3 := c.a3 0
  let n := packedBytes (slotWidth (slotFormat (slotOf rc o.x.toNat))) (bWord v2).k
  let len := 16 * (xHandle v1).pitch * (xHandle v1).rows + n
  decide ((xHandle v1).mbz = 0 ∧ (xHandle v1).pitch ≠ 0 ∧ (xHandle v1).xoff % 16 = 0) && decide (n ≤ 16 * (xHandle v1).pitch)
    && decide (xPlace s 0 q (xHandle v1).core (xHandle v1).xoff len = some xa) && decide ((bWord v2).mbz = 0 ∧ (bWord v2).woff % 256 = 0)
    && (if sparse then decide ((bWord v2).spn ≤ (bWord v2).spm ∧ (bWord v2).k % (bWord v2).spm = 0) else decide (bits v2 40 7 = 0))
    && decide (yFits (yHandle v3) ((xHandle v1).rows + 1) = true ∧ (yHandle v3).int = false ∧ (yHandle v3).ncol = 0 ∧
      (yHandle v3).rows = 0)
    && decide (isIntFmt (slotFormat (slotOf rc o.x.toNat)) = isIntFmt (slotFormat (slotOf rc (bWord v2).slot)))
    && coveredFill (sealsOf s (.x (4 * 0 + (xHandle v1).core))) 33 xa len
    && (entryAt s (.w 0) (bWord v2).woff true).isSome && !sealHit s (.y 0) (yHandle v3).yoff (512 * ((xHandle v1).rows + 1)) anySeal
    && decide (slotScale (slotOf rc o.x.toNat) = 0 ∧ slotScale (slotOf rc (bWord v2).slot) = 0)
theorem pass_of {s : State} {q : Ctx} {c : Cap} {fr : Front} {sparse : Bool} {o : AOps} {xa : Nat}
    (h : passB s sparse o xa fr c q = true) : PassOk s 0 q (recOf s 0 0) sparse o (c.a1 0) (c.a2 0) (c.a3 0) xa := by
  simp only [passB, Bool.and_eq_true, decide_eq_true_eq, Bool.not_eq_true'] at h
  obtain ⟨⟨⟨⟨⟨⟨⟨⟨⟨⟨h1, h2⟩, h3⟩, h4⟩, h5⟩, h6⟩, h7⟩, h8⟩, h9⟩, h10⟩, h11⟩ := h
  refine ⟨h1, h2, h3, h4, ?_, h6, h7, h8, h9, h10, h11⟩
  cases sparse <;> simpa using h5
def oPass (n : BitVec 9) (x : BitVec 3) : AOps := aop 0 (.reg 0) (.reg n) (.reg 2) x
theorem witness_mma : matRoom mat 1 = true ∧ ∃ fr c q, OnQuartz (.mma (oPass 1 0)) mat 0 0 0 0 fr c q ∧
    passB mat false (oPass 1 0) 0 fr c q = true := ⟨by decide +kernel, onQuartz_of (by decide +kernel)⟩
theorem witness_mmas : matRoom mat 1 = true ∧ ∃ fr c q, OnQuartz (.mmas (oPass 1 0)) mat 0 0 0 0 fr c q ∧
    passB mat true (oPass 1 0) 0 fr c q = true := ⟨by decide +kernel, onQuartz_of (by decide +kernel)⟩
-- The budget is met exactly.
theorem witness_mma_budget : matRoom (mat.modCtx 0 0 (fun q => { q with ebud := 1 })) 1 = true := by decide +kernel
def oOne (n : BitVec 9) : AOps := aop 0 (.reg n) (.reg 0) (.reg 0)
def yB (s : State) : Front → Cap → Ctx → Bool := fun _ c q =>
  let y := yHandle (c.a1 0)
  yFits y (y.rows + 1) && decide (y.int = false ∧ y.ncol = 0 ∧ y.acc = false) && !sealHit s (.y 0) y.yoff (512 * (y.rows + 1)) anySeal
    && decide (yTaken s 0 < 32) && decide (failedHit q y.yoff (512 * (y.rows + 1)) = none)
theorem witness_mzero : matRoom mat 0 = true ∧ ∃ fr c q, OnQuartz (.mzero (oOne 2)) mat 0 0 0 0 fr c q ∧ yB mat fr c q = true :=
  ⟨by decide +kernel, onQuartz_of (by decide +kernel)⟩
theorem witness_mdrain : matRoom mat 0 = true ∧ ∃ fr c q, OnQuartz (.mdrain (oOne 2)) mat 0 0 0 0 fr c q ∧ yB mat fr c q = true :=
  ⟨by decide +kernel, onQuartz_of (by decide +kernel)⟩
def mldmB (s : State) : Front → Cap → Ctx → Bool := fun _ c q =>
  let a := xHandle (c.a1 0)
  decide (a.mbz = 0 ∧ a.pitch = 0 ∧ a.rows = 0 ∧ a.xoff % 256 = 0) && decide (xPlace s 0 q a.core a.xoff 4096 = some 0) &&
    (match entryAt s (.x (4 * 0 + a.core)) 0 true with
     | some e => decide (4096 ≤ e.start + e.len)
     | none => false)
theorem witness_mldm : matRoom mat 0 = true ∧ ∃ fr c q, OnQuartz (.mldm (oOne 4)) mat 0 0 0 0 fr c q ∧ mldmB mat fr c q = true :=
  ⟨by decide +kernel, onQuartz_of (by decide +kernel)⟩
/-- X without seals. -/
def matPlain : State := mat.modCore 0 (fun c => { c with seals := [] })
def oQnt : AOps := aop 0 (.reg 0) (.reg 2) (.lit 1)
def qntB (s : State) (o : AOps) : Front → Cap → Ctx → Bool := fun _ c q =>
  let a := xHandle (c.a1 0)
  let y := yHandle (c.a2 0)
  let len := (16 * a.pitch * (y.rows + 1) + 255) / 256 * 256
  decide (a.mbz = 0 ∧ a.pitch ≠ 0 ∧ a.rows = 0 ∧ a.xoff % 256 = 0) &&
    decide (packedBytes (slotWidth (slotFormat (slotOf (recOf s 0 0) o.x.toNat))) (y.ncol + 1) ≤ 16 * a.pitch) &&
    decide (xPlace s 0 q a.core a.xoff len = some 0) && yFits y (y.rows + 1) && !y.acc &&
    decide (slotScale (slotOf (recOf s 0 0) o.x.toNat) = 0) && !sealHit s (.x (4 * 0 + a.core)) 0 len anySeal &&
    !sealHit s (.y 0) y.yoff (512 * (y.rows + 1)) anySeal && decide ((s.core (4 * 0 + a.core)).seals.length < 32) &&
    decide (failedHit q y.yoff (512 * (y.rows + 1)) = none)
theorem witness_mqnt : matRoom matPlain 0 = true ∧ ∃ fr c q, OnQuartz (.mqnt oQnt) matPlain 0 0 0 0 fr c q ∧
    qntB matPlain oQnt fr c q = true := ⟨by decide +kernel, onQuartz_of (by decide +kernel)⟩

-- Of MatrixStatusAndCompletion.
def msclB (s : State) : Front → Cap → Ctx → Bool := fun _ c q =>
  let a := xHandle (c.a1 0)
  decide (a.mbz = 0 ∧ a.pitch = 0 ∧ a.rows = 0 ∧ a.xoff % 256 = 0) && (xPlace s 0 q a.core a.xoff 1).isSome &&
    decide (bits (c.a2 0) 22 42 = 0 ∧ (c.a2 0).toNat % 256 = 0)
theorem witness_mscl : ∃ fr c q, OnQuartz (.mscl (aop 0 (.reg 4) (.reg 2) (.reg 0))) mat 0 0 0 0 fr c q ∧ msclB mat fr c q = true :=
  onQuartz_of (by decide +kernel)
def oChk (x : BitVec 3) : AOps := aop 5 (.reg 0) (.reg 0) (.reg 0) x
theorem witness_mchk : ∃ fr c q, OnQuartz (.mchk (oChk 5)) mat 0 0 0 0 fr c q ∧ decide (q.tl.c = q.tl.i) = true :=
  onQuartz_of (P := fun _ _ q => decide (q.tl.c = q.tl.i)) (by decide +kernel)
theorem witness_mchk_clr : ∃ fr c q, OnQuartz (.mchk (oChk 1)) mat 0 0 0 0 fr c q ∧ alwaysQ fr c q = true :=
  onQuartz_of (by decide +kernel)
/-- One operation is not complete. -/
def matBusy : State := mat.modCtx 0 0 (fun q => { q with tl := ⟨1, 0, []⟩ })
theorem witness_mchk_waits : ∃ fr c q, OnQuartz (.mchk (oChk 5)) matBusy 0 0 0 0 fr c q ∧ decide (q.tl.c ≠ q.tl.i) = true :=
  onQuartz_of (P := fun _ _ q => decide (q.tl.c ≠ q.tl.i)) (by decide +kernel)
/-- The table holds the posted word. -/
def posted (i : Instr) (o1 o2 o3 : DWord) (granted : Bool) : State :=
  matBusy.modCluster 0 (fun c => { c with
    table := [⟨0, 0, 0, (encode i).getD 0, o1, o2, o3, 0, 0, 0, 1, 0, granted, false⟩] })
def postedZero (granted : Bool) : State := posted (.mzero (oOne 2)) 0 0 0 granted
theorem witness_matrix_complete : Reported (postedZero true) ∧ ((postedZero true).cluster 0).table.any (fun y =>
    decide (8 * y.num + y.ctx = 8) && y.granted) = true ∧ ((postedZero true).ctx? 0 0).isSome = true :=
  ⟨by show _ = []; decide +kernel, by decide +kernel, by decide +kernel⟩
theorem test_matrix_complete : after (exec (.matrixOperationComplete 0 8) (postedZero true)) (fun t =>
    decide ((t.ctx? 0 0).map (fun q => q.tl) = some ⟨1, 1, []⟩)) = true := by decide +kernel
theorem witness_ebud_refill : Reported mat ∧ mat.clock % 1400 = 0 ∧ mat.refilled ≠ mat.clock / 1400 + 1 :=
  ⟨by show _ = []; decide +kernel, by decide +kernel, by decide +kernel⟩

-- Of MatrixGrantPerforms.
def grantsB (s : State) (f : MatOp → Bool) : Bool :=
  match choose s 0 with
  | some m => decide (grantCause (modMat s 0 m (fun x => { x with granted := true })) 0 m = none) &&
      !readsBad (modMat s 0 m (fun x => { x with granted := true })) 0 m && decide (s.reports = []) && f m
  | none => false
theorem grants_of {s : State} {f : MatOp → Bool} (h : grantsB s f = true) : ∃ m, Grants s 0 m ∧ f m = true := by
  unfold grantsB at h
  split at h
  · rename_i m hm
    simp only [Bool.and_eq_true, decide_eq_true_eq, Bool.not_eq_true'] at h
    exact ⟨m, ⟨hm, h.1.1.1, h.1.1.2, h.1.2⟩, h.2⟩
  · simp at h
theorem witness_grant_mzero : ∃ m, Grants (postedZero false) 0 m ∧ decide (m.instr = some (.mzero (oOne 2))) = true :=
  grants_of (f := fun m => decide (m.instr = some (.mzero (oOne 2)))) (by decide +kernel)
theorem witness_grant_mldm : ∃ m, Grants (posted (.mldm (oOne 4)) 0 0 0 false) 0 m ∧
    decide (m.instr = some (.mldm (oOne 4)) ∧ m.ctx = 0) = true :=
  grants_of (f := fun m => decide (m.instr = some (.mldm (oOne 4)) ∧ m.ctx = 0)) (by decide +kernel)
theorem witness_grant_mdrain : ∃ m, Grants (posted (.mdrain (oOne 2)) 0 0 0 false) 0 m ∧
    decide (m.instr = some (.mdrain (oOne 2))) = true :=
  grants_of (f := fun m => decide (m.instr = some (.mdrain (oOne 2)))) (by decide +kernel)
/-- The destination's rows do not meet, its format is one of the twelve, and no barrier or queue header lies in X. -/
def qntRoom (s : State) (m : MatOp) : Bool :=
  decide ((xHandle m.o1).core < 4) && decide ((quantRow s 0 m 0).2 ≤ 16 * (xHandle m.o1).pitch) &&
    decide (fmtOf (m.slots s).1 < 12) && decide ((s.core (xHandle m.o1).core).barriers = []) && decide ((s.cluster 0).queues = [])
theorem witness_grant_mqnt : ∃ m, Grants (posted (.mqnt oQnt) 0x400000000 0 0x3F800000 false) 0 m ∧
    (decide (m.instr = some (.mqnt oQnt)) && qntRoom (posted (.mqnt oQnt) 0x400000000 0 0x3F800000 false) m) = true :=
  grants_of (f := fun m => decide (m.instr = some (.mqnt oQnt)) && qntRoom (posted (.mqnt oQnt) 0x400000000 0 0x3F800000 false) m)
    (by decide +kernel)
def matFloat : State := posted (.mma (oPass 1 0)) 0x400000000 0xC00000 0 false
theorem witness_grant_float : ∃ m, Grants matFloat 0 m ∧ (m.isPass && !isIntFmt (slotFormat (m.slots matFloat).1) &&
    !isIntFmt (slotFormat (m.slots matFloat).2) && decide (slotFormat (m.slots matFloat).1 < 12 ∧ slotFormat (m.slots matFloat).2 < 12))
      = true :=
  grants_of (f := fun m => m.isPass && !isIntFmt (slotFormat (m.slots matFloat).1) &&
    !isIntFmt (slotFormat (m.slots matFloat).2) && decide (slotFormat (m.slots matFloat).1 < 12 ∧ slotFormat (m.slots matFloat).2 < 12))
    (by decide +kernel)
def matInt : State := posted (.mma (oPass 3 1)) 0x400000000 0x2003C00000 0 false
theorem witness_grant_int : ∃ m, Grants matInt 0 m ∧ (m.isPass && isIntFmt (slotFormat (m.slots matInt).1)) = true :=
  grants_of (f := fun m => m.isPass && isIntFmt (slotFormat (m.slots matInt).1)) (by decide +kernel)
/-- A and B hold 2 and -3 in their first elements. -/
def matInt2 : State := (putX matInt 0 [2]).modCluster 0 (fun c => { c with w := [(0, 253)] })
-- R160: the exact integer dot product.
theorem test_grant_int : after (exec (.matrixGrant 0 []) matInt2) (fun t => decide (BitVec.ofNat 32 (yElem t 0 0 0 0) = -6)) = true := by
  decide +kernel

-- Ranges and work handles.

/-- `base` with a launch in slot 1, of generation 2, changed by `f`; s6 holds a handle of generation `g` of it, s7 holds 5. -/
def slot1 (f : LaunchSlot → LaunchSlot) (g : Nat) : State :=
  (base.modUnit 0 (fun u => { u with s := [(6, handleOf .launch g 1), (7, 5)] })).modFunc 0 (fun x => { x with
    launches := NatMap.set none x.launches 1 (some (f { placeLaunch with obj := { placeLaunch.obj with gen := 2, past := [true] } })) })
def hLaunch (g : Nat) : DWord := handleOf .launch g 1
-- MIN 1 and P 1.
def oRinit : AOps := aop 0 (.lit 3) (.lit 100) (.sreg 7)
def rangeState : State := base.modUnit 0 (fun u => { u with s := [(7, 0x10001)] })
theorem witness_rinit : bits (0x10001 : DWord) 0 16 ≠ 0 ∧ bits (0x10001 : DWord) 16 16 ≠ 0 ∧
    ∃ fr c g u, OnGroup (.rinit oRinit) rangeState 0 0 0 0 fr c g u ∧ (uniformB c c.a2 100 && uniformB c c.a3 0x10001) = true :=
  ⟨by decide +kernel, by decide +kernel,
    onGroup_of (P := fun _ c _ _ => uniformB c c.a2 100 && uniformB c c.a3 0x10001) (by decide +kernel)⟩
def initSent : State := base.modDie 0 (fun d => { d with rangeReqs := [.init 0 0 3 100 0x10001 false] })
theorem witness_rinit_perform : Reported initSent ∧ (initSent.die 0).rangeReqs = .init 0 0 3 100 0x10001 false :: [] ∧
    (launchOf initSent 0 0).isSome = true := ⟨by show _ = []; decide +kernel, by decide +kernel, by decide +kernel⟩
def oRgrab : AOps := aop 6 (.lit 3) (.reg 0) (.reg 0)
theorem witness_rgrab : ∃ fr c g u, OnGroup (.rgrab oRgrab) base 0 0 0 0 fr c g u ∧ always fr c g u = true :=
  onGroup_of (by decide +kernel)
def grabWord : BitVec 64 := BitVec.ofNat 64 (0x189 * 2 ^ 53 + 6 * 2 ^ 44 + 0x203 * 2 ^ 33)
def grabSent : State :=
  modLaunch ((base.modDie 0 (fun d => { d with rangeReqs := [.grab 0 0 0 3 6 grabWord] })).modGroup 0 0
    (fun g => { g with front := { g.front with hold := some (.range 0) } })) 0 0
    (fun l => { l with ranges := [(3, some ⟨100, 4, 2, 0⟩)] })
theorem witness_rgrab_reply : Reported grabSent ∧ (grabSent.die 0).rangeReqs = .grab 0 0 0 3 oRgrab.d grabWord :: [] ∧
    decode grabWord = .word (.rgrab oRgrab) ∧ oRgrab.g.en = false ∧
    (match grabSent.group? 0 0, grabSent.unit? 0 with
     | some g, some u => decide (g.uid = 0 ∧ NatMap.wf none g.lanes = true ∧ g.front.hold = some (.range 0)) && !u.stopping && decide ((launchOf grabSent u.func u.launch).map
        (fun l => NatMap.get none l.ranges 3) = some (some ⟨100, 4, 2, 0⟩))
     | _, _ => false) = true :=
  ⟨by show _ = []; decide +kernel, by decide +kernel, by decide +kernel, by decide +kernel, by decide +kernel⟩
-- The boundary of the clause on a group that has gone: the group holds no request, though its unit is the one named.
theorem witness_rgrab_gone : Reported (base.modDie 0 (fun d => { d with rangeReqs := [.grab 0 0 0 3 6 grabWord] })) ∧
    (∀ g, base.group? 0 0 = some g → g.uid ≠ 0 ∨ ∀ n, g.front.hold ≠ some (.range n)) := by
  refine ⟨by show _ = []; decide +kernel, fun g hg => .inr fun n => ?_⟩
  have : (base.group? 0 0).all (fun g => decide (g.front.hold = none)) = true := by decide +kernel
  simp only [hg, Option.all_some, decide_eq_true_eq] at this
  simp [this]
-- R180: ceil(100 / 8) = 13 of 100.
theorem test_rgrab_reply : after (exec (.rgrabReply 0) grabSent) (fun t => match t.unit? 0 with
      | some u => decide ((u.thread 31).reg 6 = 0) && decide ((u.thread 31).reg 7 = 13)
      | none => false) = true := by decide +kernel
def oHandle (d : BitVec 9) (s2 : Src) (x : BitVec 3) (e : Bool := false) : AOps := aop d (.sreg 6) s2 (.reg 0) x .none e
def lnchState : State := slot1 (fun l => { l with devlnch := true }) 2
theorem settled_lnch : Settled lnchState :=
  settled_of (by decide +kernel)
def liveB (s : State) (h : DWord) (f : Level → Nat → Obj → Bool) : Bool :=
  match lookupHandle s 0 h with
  | .live lv i ob => f lv i ob
  | _ => false
theorem witness_lnch : (liveB lnchState (hLaunch 2) (fun lv i _ => decide (lv = .launch ∧ i = 1)) &&
      (match launchOf lnchState 0 1 with
       | some l => l.devlnch && decide (l.arg = none ∧ l.obj.cancelAt = none ∧ objOf lnchState 0 .graph l.obj.parent = none)
       | none => false)) = true ∧
    ∃ fr c g u, OnGroup (.lnch (oHandle 0 (.sreg 7) 0)) lnchState 0 0 0 0 fr c g u ∧
      (!u.contain && uniformB c c.a1 (hLaunch 2) && uniformB c c.a2 5) = true :=
  ⟨by decide +kernel, onGroup_of (P := fun _ c _ u => !u.contain && uniformB c c.a1 (hLaunch 2) && uniformB c c.a2 5)
    (by decide +kernel)⟩
/-- The waiting node's graph, graph 0, is cancelled. -/
def lnchCancelled : State := lnchState.modFunc 0 (fun x => { x with
  graphs := [(0, some ⟨{ placeLaunch.obj with cancelAt := some 0 }, [1]⟩)]
  launches := NatMap.set none x.launches 1 (some { placeLaunch with
    obj := { placeLaunch.obj with gen := 2, past := [true], parent := 0, parentGen := 1 }, devlnch := true }) })
theorem settled_cancelled : Settled lnchCancelled := settled_of (by decide +kernel)
theorem witness_lnch_cancelled : (liveB lnchCancelled (hLaunch 2) (fun lv i _ => decide (lv = .launch ∧ i = 1)) &&
      (match launchOf lnchCancelled 0 1 with
       | some l => (objOf lnchCancelled 0 .graph l.obj.parent).any (fun q => decide (q.gen = l.obj.parentGen ∧ q.cancelAt ≠ none))
       | none => false)) = true ∧
    ∃ fr c g u, OnGroup (.lnch (oHandle 0 (.sreg 7) 0)) lnchCancelled 0 0 0 0 fr c g u ∧
      (!u.contain && uniformB c c.a1 (hLaunch 2) && uniformB c c.a2 5) = true :=
  ⟨by decide +kernel, onGroup_of (P := fun _ c _ u => !u.contain && uniformB c c.a1 (hLaunch 2) && uniformB c c.a2 5)
    (by decide +kernel)⟩
/-- The node waits for no LNCH. -/
def notWaiting : State := slot1 id 2
theorem settled_notWaiting : Settled notWaiting := settled_of (by decide +kernel)
theorem witness_lnch_traps : (liveB notWaiting (hLaunch 2) (fun lv i _ => decide (lv = .launch ∧ i = 1)) &&
      (match launchOf notWaiting 0 1 with
       | some l => !l.devlnch && decide (objOf notWaiting 0 .graph l.obj.parent = none)
       | none => false) && decide ((recOf notWaiting 0 0).trapentry ≠ 0)) = true ∧
    ∃ fr c g u, OnGroup (.lnch (oHandle 0 (.sreg 7) 0)) notWaiting 0 0 0 0 fr c g u ∧
      (!u.contain && !fr.priv && uniformB c c.a1 (hLaunch 2) && uniformB c c.a2 5) = true :=
  ⟨by decide +kernel, onGroup_of (P := fun fr c _ u => !u.contain && !fr.priv && uniformB c c.a1 (hLaunch 2) && uniformB c c.a2 5)
    (by decide +kernel)⟩
theorem test_lnch_traps : after (exec (.lnch (oHandle 0 (.sreg 7) 0)) notWaiting) (fun t => match frontOf t (.group 0 0) with
      | some fr => fr.priv && decide (fr.pc = 0x9000)
      | none => false) = true := by decide +kernel
/-- s6 names an earlier generation. -/
def retiredState : State := slot1 id 1
theorem settled_retired : Settled retiredState :=
  settled_of (by decide +kernel)
theorem witness_lnch_retired : lookupHandle retiredState 0 (hLaunch 1) = .retired true ∧ levelOf (hLaunch 1) = some .launch ∧
    ∃ fr c g u, OnGroup (.lnch (oHandle 0 (.sreg 7) 0)) retiredState 0 0 0 0 fr c g u ∧
      (!u.contain && uniformB c c.a1 (hLaunch 1) && uniformB c c.a2 5) = true :=
  ⟨by decide +kernel, by decide +kernel,
    onGroup_of (P := fun _ c _ u => !u.contain && uniformB c c.a1 (hLaunch 1) && uniformB c c.a2 5) (by decide +kernel)⟩
theorem witness_cntw_on : ∃ fr c g u, OnGroup (.cntw (oHandle 0 (.reg 0) 1 true)) retiredState 0 0 0 0 fr c g u ∧
    uniformB c c.a1 (hLaunch 1) = true := onGroup_of (P := fun _ c _ _ => uniformB c c.a1 (hLaunch 1)) (by decide +kernel)
/-- The launch has counted 5, the count that CNTW waits for. -/
def counted (n : Nat) : State := slot1 (fun l => { l with obj := { l.obj with count := n } }) 2
theorem witness_cntw_ge : liveB (counted 5) (hLaunch 2) (fun _ _ ob => decide (5 ≤ ob.count)) = true ∧
    ∃ fr c g u, OnGroup (.cntw (oHandle 0 (.sreg 7) 0 true)) (counted 5) 0 0 0 0 fr c g u ∧
      (uniformB c c.a1 (hLaunch 2) && uniformB c c.a2 5) = true :=
  ⟨by decide +kernel, onGroup_of (P := fun _ c _ _ => uniformB c c.a1 (hLaunch 2) && uniformB c c.a2 5) (by decide +kernel)⟩
theorem witness_cntw_parks : liveB (counted 4) (hLaunch 2) (fun _ _ ob => !ob.ended && decide (ob.count < 5)) = true ∧
    ∃ fr c g u, OnGroup (.cntw (oHandle 0 (.sreg 7) 0 true)) (counted 4) 0 0 0 0 fr c g u ∧
      (uniformB c c.a1 (hLaunch 2) && uniformB c c.a2 5) = true :=
  ⟨by decide +kernel, onGroup_of (P := fun _ c _ _ => uniformB c c.a1 (hLaunch 2) && uniformB c c.a2 5) (by decide +kernel)⟩
theorem witness_cntw_done : liveB (counted 4) (hLaunch 2) (fun lv i ob => !containsLaunch (counted 4) 0 0 lv i && !ob.ended) = true ∧
    ∃ fr c g u, OnGroup (.cntw (oHandle 0 (.reg 0) 1 true)) (counted 4) 0 0 0 0 fr c g u ∧ uniformB c c.a1 (hLaunch 2) = true :=
  ⟨by decide +kernel, onGroup_of (P := fun _ c _ _ => uniformB c c.a1 (hLaunch 2)) (by decide +kernel)⟩
/-- A context whose s6 names an earlier generation of launch slot 1. -/
def quartzRetired : State :=
  { retiredState.setCtx 0 0 (some { placeCtx with s := [(6, hLaunch 1)] }) with cur := some (.quartz 0 0) }
theorem witness_cntw_quartz : ∃ fr c q, OnQuartz (.cntw (aop 0 (.reg 6) (.reg 0) (.reg 0) 1 .none true)) quartzRetired 0 0 0 0 fr c q ∧
    decide (lookupHandle quartzRetired 0 (c.a1 0) = .retired true) = true :=
  onQuartz_of (P := fun _ c _ => decide (lookupHandle quartzRetired 0 (c.a1 0) = .retired true)) (by decide +kernel)
/-- A context whose s6 names launch slot 1, which has counted `n`. -/
def quartzCounted (n : Nat) : State :=
  { (counted n).setCtx 0 0 (some { placeCtx with s := [(6, hLaunch 2), (7, 5)] }) with cur := some (.quartz 0 0) }
theorem witness_cntw_quartz_on : ∃ fr c q, OnQuartz (.cntw (aop 0 (.reg 6) (.reg 7) (.reg 0) 0 .none true)) (quartzCounted 5) 0 0 0 0 fr c q ∧
    (liveB (quartzCounted 5) (c.a1 0) (fun _ _ ob => decide ((c.a2 0).toNat ≤ ob.count))) = true :=
  onQuartz_of (P := fun _ c _ => liveB (quartzCounted 5) (c.a1 0) (fun _ _ ob => decide ((c.a2 0).toNat ≤ ob.count))) (by decide +kernel)
theorem witness_cntw_quartz_parks : ∃ fr c q, OnQuartz (.cntw (aop 0 (.reg 6) (.reg 7) (.reg 0) 0 .none true)) (quartzCounted 4) 0 0 0 0 fr c q ∧
    (liveB (quartzCounted 4) (c.a1 0) (fun _ _ ob => !ob.ended && decide (ob.count < (c.a2 0).toNat))) = true :=
  onQuartz_of (P := fun _ c _ => liveB (quartzCounted 4) (c.a1 0) (fun _ _ ob => !ob.ended && decide (ob.count < (c.a2 0).toNat)))
    (by decide +kernel)
theorem witness_cncl_retired : (∃ b, lookupHandle retiredState 0 (hLaunch 1) = .retired b) ∧
    ∃ fr c g u, OnGroup (.cncl (oHandle 0 (.reg 0) 0)) retiredState 0 0 0 0 fr c g u ∧
      (!u.contain && uniformB c c.a1 (hLaunch 1)) = true :=
  ⟨⟨true, by decide +kernel⟩, onGroup_of (P := fun _ c _ u => !u.contain && uniformB c c.a1 (hLaunch 1)) (by decide +kernel)⟩
theorem witness_cncl : liveB (counted 4) (hLaunch 2) (fun lv i ob => !ob.ended && decide (ob.cancelAt = none) &&
      (decide (lv ≠ .launch) || (launchOf (counted 4) 0 i).all (fun l => !launchFinished (counted 4) 0 i l))) = true ∧
    ∃ fr c g u, OnGroup (.cncl (oHandle 0 (.reg 0) 0)) (counted 4) 0 0 0 0 fr c g u ∧
      (!u.contain && uniformB c c.a1 (hLaunch 2)) = true :=
  ⟨by decide +kernel, onGroup_of (P := fun _ c _ u => !u.contain && uniformB c c.a1 (hLaunch 2)) (by decide +kernel)⟩
theorem witness_dlread_live : liveB (counted 4) (hLaunch 2) (fun _ _ _ => true) = true ∧
    ∃ fr c g u, OnGroup (.dlread (oHandle 4 (.reg 0) 3)) (counted 4) 0 0 0 0 fr c g u ∧ uniformB c c.a1 (hLaunch 2) = true :=
  ⟨by decide +kernel, onGroup_of (P := fun _ c _ _ => uniformB c c.a1 (hLaunch 2)) (by decide +kernel)⟩
theorem witness_dlread_retired : ∃ fr c g u, OnGroup (.dlread (oHandle 4 (.reg 0) 2)) retiredState 0 0 0 0 fr c g u ∧
    uniformB c c.a1 (hLaunch 1) = true := onGroup_of (P := fun _ c _ _ => uniformB c c.a1 (hLaunch 1)) (by decide +kernel)
-- R185: a retired object that was cancelled gives 3.
theorem test_dlread_retired : after (exec (.dlread (oHandle 4 (.reg 0) 2)) retiredState) (fun t => match t.unit? 0 with
      | some u => decide ((u.thread 9).reg 4 = 3)
      | none => false) = true := by decide +kernel
theorem witness_idem : ∃ fr c g u, OnGroup (.idem (aop 0 (.reg 0) (.reg 0) (.reg 0))) base 0 0 0 0 fr c g u ∧ always fr c g u = true :=
  onGroup_of (by decide +kernel)

-- Page tables: those of `placeMemory`, which map [0, 2 MiB) to itself, of function 0, or as both stages of another one.

/-- The four tables' first entries stand, under their key and without an error, and the roots lead to them; the partition of a virtual
function owns the first channel. -/
def tablesB (s : State) (f : Nat) : Bool :=
  [(0x1000, 0x2001), (0x2000, 0x3001), (0x3000, 0x4001), (0x4000, 0x33)].all (fun p =>
      decide (homeBytes s p.1 8 = leBytes 8 p.2) && decide (accErr s p.1 0 = none) && keyedB s p.1 0) &&
    decide ((s.func f).s1root = 0x1000) && (decide (f = 0) || (decide ((s.fcfgOf f).s2root = 0x1000) &&
      decide ((s.fcfgOf f).keylo = 0) && (s.part (s.fcfgOf f).part).chan.getLsbD 0))

theorem homeBytes_alike {s s' : State} {but : Nat → Prop} (h : Alike s s' but) (n : Nat) : ∀ a, (∀ i, i < n → ¬ but (a + i)) →
    homeBytes s' a n = homeBytes s a n := by
  induction n with
  | zero => intro a _; rfl
  | succ n ih =>
    intro a hb
    simp only [homeBytes]
    rw [h.bytes a (by simpa using hb 0 (by omega)), ih (a + 1) (fun i hi => by
      have := hb (i + 1) (by omega); rwa [show a + (i + 1) = a + 1 + i by omega] at this)]

theorem tableRead_alike {s s' : State} {but : Nat → Prop} (h : Alike s s' but) {f a n : Nat}
    (hb : ∀ i, i < 8 → ¬ but (a + i)) (hs : homeBytes s a 8 = leBytes 8 n) (hl : leNat (leBytes 8 n) = n)
    (he : accErr s a 0 = none) (hk : keyedB s a 0 = true) : tableRead s' f a 0 = (some (BitVec.ofNat 64 n), s') := by
  have hm : merge s' (secOf a) = s' := by simp [merge, h.merged]
  have ha : accErr s' a 0 = none := by
    have h1 : poisoned s' a = poisoned s a := by simp [poisoned, h.poison]
    have h2 : keyOk s' a 0 = keyOk s a 0 := by simp [keyOk, h.keys.1]
    rw [← he]
    simp only [accErr, h1, h2]
  have hr : rekey s' (secOf a) 0 = s' := by
    unfold keyedB at hk
    split at hk
    · rename_i k hk'
      unfold rekey
      split
      · rfl
      · simp only [h.keys.1, h.keys.2, hk', of_decide_eq_true hk, if_true]
    · simp at hk
  simp only [tableRead, homeErr, hm, ite_self, ha, hr, homeBytes_alike h 8 a hb, hs, hl]

/-- One level down, by an entry that names a table. -/
theorem walk_link {s : State} {tr : State → Nat → Tr TableAt × State} {f va l n m : Nat} (hi : tableIndex (l + 1) va = 0)
    (ht : tr s n = (.ok ⟨n, 0⟩, s)) (hp : populated n = true) {e : DWord} (he : tableRead s f n 0 = (some e, s))
    (hf : (entV e && !entBad e (l + 1) && !frameBad e (l + 1) 0 && !entLeaf e) = true) (hm : entPa e = m) :
    walkFrom tr f va (l + 1) n s = walkFrom tr f va l m s := by
  simp only [Bool.and_eq_true, Bool.not_eq_true'] at hf
  obtain ⟨⟨⟨h1, h2⟩, h3⟩, h4⟩ := hf
  simp only [walkFrom, walkStep, hi, Nat.mul_zero, Nat.add_zero, ht, hp, he, h1, h2, h3, h4, hm, Bool.not_true,
    Bool.false_eq_true, if_false, Bool.or_self]

/-- The walk of an address below 2 MiB over the tables as they read. -/
theorem walk_identity {s : State} {f : Nat} (h1 : tableRead s f 0x1000 0 = (some 0x2001, s))
    (h2 : tableRead s f 0x2000 0 = (some 0x3001, s)) (h3 : tableRead s f 0x3000 0 = (some 0x4001, s))
    (h4 : tableRead s f 0x4000 0 = (some 0x33, s)) {tr : State → Nat → Tr TableAt × State}
    (ht : ∀ a, a < 2 ^ 21 → tr s a = (.ok ⟨a, 0⟩, s)) {va : Nat} (hv : va < 2 ^ 21) :
    walkFrom tr f va 4 0x1000 s = (.ok ⟨0x33, 1, va / 4096 * 4096, 512⟩, s) := by
  have i4 : tableIndex 4 va = 0 := by simp only [tableIndex]; omega
  have i3 : tableIndex 3 va = 0 := by simp only [tableIndex]; omega
  have i2 : tableIndex 2 va = 0 := by simp only [tableIndex]; omega
  have i1 : tableIndex 1 va = 0 := by simp only [tableIndex]; omega
  have hv' : va / 4096 % 512 = va / 4096 := by omega
  rw [walk_link i4 (ht _ (by decide)) (by decide +kernel) h1 (by decide +kernel) (m := 0x2000) (by decide +kernel),
    walk_link i3 (ht _ (by decide)) (by decide +kernel) h2 (by decide +kernel) (m := 0x3000) (by decide +kernel),
    walk_link i2 (ht _ (by decide)) (by decide +kernel) h3 (by decide +kernel) (m := 0x4000) (by decide +kernel)]
  have e1 : entV 0x33#64 = true := by decide +kernel
  have e2 : entBad 0x33#64 1 = false := by decide +kernel
  have e3 : frameBad 0x33#64 1 0 = false := by decide +kernel
  have e4 : entLeaf 0x33#64 = true := by decide +kernel
  have e5 : pageEntries (entSize 0x33#64) = 1 := by decide +kernel
  have e6 : entPa 0x33#64 = 0 := by decide +kernel
  have hp : populated 0x4000 = true := by decide +kernel
  simp [walkFrom, walkStep, i1, ht 0x4000 (by decide), hp, h4, e1, e2, e3, e4, e5, e6, chooseLeaf, hv']

/-- The first page of 2 MiB is cached as itself. -/
theorem trans_pageEntry (f key : Nat) (unc w x : Bool) {va pa : Nat} (hv : va < 2 ^ 21) (hp : pa / 4096 = va / 4096) :
    (pageEntry f va pa 512 key unc w x).trans va = ⟨va, key, unc⟩ := by
  have h1 : va / 4096 % 512 = va / 4096 := by omega
  have h2 : va / 4096 / 512 = 0 := by omega
  have h3 : populated (4096 * (0 + 512) - 1) = true := by decide +kernel
  simp [pageEntry, hp, h1, h2, h3, TlbEntry.trans]

theorem maps_of {s : State} {f va : Nat} {want : Want} {but : Nat → Prop} (h : tablesB s f = true) (hv : va < 2 ^ 21)
    (hb : ∀ a, 0x1000 ≤ a → a < 0x4008 → ¬ but a) (hk : keyedB s va 0 = true) (hl : homeOf s va < 4) (hf : accErr s va 0 = none) :
    Maps s f want va ⟨va, 0, false⟩ but := by
  simp only [tablesB, List.all_cons, List.all_nil, Bool.and_true, Bool.and_eq_true, Bool.or_eq_true, decide_eq_true_eq] at h
  obtain ⟨⟨⟨⟨⟨h1, p1⟩, k1⟩, ⟨⟨h2, p2⟩, k2⟩, ⟨⟨h3, p3⟩, k3⟩, ⟨h4, p4⟩, k4⟩, h5⟩, h6⟩ := h
  refine ⟨fun s' ha => ?_, keyed_of hk, .inl hl, hf⟩
  have r1 := tableRead_alike (f := f) ha (fun i hi => hb _ (by omega) (by omega)) h1 (by decide +kernel) p1 k1
  have r2 := tableRead_alike (f := f) ha (fun i hi => hb _ (by omega) (by omega)) h2 (by decide +kernel) p2 k2
  have r3 := tableRead_alike (f := f) ha (fun i hi => hb _ (by omega) (by omega)) h3 (by decide +kernel) p3 k3
  have r4 := tableRead_alike (f := f) ha (fun i hi => hb _ (by omega) (by omega)) h4 (by decide +kernel) p4 k4
  have w (v : Nat) (hv : v < 2 ^ 21) := walk_identity r1 r2 r3 r4 (tr := physTable) (fun a _ => rfl) hv
  have frame (v : Nat) (hv : v < 2 ^ 21) : populated (v / 4096 * 4096) = true := by
    have : v / 4096 * 4096 < 4 * hbmBytes := by simp only [hbmBytes]; omega
    simp [populated, isHbm, this]
  have fine (v : Nat) (hv : v < 2 ^ 21) (hf : f = 0 ∨ ((s.fcfgOf f).s2root = 0x1000 ∧ (s.fcfgOf f).keylo = 0) ∧
      (s.part (s.fcfgOf f).part).chan.getLsbD 0 = true) : frameOk s' f ⟨0x33, 1, v / 4096 * 4096, 512⟩ = true := by
    rcases hf with hf | hf
    · simp [frameOk, frame v hv, hf]
    · have hc : channelOf (v / 4096 * 4096) = 0 := by simp only [channelOf]; omega
      simp [frameOk, frame v hv, State.fcfgOf, State.part, ha.fcfg, ha.parts, hc, entKey, bits]
      simp only [State.fcfgOf, State.part] at hf
      simp [hf]
  have root : (s'.func f).s1root = 0x1000 := by rw [ha.roots, h5]
  have e : va / 4096 * 4096 + va % 4096 = va := by omega
  have e' : va / 4096 * 4096 / 4096 = va / 4096 := by omega
  by_cases h0 : f = 0
  · subst h0
    simp only [Machine.translate, lookup, fullWalk, lastStage, root, w va hv, fine va hv h6, if_true]
    have tp (u w x : Bool) : (pageEntry 0 va (va / 4096 * 4096) 512 0 u w x).trans va = ⟨va, 0, u⟩ :=
      trans_pageEntry 0 0 u w x (pa := va / 4096 * 4096) hv (by omega)
    cases want <;> simp [entW, entX, entMt, bits, tp]
  · have h7 := h6.resolve_left h0
    have root2 : (s'.fcfgOf f).s2root = 0x1000 := by
      have := h7.1.1
      simpa [State.fcfgOf, ha.fcfg] using this
    have st2 (v : Nat) (hv : v < 2 ^ 21) : stage2 s' f v = (.ok (⟨0x33, 1, v / 4096 * 4096, 512⟩, v), s') := by
      have hva : v / 4096 * 4096 + v % 4096 = v := Nat.div_add_mod' v 4096
      simp only [stage2, lastStage, h0, root2, w v hv, fine v hv h6, if_false, if_true, hva]
    have guest := walk_identity r1 r2 r3 r4 (tr := guestTable f) (fun a ha => by simp [guestTable, st2 a ha, entKey, bits]) hv
    simp only [Machine.translate, lookup, fullWalk, h0, root, guest, e, st2 va hv, if_false]
    have tp (u w x : Bool) : (pageEntry f va va 512 0 u w x).trans va = ⟨va, 0, u⟩ := trans_pageEntry f 0 u w x hv rfl
    cases want <;> simp [entW, entX, entMt, entKey, bits, tp]

-- Homes.

/-- A property of the directory entry of every sector. -/
theorem dir_all {s : State} (P : DirEntry → Bool) (h : P .idle = true ∧ (s.dir.all (fun p => P p.2)) = true) (sec : Nat) :
    P (dirOf s sec) = true := get_all (fun e => P e = true) h.1 (fun p hp => List.all_eq_true.mp h.2 p hp) sec
theorem die_all {s : State} (P : DieSt → Bool) (h : P .reset = true ∧ (s.dies.all (fun p => P p.2)) = true) (d : Nat) :
    P (s.die d) = true := get_all (fun e => P e = true) h.1 (fun p hp => List.all_eq_true.mp h.2 p hp) d
/-- Every L2 lists fewer than 4,096 lines. -/
def roomB (s : State) : Bool := s.dies.all (fun p => decide (p.2.lines.length < 4096))
theorem l2room_of {s : State} (h : roomB s = true) {n : Nat} (hn : n ≤ 4096 := by decide) : L2Room s n := by
  intro d line
  have hl := of_decide_eq_true (die_all (fun x => decide (x.lines.length < 4096)) ⟨by decide, h⟩ d)
  have hf : (setLines (s.die d) line).length ≤ (s.die d).lines.length := List.length_filter_le _ _
  omega

/-- `base` with its code's sector 1024, at 0x10000 with home die 0, in a directory state. -/
def atDir (e : DirEntry) (s : State := base) : State := { s with dir := [(1024, e)] }
def sharedBy (d : Nat) : DirEntry := ⟨.s, false, 0, BitVec.ofNat 4 (2 ^ d), 0, false⟩
theorem witness_home_read : base.reports = [] ∧ populated 0x10000 = true ∧ homeOf base 0x10000 < 4 ∧ poisoned base 0x10000 = false ∧
    (1 : Nat) ≠ homeOf base 0x10000 ∧ holds base 1 (secOf 0x10000) = false ∧ (dirOf base (secOf 0x10000)).st ≠ .u ∧
    (0 : Nat) = homeOf base 0x10000 ∧ dieOfCore 64 = 1 ∧ base.boot.h1c = false := by decide +kernel
theorem room_base : L2Room base 300 := l2room_of (by decide +kernel)
/-- A request with identity 1 to sector 1024. -/
def request (k : SentKind) : Sent := ⟨1, .thread 0 0, 0, 0, 0, 0, 0x10000, 0x10000, 0, 0x8000, 0, (0, 0), k, [], [], false⟩
def asking (k : SentKind) (s : State := base) : State := { s with sent := [request k] }
def performsB (s : State) (k : SentKind) : Bool :=
  decide (s.reports = []) && decide (s.sent = [request k]) && sentReady s (request k) && decide (accErr s 0x10000 0 = none) &&
    decide (homeOf s 0x10000 < 4) && keyedB s 0x10000 0 && decide ((dirOf s 1024).st ≠ .u) && roomB s
theorem performs_of {s : State} {k : SentKind} (h : performsB s k = true) : Performs s (request k) := by
  simp only [performsB, Bool.and_eq_true, decide_eq_true_eq] at h
  obtain ⟨⟨⟨⟨⟨⟨⟨h1, h2⟩, h3⟩, h4⟩, h5⟩, h6⟩, h7⟩, h8⟩ := h
  exact ⟨h1, by simp [h2], h3, h4, .inl h5, keyed_of h6, fun hu => absurd (by simpa [request, secOf] using hu) h7, l2room_of h8,
    by simp [h2]⟩
-- A write up to the end of its sector.
theorem witness_home_write : Performs (asking (.write (leBytes 64 1))) (request (.write (leBytes 64 1))) ∧
    0x10000 % 64 + (leBytes 64 1).length ≤ 64 := ⟨performs_of (by decide +kernel), by decide⟩
theorem witness_home_red : Performs (asking (.red 0 2 5)) (request (.red 0 2 5)) ∧
    newOf 0 2 (BitVec.ofNat 64 (leNat (homeBytes (asking (.red 0 2 5)) 0x10000 4))) 5 0 = some 5 :=
  ⟨performs_of (by decide +kernel), by decide +kernel⟩
theorem witness_home_upd : Performs (asking (.upd 0 5)) (request (.upd 0 5)) ∧ 0x10000 % 64 + tagSize 0 ≤ 64 :=
  ⟨performs_of (by decide +kernel), by decide⟩
theorem test_home_red : after (exec (.homeAtomic 1) (asking (.red 0 2 5))) (fun t => decide (homeBytes t 0x10000 5 = [5, 0, 0, 0, 0]))
    = true := by decide +kernel
theorem witness_home_register : Performs (asking (.register 0 0)) (request (.register 0 0)) ∧ NoThrough (asking (.register 0 0)) ∧
    (sliceCollectors (asking (.register 0 0)) (dieOfCore 0) 1024).length < 256 :=
  ⟨performs_of (by decide +kernel), by simp [NoThrough, asking, request], by decide +kernel⟩
def dirtyClean : State := atDir ⟨.m, false, 0, 0, 0, false⟩ (asking (.clean true))
theorem witness_home_clean : Performs dirtyClean (request (.clean true)) ∧ (dirOf dirtyClean 1024).st = .m ∧ NoThrough dirtyClean :=
  ⟨performs_of (by decide +kernel), by decide +kernel, by simp [NoThrough, dirtyClean, atDir, asking, request]⟩
-- Of the holders' events: die 1 shares sector 1024, line 256.
def shared : State := atDir (sharedBy 1)
theorem witness_drop_notice : shared.reports = [] ∧ (dirOf shared (4 * 256 + 0)).st = .s ∧
    (dirOf shared (4 * 256 + 0)).dies.getLsbD 1 = true ∧ holds shared 1 (4 * 256 + 0) = false ∧
    (∀ j, j < 4 → (shared.die 1).fills.contains (4 * 256 + j) = false) := by decide +kernel
def written : PWrite := ⟨1, 0, 0x10000, [7], [], [1]⟩
def spreading : State := { shared with performed := [written], dies := [(1, { DieSt.reset with held := [1024] })] }
theorem witness_write_apply : spreading.reports = [] ∧
    spreading.performed.find? (fun w => w.pending.contains 1 && homeOf spreading w.pa == 0) = some written ∧
    appliedAt spreading 1 (written.preds.filter (fun i => i != written.id)) = true ∧ holds spreading 1 (secOf written.pa) = true ∧
    (∀ v ∈ spreading.performed, v.pending.Nodup) := by decide +kernel
theorem test_write_apply : after (exec (.writeApply 1 0) spreading) (fun t =>
    decide (NatMap.get 0 (t.die 1).view 0x10000 = 7)) = true := by decide +kernel
def filling1 : State := { shared with dies := [(1, { DieSt.reset with fills := [1024] })] }
theorem witness_line_fill : filling1.reports = [] ∧ filling1.performed = [] ∧ 1024 ∈ (filling1.die 1).fills ∧ 1024 / 4 = 256 := by
  decide +kernel
def l1Held : State := base.modCore 0 (fun c => { c with l1 := [(1024, some ⟨0, leBytes 64 0, [], false⟩)] })
theorem witness_l1_expire : l1Held.reports = [] ∧ (NatMap.get none (l1Held.core 0).l1 1024).isSome = true := by decide +kernel
-- Of the partials.
def part1 : Partial := ⟨0, [(3, some 5)], [], [0], false⟩
def partialHeld : State := base.modCore 0 (fun c => { c with partials := [(1024, some part1)] })
theorem witness_partial_evict : partialHeld.reports = [] ∧ dieOfCore 0 = 0 ∧ partialOf partialHeld 0 1024 = some part1 ∧
    partialHeld.sent.any (isRegister 0 1024) = false ∧ (sliceCollectors partialHeld 0 1024).length < 256 := by decide +kernel
def collected : State :=
  { atDir ⟨.u, false, 0, 0, 1, false⟩ with dies := [(0, { DieSt.reset with collectors := [(1024, some ⟨some part1, 0⟩)] })] }
theorem witness_collector_evict : collected.reports = [] ∧ collectorOf collected 0 1024 = some ⟨some part1, 0⟩ ∧
    (dirOf collected 1024).st = .u ∧ recallCores collected 1024 (dirOf collected 1024) 0 = [] ∧ NatMap.wf none part1.els = true ∧
    (∀ x ∈ part1.els, tagSize part1.tag * (x.1 + 1) ≤ 64) := by decide +kernel
theorem test_collector_evict : after (exec (.collectorEvict 0 1024) collected) (fun t =>
    decide (homeByte t (0x10000 + 3 * tagSize 0) = 5)) = true := by decide +kernel
/-- Sector 1024 is update-only, with a bad partial in the collector of its home die. -/
def part1Bad : Partial := { part1 with bad := true }
def collectedBad : State :=
  { atDir ⟨.u, false, 0, 0, 1, false⟩ with dies := [(0, { DieSt.reset with collectors := [(1024, some ⟨some part1Bad, 0⟩)] })] }
theorem witness_collector_bad : collectedBad.reports = [] ∧ collectorOf collectedBad 0 (secOf 0x10000) = some ⟨some part1Bad, 0⟩ ∧
    poisoned collectedBad 0x10000 = false ∧ holds collectedBad 1 (secOf 0x10000) = false ∧
    (dirOf collectedBad (secOf 0x10000)).st = .u := by decide +kernel
theorem test_collector_bad : after (exec (.homeReadRequest 0x10000 (.die 1)) collectedBad) (fun t =>
    t.poison.contains 1024 && t.poison.contains 1027) = true := by decide +kernel
/-- Die 1 is noted at the host's home as a holder of a line of which it keeps no sector. -/
def hostNoted : State := { base with boot := ⟨1, 7, 0, true⟩, hostHeld := [(hostBase / 256, 2)] }
theorem witness_drop_host : hostNoted.reports = [] ∧ homeOf hostNoted (256 * (hostBase / 256)) = 4 ∧
    (NatMap.get 0 hostNoted.hostHeld (hostBase / 256)).getLsbD 1 = true ∧ (∀ j, j < 4 → holds hostNoted 1 (4 * (hostBase / 256) + j) = false ∧
      (hostNoted.die 1).fills.contains (4 * (hostBase / 256) + j) = false) := by decide +kernel
theorem witness_directory_error : shared.reports = [] ∧ populated (256 * 256) = true ∧ homeOf shared (256 * 256) ≠ 4 ∧
    (∃ i, i < 4 ∧ (dirOf shared (4 * 256 + i)).st ≠ .i) ∧ (∀ i, i < 4 → (dirOf shared (4 * 256 + i)).st = .i ∨
      (allPartials shared (4 * 256 + i) = [] ∧ copiesEqual shared (4 * 256 + i) = true)) :=
  ⟨by decide +kernel, by decide +kernel, by decide +kernel, ⟨0, by decide +kernel⟩, by decide +kernel⟩

-- Of HostAccessesMemory.
theorem witness_host_read : base.reports = [] ∧ base.boot.state = 1 ∧ base.boot.h1c = false ∧ populated 0x10000 = true ∧
    populated (0x10000 + 300 - 1) = true ∧ (∀ i, i < 300 → poisoned base (0x10000 + i) = false ∧
      (dirOf base (secOf (0x10000 + i))).st ≠ .u) := by decide +kernel
theorem sound_parts : SoundParts base (secOf 0x10000) := by
  refine ⟨fun c p hp => ?_, fun d x p hc hp => ?_⟩
  · have : partialOf base c (secOf 0x10000) = none := get_all (d := CoreSt.reset) (m := base.cores)
      (fun k : CoreSt => NatMap.get none k.partials (secOf 0x10000) = none) rfl (by decide +kernel) c
    rw [this] at hp; cases hp
  · have : collectorOf base d (secOf 0x10000) = none := get_all (d := DieSt.reset) (m := base.dies)
      (fun k : DieSt => NatMap.get none k.collectors (secOf 0x10000) = none) rfl (by decide +kernel) d
    rw [this] at hc; cases hc
def coherent (s : State := base) : State := { s with boot := ⟨1, 7, 0, true⟩ }
theorem witness_host_read_coherent : (coherent).reports = [] ∧ (coherent).boot.state = 1 ∧ (coherent).boot.h1c = true ∧
    0x10000 % 64 + 64 ≤ 64 ∧ populated 0x10000 = true ∧ populated (0x10000 + 64 - 1) = true ∧ poisoned (coherent) 0x10000 = false ∧
    homeOf (coherent) 0x10000 < 4 ∧ isHost 0x10000 = false ∧ (coherent).performed = [] ∧
    (∀ i, i < 4 → (dirOf (coherent) (4 * lineOf 0x10000 + i)).st ≠ .u ∧
      (coherent).poison.contains (4 * lineOf 0x10000 + i) = false) ∧ roomB (coherent) = true := by decide +kernel
def poisonedHere : State := { base with poison := [1024] }
theorem witness_host_read_poisoned : poisonedHere.reports = [] ∧ poisonedHere.boot.state = 1 ∧ 0x10000 % 64 + 8 ≤ 64 ∧
    populated (0x10000 + 8 - 1) = true ∧ poisoned poisonedHere 0x10000 = true ∧ (dirOf poisonedHere (secOf 0x10000)).st ≠ .u ∧
    homeOf poisonedHere 0x10000 < 4 ∧ poisonedHere.boot.h1c = false := by decide +kernel
theorem witness_host_write : base.reports = [] ∧ base.boot.state = 1 ∧ populated 0x10000 = true ∧ populated (0x10000 + 2 - 1) = true ∧
    NatMap.get none base.keys 1024 = none ∧ (∀ i, i < 2 → poisoned base (0x10000 + i) = false ∧ homeOf base (0x10000 + i) < 4 ∧
      isHost (0x10000 + i) = false ∧ (dirOf base (secOf (0x10000 + i))).st ≠ .u) := by decide +kernel
theorem witness_host_write_host : populated hostBase = true ∧ populated (hostBase + 2 - 1) = true ∧ (∀ i, i < 2 →
    poisoned base (hostBase + i) = false ∧ isHost (hostBase + i) = true ∧ (dirOf base (secOf (hostBase + i))).st ≠ .u) := by
  decide +kernel
def hostWritten : PWrite := ⟨1, 0, hostBase, [7], [], [1]⟩
/-- Die 1 holds a sector of host memory, and has a write of the host's home to apply. -/
def updating : State := { coherent with performed := [hostWritten], dies := [(1, { DieSt.reset with held := [secOf hostBase] })] }
theorem witness_host_update : updating.reports = [] ∧ HostNext updating 1 (lineOf hostBase) hostWritten ∧
    holds updating 1 (secOf hostWritten.pa) = true ∧ (∀ v ∈ updating.performed, v.pending.Nodup) ∧ (updating.die 1).held.Nodup :=
  ⟨by decide +kernel, ⟨by decide +kernel, by decide +kernel⟩, by decide +kernel, by decide +kernel, by decide +kernel⟩
theorem test_host_update : after (exec (.hostHomeUpdate 1 (lineOf hostBase) false) updating) (fun t =>
    decide (NatMap.get 0 (t.die 1).view hostBase = 7)) = true := by decide +kernel
/-- A write toward the host's home, which the loss of H1 cuts. -/
def toHost : State := { coherent with sent := [{ request (.write [7]) with pa := hostBase }] }
theorem witness_local_host : Local toHost hostBase ∧ (toHost.sent.filter (fun q =>
    decide (homeOf toHost q.pa = 4) && !kindClean q.kind)).length = 1 := ⟨.inr (by decide +kernel), by decide +kernel⟩
theorem witness_h1_loss : (coherent).reports = [] ∧ (coherent).boot.h1c = true := by decide +kernel

-- Of FabricMessagesAndErrors.
theorem witness_link_mismatch : base.reports = [] ∧ linkMatches base 0 0 5 = none := by decide +kernel
/-- Partition 3 owns sub-link 0 of port 0 with PPID 5; function 2 is enabled in it, with the tables of function 0 as both of its
stages. -/
def fabric : State :=
  { base.modFunc 2 (fun x => { x with s1root := 0x1000 }) with
    parts := [(3, { Part.reset with en := true, ppid := 5, lanes := 15, clus := 2, chan := 1 })]
    fcfg := [(2, { Fcfg.reset with en := true, part := 3, keylo := 0, keyhi := 1, s2root := 0x1000 })]
    tlbs := [(0, [⟨2, 16, 16, 0, false, true, true, 1⟩]), (321, [⟨2, 16, 16, 0, false, true, true, 1⟩])]
    route := [(256 * 3 + 7, 0x80)] }
theorem alike_refl {s : State} (h : ∀ sec, (dirOf s sec).st ≠ .u) (but : Nat → Prop) : Alike s s but :=
  ⟨fun _ _ => rfl, h, fun _ => rfl, rfl, rfl, ⟨rfl, rfl⟩, rfl⟩
theorem not_merged {s : State} (h : s.dir = []) (sec : Nat) : (dirOf s sec).st ≠ .u := by simp [dirOf, h, DirEntry.idle]
theorem witness_fabric_message : fabric.reports = [] ∧ linkMatches fabric 0 0 5 = some 3 ∧ funcExists fabric 2 = true ∧
    (fabric.fcfgOf 2).part = 3 ∧ (fabric.func 2).torn = false ∧
    translate fabric [] 2 0x10000 .write = (.ok ⟨0x10000, 0, false⟩, fabric) ∧ accErr fabric 0x10000 0 = none ∧
    Keyed fabric 0x10000 0 ∧ Local fabric 0x10000 ∧ (∀ sec, (dirOf fabric sec).st ≠ .u) ∧ L2Room fabric 0 :=
  have hm := maps_of (s := fabric) (f := 2) (va := 0x10000) (want := .write) (but := fun _ => False) (by decide +kernel) (by decide)
    (fun _ _ _ h => h) (by decide +kernel) (by decide +kernel) (by decide +kernel)
  ⟨by decide +kernel, by decide +kernel, by decide +kernel, by decide +kernel, by decide +kernel,
    hm.walk _ (alike_refl (not_merged (by decide +kernel)) _), by decide +kernel, hm.keyed, hm.home, not_merged (by decide +kernel),
    l2room_of (by decide +kernel)⟩
-- FWAKE to node 7, and, the boundary, to a node with no route.
theorem witness_fwake : fabric.boot.state = 1 ∧ (NatMap.get 0 fabric.route (256 * 3 + 7)).toNat / 128 = 1 ∧
    ownsLink fabric 3 0 0 = true ∧ (NatMap.get 0 fabric.route (256 * 3 + 8)).toNat / 128 = 0 := by decide +kernel
theorem test_fwake : after (exec (.fabricWakeSend (BitVec.ofNat 64 (2 + 7 * 2 ^ 10 + 3 * 2 ^ 18))) fabric) (fun t =>
    decide (t.fabricOut = [⟨0, 0, 5, 2, 0, 3, []⟩])) = true := by decide +kernel

-- Of the errors in data: at the home, in a core's partial, in a visiting die's collector.
theorem witness_ecc : SoundParts collected 1024 ∧ atHome collected 0x10000 1 (.sram 2 0) = false ∧
    atHome collected 0x10000 0 (.hbm 0 0 1 64) = true ∧ atHome collected 0x10000 0 (.sram 1 0) = false ∧ populated 0x10000 = true := by
  refine ⟨⟨fun c p hp => ?_, fun d x p hc hp => ?_⟩, by decide +kernel, by decide +kernel, by decide +kernel, by decide +kernel⟩
  · have : partialOf collected c 1024 = none := get_all (d := CoreSt.reset) (m := collected.cores)
      (fun k : CoreSt => NatMap.get none k.partials 1024 = none) rfl (by decide +kernel) c
    rw [this] at hp; cases hp
  · have : ∀ y, NatMap.get none (collected.die d).collectors 1024 = some y → y.part.all (fun q => !q.bad) = true :=
      get_all (d := DieSt.reset) (m := collected.dies)
        (fun k : DieSt => ∀ y, NatMap.get none k.collectors 1024 = some y → y.part.all (fun q => !q.bad) = true)
        (fun y h => by cases h) (by decide +kernel) d
    simpa [hp] using this x hc
-- A repair of type 4, whose target is in range, with a spare and without one.
def repairAsk (ty : Nat) : BitVec 128 := BitVec.ofNat 128 (ty * 2 ^ 64 + 2 ^ 69)
theorem witness_repair_asked : ∀ ty, ty < 8 → RepairAsked base (repairAsk ty) ty := by
  intro ty h
  have hd : ∀ ty, ty < 8 → (bits (repairAsk ty) 64 4).toNat = ty ∧ (repairAsk ty).getLsbD 69 = true ∧
      ((repairAsk ty).getLsbD 68 = false ∧ bits (repairAsk ty) 72 56 = 0) ∧ targetOk ty (bits (repairAsk ty) 0 64) = true := by
    decide +kernel
  obtain ⟨h1, h2, h3, h4⟩ := hd ty h
  exact ⟨by show _ = []; decide +kernel, by decide +kernel, h1, h2, h3, h4, by decide +kernel⟩
-- The boundaries of the repairs' clauses: the bank's soft spare unused, a soft repair under way, and a sector to clear.
theorem witness_soft_repair : (bits (repairAsk 0) 0 13).toNat ∉ base.softUsed ∧ (sparesTaken base 4 0 < spares 4 0) ∧
    ¬ (sparesTaken { base with repairMap := [⟨4, 0⟩, ⟨4, 4⟩] } 4 0 < spares 4 0) ∧
    ({ base with softRow := some 5, repairStatus := .busy } : State).softRow = some 5 ∧
    (bits (0x10001 : BitVec 64) 6 46).toNat * 64 = 0x10000 ∧ (0x10001 : BitVec 64).getLsbD 0 = true := by decide +kernel

-- Engines at work.

/-- A descriptor of `rows` rows of `n` bytes with control word `ctrl`, without a barrier; node 7. -/
def descBytes (src dst rows n spitch dpitch ctrl index : Nat) : List Byte :=
  leBytes 8 src ++ leBytes 8 dst ++ leBytes 4 rows ++ leBytes 4 n ++ leBytes 4 spitch ++ leBytes 4 dpitch ++ leBytes 4 ctrl
    ++ leBytes 4 noBarrier ++ leBytes 4 7 ++ leBytes 4 0 ++ leBytes 4 index ++ leBytes 12 0
def opFor (k : OpKind) (desc : List Byte) : EngineOp :=
  ⟨9, k, 0, 0, 0, 64, desc, 5, 0, 1, [], false, false, none, [], [], [], []⟩
/-- The page of 0x10000, as the TLBs of `base` hold it. -/
def page16 : TlbEntry := ⟨0, 16, 16, 0, false, true, true, 1⟩
def withOp (o : EngineOp) (s : State := base) : State :=
  { s.modUnit 0 (fun u => { u with tl := [(0, ⟨1, 0, []⟩)] }) with engineOps := [o] }
/-- The unit of `base`, with one operation issued. -/
def opUnit : Unit_ := { placeUnit with
  a := [(0, ⟨0x10000, 64, 66⟩), (1, ⟨0, 64, 74⟩), (2, ⟨0, 64, 82⟩), (3, ⟨0x10000, 4, 98⟩)]
  threads := (List.range 32).map (fun i => (i, { Thread.start with r := [(5, BitVec.ofNat 32 i)] })), tl := [(0, ⟨1, 0, []⟩)] }
def runningB (o : EngineOp) (s : State) : Bool :=
  decide (s.reports = []) && decide (opOf s 9 = some o) && decide (s.unit? o.uid = some opUnit) && decide (o.waiting = none) &&
    !o.err && !o.sat && decide (o.shadow = []) && (o.pins ++ NatMap.get [] s.tlbs (320 + o.core / 4)).all (fun e => decide (e = page16))
theorem running_of {o : EngineOp} {s : State} (h : runningB o s = true) : Running s 9 o opUnit := by
  simp only [runningB, Bool.and_eq_true, decide_eq_true_eq, Bool.not_eq_true'] at h
  obtain ⟨⟨⟨⟨⟨⟨⟨h1, h2⟩, h3⟩, h4⟩, h5⟩, h7⟩, h6⟩, h8⟩ := h
  have h9 := List.all_eq_true.mp h8
  refine ⟨h1, h2, h3, ⟨rfl, rfl⟩, rfl, h4, h5, h7, h6, fun e he e' he' va _ _ => ?_⟩
  rw [of_decide_eq_true (h9 e he), of_decide_eq_true (h9 e' he')]
theorem opUnit_quiet : NoTwait opUnit := by intro p hp; exact absurd hp (by simp [opUnit, placeUnit])
def hitB (s : State) (core f : Nat) (want : Want) (va : Nat) (t : Trans) : Bool :=
  (match (NatMap.get [] s.tlbs (320 + core / 4)).find? (fun e => e.func == f && decide (e.vpn ≤ va / 4096) &&
      decide (va / 4096 < e.vpn + e.pages) && e.allows want) with
   | some e => decide (t = ⟨e.ppn * 4096 + (va - e.vpn * 4096), e.key, e.unc⟩)
   | none => false) && decide (accErr s t.pa t.key = none) && (keyedB s t.pa t.key && !(s.die (dieOfCore core)).bad.contains (secOf t.pa))
theorem hits_of {s : State} {core f : Nat} {want : Want} {va : Nat} {t : Trans} (h : hitB s core f want va t = true) :
    Hits s core f want va t := by
  simp only [hitB, Bool.and_eq_true, decide_eq_true_eq, Bool.not_eq_true'] at h
  refine ⟨?_, h.1.2, keyed_of h.2.1, h.2.2⟩
  have h1 := h.1.1
  split at h1
  · rename_i e he
    exact ⟨e, he, of_decide_eq_true h1⟩
  · simp at h1
def opHitB (s : State) (o : EngineOp) (want : Want) (va : Nat) (t : Trans) : Bool :=
  (o.pins ++ NatMap.get [] s.tlbs (320 + o.core / 4)).any (fun e => e.covers o.func va && e.allows want && decide (t = e.trans va)) &&
    decide (accErr s t.pa t.key = none) && (keyedB s t.pa t.key && !(s.die (dieOfCore o.core)).bad.contains (secOf t.pa))
theorem opHits_of {s : State} {o : EngineOp} {want : Want} {va : Nat} {t : Trans} (h : opHitB s o want va t = true) :
    OpHits s o want va t := by
  simp only [opHitB, Bool.and_eq_true, decide_eq_true_eq, Bool.not_eq_true', List.any_eq_true] at h
  obtain ⟨⟨⟨e, he, h1⟩, h2⟩, h3, h4⟩ := h
  exact ⟨⟨e, he, h1.1.1, h1.1.2, h1.2⟩, h2, keyed_of h3, h4⟩
/-- The operation holds the pages of byte `x`. -/
def inPagesB (o : EngineOp) (d : CopyDesc) (x : Nat) : Bool :=
  (decide (d.sspace ≠ 0) || o.pins.any (fun e => e.covers o.func (srcByte d x))) &&
    (decide (d.dspace ≠ 0) || o.kind matches .cpyf _ || o.pins.any (fun e => e.covers o.func (dstByte d x) && e.w))
theorem inPages_of {o : EngineOp} {d : CopyDesc} {x : Nat} (h : inPagesB o d x = true) : InPages o d x := by
  simp only [inPagesB, Bool.and_eq_true, Bool.or_eq_true, decide_eq_true_eq, List.any_eq_true] at h
  refine ⟨fun hs => ?_, fun hd hk => ?_⟩
  · obtain ⟨e, he, h1⟩ := h.1.resolve_left (fun n => n hs)
    exact ⟨e, he, h1⟩
  · obtain ⟨e, he, h1⟩ := h.2.resolve_left (fun n => by
      rcases n with n | n
      · exact n hd
      · split at n
        · rename_i k hk'
          exact hk k hk'
        · simp at n)
    exact ⟨e, he, h1⟩
theorem xPlain_base (a n : Nat) (h1 : (base.core 0).seals = [] ∧ (base.core 0).barriers = [] ∧ (base.cluster 0).queues = [])
    {s : State} (hc : s.core 0 = base.core 0) (hq : s.cluster 0 = base.cluster 0) : XPlain s 0 a n := by
  refine ⟨?_, ?_, ?_⟩
  · simp [sealHit, sealsIn, sealsOf, hc, h1.1]
  · simp [hc, h1.2.1]
  · simp [hq, h1.2.2]

-- Two rows of 16 bytes from 0x10000 to X offset 0x100, the second ahead of the first; to W; to global memory; a fabric copy.
def cpyX : EngineOp := { opFor .cpy (descBytes 0x10000 0x100 2 16 32 16 4 0) with pins := [page16] }
def copyB (s : State) (o : EngineOp) (b n sa da : Nat) : Bool :=
  let d := descOf o.desc
  !isGather o.kind && (destCores o.kind opUnit).contains 0 && o.free 0 b (b + n) &&
    decide (0 < n ∧ b + n ≤ d.total ∧ b % d.rowBytes + n ≤ d.rowBytes) &&
    decide (sa = srcByte d b ∧ da = dstByte d b) &&
    decide (sa % 64 + n ≤ 64 ∧ da % 64 + n ≤ 64) &&
    decide ((b = 0 ∨ wordOf d (b - 1) ≠ wordOf d b) ∧ (b + n = d.total ∨ wordOf d (b + n - 1) ≠ wordOf d (b + n))) &&
    (List.range b).all (fun x => decide (x < copyFront o opUnit) || inPagesB o d x) &&
    decide ((s.core opUnit.core).badX = [] ∧ (s.cluster (opUnit.core / 4)).badY = []) &&
    (decide (d.sspace ≠ 0) || decide (d.dspace ≠ 0) || !overlaps d.src (hullLen d d.spitch) da n) && runningB o s
theorem witness_copy_x : copyB (withOp cpyX) cpyX 16 16 0x10020 0x110 = true ∧ (descOf cpyX.desc).dspace = 1 ∧
    (descOf cpyX.desc).barrier = noBarrier ∧ (descOf cpyX.desc).sspace = 0 ∧
    opHitB (withOp cpyX) cpyX .read 0x10020 ⟨0x10020, 0, false⟩ = true ∧ ((withOp cpyX).func opUnit.func).saved = [] := by decide +kernel
theorem witness_copy_settled : Settled (withOp cpyX) :=
  settled_of (by decide +kernel)
theorem witness_copy_plain : XPlain (withOp cpyX) 0 0x110 16 :=
  xPlain_base _ _ (by decide +kernel) (by decide +kernel) (by decide +kernel)
def cpyW : EngineOp := opFor .cpyw (descBytes 0x100 0x200 1 64 64 64 9 0)
theorem witness_copy_w : copyB (withOp cpyW) cpyW 0 64 0x100 0x200 = true ∧ (descOf cpyW.desc).dspace = 2 ∧
    (descOf cpyW.desc).sspace = 1 := by decide +kernel
def cpyG : EngineOp := { opFor .cpy (descBytes 0x100 0x10040 1 64 64 64 1 0) with pins := [page16] }
theorem witness_copy_global : copyB (withOp cpyG) cpyG 8 8 0x108 0x10048 = true ∧ (descOf cpyG.desc).dspace = 0 ∧
    opHitB (withOp cpyG) cpyG .write 0x10048 ⟨0x10048, 0, false⟩ = true ∧ homeOf (withOp cpyG) 0x10048 < 4 := by decide +kernel
-- Of a copy, 8 bytes land and no others.
theorem test_copy_global : after (exec (.copyBytesLand 9 0 ⟨8, 8⟩) (withOp cpyG (putX base 0x108 (leBytes 8 0x1122334455667788)))) (fun t =>
    decide (homeBytes t 0x10048 8 = leBytes 8 0x1122334455667788 ∧ homeBytes t 0x10040 8 = homeBytes base 0x10040 8)) = true := by
  decide +kernel
def cpyF : EngineOp := { opFor (.cpyf 0) (descBytes 0x100 0x10040 1 64 64 64 1 0) with func := 2 }
theorem witness_copy_fabric : copyB (withOp cpyF fabric) cpyF 0 64 0x100 0x10040 = true ∧
    fabricLink (withOp cpyF fabric) 2 (descOf cpyF.desc).node = some (0, 0) := by decide +kernel
def cpyDone : EngineOp := { cpyX with done := [(0, [(0, 32)])] }
theorem witness_copy_complete : opOf (withOp cpyDone) 9 = some cpyDone ∧ (withOp cpyDone).unit? 0 = some opUnit ∧
    isGather cpyDone.kind = false ∧ (∀ c ∈ destCores cpyDone.kind opUnit, cpyDone.landed c = (descOf cpyDone.desc).total) := by
  decide +kernel
-- R126: the token holds number 1.
theorem test_copy_complete : after (exec (.copyComplete 9) (withOp cpyDone)) (fun t => match t.unit? 0 with
      | some u => decide (u.sreg 5 = 1 ∧ (u.timeline 0).c = 1)
      | none => false) = true := by decide +kernel
theorem witness_gather_error : isGather OpKind.bgath = true := rfl
/-- Three indices at X offset 0x40, of which the last lies outside the table of 4 elements of 8 bytes. -/
def gatherState (o : EngineOp) : State := putX (withOp o) 0x40 (leBytes 4 3 ++ leBytes 4 0 ++ leBytes 4 4)
def gath : EngineOp := { opFor .bgath (descBytes 0x10000 0x100 3 8 4 8 4 0x40) with xoff := 0x80 }
def scat : EngineOp := { opFor .bscat (descBytes 0x100 0x10000 3 8 4 8 1 0x40) with xoff := 0x80 }
def gatherB (o : EngineOp) : Bool :=
  let s := gatherState o
  let d := descOf o.desc
  runningB o s && decide (indexList s opUnit d = [3, 0, 4]) && decide (d.barrier = noBarrier) && roomB s && decide (2 * 3 < 8192) && [3, 0].all (fun i =>
    decide (i < d.spitch) && decide (tableAt o d i % 64 + d.rowBytes ≤ 64) && opHitB s o (if o.kind = .bgath then .read else .write)
      (tableAt o d i) ⟨tableAt o d i, 0, false⟩) && decide (o.pins = [] ∧ (s.core 0).badX = [])
theorem witness_gather : gatherB gath = true ∧ gatherB scat = true := by decide +kernel
theorem witness_gather_settled : Settled (gatherState gath) ∧ Settled (gatherState scat) :=
  ⟨settled_of (by decide +kernel),
    settled_of (by decide +kernel)⟩
theorem witness_gather_plain : (match (gatherState gath).core 0, (gatherState gath).cluster 0 with
    | c, k => decide (c.seals = []) && decide (c.barriers = []) && decide (k.queues = [])) = true := by decide +kernel
-- Of the faults of engines: the source has no translation, and the log is not enabled.
def cpyFault : EngineOp := opFor .cpy (descBytes 0x10000000000 0x100 1 16 16 16 4 0)
theorem witness_engine_fault : runningB cpyFault (withOp cpyFault) = true ∧ copyFront cpyFault opUnit < (descOf cpyFault.desc).total ∧
    (descOf cpyFault.desc).sspace = 0 ∧ (match translate (withOp cpyFault) (clusterTlbs 0) 0 0x10000000000 .read with
      | (.flt x, s1) => (s1.func (if x.stage2 then 0 else 0)).flog.full && decide (s1.faults = [])
      | _ => false) = true := by decide +kernel
def faultRec : FaultRec := ⟨4, 0, 0x20000, 0, 0, 0, 0, 0, 0, 0, false, false, .op 9, none⟩
def logged : State :=
  { (base.modFunc 0 (fun x => { x with flog := ⟨0x10000, true, 4, 0, 14⟩ })) with faults := [faultRec] }
theorem witness_fault_write : logged.reports = [] ∧ logged.faults.find? (fun q => q.id == 4) = some faultRec ∧
    (logged.func faultRec.log).flog.full = false ∧ (0x10000 + 32 * 14) % 64 + 32 ≤ 64 ∧
    translate logged [] 0 (0x10000 + 32 * 14) .write = (.ok ⟨0x10000 + 32 * 14, 0, false⟩, logged) ∧
    Keyed logged (0x10000 + 32 * 14) 0 ∧ Local logged (0x10000 + 32 * 14) ∧ (dirOf logged (secOf (0x10000 + 32 * 14))).st ≠ .u ∧
    accErr logged (0x10000 + 32 * 14) 0 = none ∧ (logged.func 0).flogBad = false ∧ L2Room logged 0 :=
  have hm := maps_of (s := logged) (f := 0) (va := 0x10000 + 32 * 14) (want := .write) (but := fun _ => False) (by decide +kernel)
    (by decide) (fun _ _ _ h => h) (by decide +kernel) (by decide +kernel) (by decide +kernel)
  ⟨by decide +kernel, by decide +kernel, by decide +kernel, by decide, hm.walk _ (alike_refl (not_merged (by decide +kernel)) _),
    hm.keyed, hm.home, not_merged (by decide +kernel) _, hm.fine, by decide +kernel, l2room_of (by decide +kernel)⟩
-- Of TOPK: the two greatest of four.
def rankOp : TopkOp := ⟨0, 0, [0, 1], 8, 0, false, [5, 9, 1, 9], 128, 2, 100⟩
def ranking : State := { base with topks := [rankOp] }
theorem witness_topk_complete : ranking.topks.find? (fun t => t.core == 0) = some rankOp ∧ (ranking.unit? 0).isSome = true ∧
    1 ≤ rankOp.k ∧ rankOp.k ≤ rankOp.scores.length := by decide +kernel
theorem witness_topk_plain : XPlain ranking 0 128 8 := xPlain_base _ _ (by decide +kernel) (by decide +kernel) (by decide +kernel)
-- R143: positions 1 and 3 rank first, and the threshold is 9.
theorem test_topk : after (exec (.topkComplete 0) ranking) (fun t => decide (xWord t 0 128 = 101 ∧ xWord t 0 132 = 103) &&
    (match t.unit? 0 with
     | some u => decide ((u.thread 1).reg 8 = 9)
     | none => false)) = true := by decide +kernel
/-- A hint of 16 lines, the most that a hint names, for the second die's cluster 16. -/
def hinted : State :=
  { base.modCluster 16 (fun c => { c with hints := [⟨0, 0x10000, 16⟩] }) with tlbs := [(336, [page16])] }
theorem witness_hint : (hinted.cluster 16).hints = ⟨0, 0x10000, 16⟩ :: [] ∧ (List.range 16).all (fun i =>
    hitB hinted 64 0 .read (0x10000 + 256 * i) ⟨0x10000 + 256 * i, 0, false⟩ && (List.range 4).all (fun j =>
      let pa := (0x10000 + 256 * i) / 256 * 256 + 64 * j
      keyedB hinted pa 0 && decide (accErr hinted pa 0 = none) && !(hinted.die 1).bad.contains (secOf pa))) = true := by decide +kernel
theorem witness_hint_settled : Settled hinted :=
  settled_of (by decide +kernel)

-- The loader, bins, cohorts, and ends.

def goodNote : LevelNote := ⟨6, 8, 1, noteName, 1, 1⟩
def objectOf (machine : Nat) (notes : List LevelNote) : CodeObject :=
  ⟨2, 1, 1, 2, machine, notes, leBytes 8 0, [], [], 0, 0, 0, [⟨0x40, [1, 2]⟩], 0, []⟩
theorem witness_load_header : headerOk (objectOf 0 [goodNote]) = false := by decide
theorem witness_load_note : headerOk (objectOf 0x4C56 [goodNote]) = true ∧ noteOk { goodNote with ntype := 2 } = false := by decide
theorem witness_load_level : noteOk { goodNote with required := 2, target := 2 } = true := by decide
theorem witness_load_status : loadCheck 0x10000 (objectOf 0 [goodNote]) = .inl 1 := by decide +kernel
def loadSecs : List (Nat × List Byte) := [(0, leBytes 8 0), (0, []), (0, []), (0x40, [1, 2])]
theorem witness_load : loadCheck 0x10000 (objectOf 0x4C56 [goodNote]) = .inr (objectOf 0x4C56 [goodNote]) ∧
    sectionsAligned 0x10000 (objectOf 0x4C56 [goodNote]) = true ∧ ∀ x ∈ loadSecs, x.2 ≠ [] →
      (0x10000 + x.1) % 4096 + x.2.length ≤ 4096 ∧ Maps base 0 .read (0x10000 + x.1) ⟨0x10000 + x.1, 0, false⟩
        (fun a => ∃ y ∈ loadSecs, bytesAt (0x10000 + y.1) y.2.length a) ∧
      ∀ i, i < x.2.length → Local base (0x10000 + x.1 + i) ∧ Keyed base (0x10000 + x.1 + i) 0 ∧
        accErr base (0x10000 + x.1 + i) 0 = none := by
  refine ⟨by decide +kernel, by decide +kernel, fun x hx _ => ?_⟩
  have h : x.1 ≤ 0x40 ∧ x.2.length ≤ 8 := by revert x; decide
  have hall : (List.range 0x48).all (fun i => decide (homeOf base (0x10000 + i) < 4) && keyedB base (0x10000 + i) 0 &&
      decide (accErr base (0x10000 + i) 0 = none)) = true := by
    decide +kernel
  have all (i : Nat) (hi : i < 0x48) : (homeOf base (0x10000 + i) < 4 ∧ keyedB base (0x10000 + i) 0 = true) ∧
      accErr base (0x10000 + i) 0 = none := by
    simpa using List.all_eq_true.mp hall i (List.mem_range.mpr hi)
  refine ⟨by omega, maps_of (by decide +kernel) (by omega) ?_ (all _ (by omega)).1.2 (all _ (by omega)).1.1 (all _ (by omega)).2, fun i hi => ?_⟩
  · rintro a h1 h2 ⟨y, -, h3, -⟩
    omega
  · rw [Nat.add_assoc]
    exact ⟨.inl (all _ (by omega)).1.1, keyed_of (all _ (by omega)).1.2, (all _ (by omega)).2⟩
theorem test_load : after (exec (.codeObjectLoad 0 0x10000 (objectOf 0x4C56 [goodNote])) base) (fun t =>
    decide (t.loads = [⟨0, 0x10000, 0⟩] ∧ homeBytes t 0x10040 2 = [1, 2])) = true := by decide +kernel

/-- A bin of the unit of `base`, at 0x8000. -/
def bin1 : Bin := ⟨⟨0x8000, none⟩, [0, 1, 33], [], 0, false, false, none, none⟩
def binned (b : Bin) (clock : Nat) : State :=
  { (base.setGroup 0 0 none).modUnit 0 (fun u => { u with bins := [b], nthreads := 64 }) with clock := clock }
def ageOf (s : State) : Nat := ((s.unit? 0).map (fun u => u.ageLimit s)).getD 0
-- The boundary: exactly the age limit has passed.
theorem witness_bin_aged : (match (binned bin1 (ageOf base)).unit? 0 with
    | some u => decide (bin1 ∈ u.bins) && decide (u.ageLimit (binned bin1 (ageOf base)) ≤ ageOf base - bin1.birth)
    | none => false) = true := by decide +kernel
theorem witness_bin_draw : (match leastBy drawKey (eligibleBins (binned bin1 0) 0) with
    | some (uid, u, b) => decide (uid = 0) && decide (b = bin1) && decide ((binned bin1 0).unit? 0 = some u) &&
        decide (drawQuadrant (binned bin1 0) 0 (if u.redundant then 2 else 1) = some 0) &&
        decide (((binned bin1 0).core 0).drewAt ≤ (binned bin1 0).clock ∧ b.spilled = false)
    | none => false) = true := by decide +kernel
-- Of WordsKeepIntervals: `bin1` has intervals [0, 0], and its threads' k-registers hold 0.
theorem witness_bins_hold : (binned bin1 0).reports = [] ∧ NatMap.wf none (binned bin1 0).units = true ∧
    (∀ uid u, (uid, some u) ∈ (binned bin1 0).units → ∀ b ∈ u.bins, b.spilled = false ∧ ∀ th ∈ b.threads, BinHolds u b th) ∧
    (∃ t, exec (.binDraw 0) (binned bin1 0) = .next t ∧ (t.group? 0 0).isSome = true) ∧ (binned bin1 0).group? 0 0 = none := by
  refine ⟨by decide +kernel, by decide +kernel, fun uid u hu b hb => ?_, ?_, by decide +kernel⟩
  · have hl : (binned bin1 0).units = [(0, some { baseUnit with bins := [bin1], nthreads := 64 })] := by decide +kernel
    rw [hl, List.mem_singleton, Prod.mk.injEq, Option.some.injEq] at hu
    rw [hu.2, List.mem_singleton] at hb
    subst hb
    rw [hu.2]
    exact ⟨rfl, by unfold BinHolds; decide +kernel⟩
  · have h : after (exec (.binDraw 0) (binned bin1 0)) (fun t => (t.group? 0 0).isSome) = true := by decide +kernel
    obtain ⟨t, ht⟩ := next_of (o := exec (.binDraw 0) (binned bin1 0)) (by decide +kernel)
    rw [ht] at h
    exact ⟨t, ht, h⟩
-- R196: for each home lane the thread with the lowest index; thread 33 has home lane 1 and stays.
theorem test_bin_draw : after (exec (.binDraw 0) (binned bin1 0)) (fun t =>
    (match t.unit? 0 with
     | some u => decide (u.bins.map (fun b => b.threads) = [[33]])
     | none => false) && decide ((t.group? 0 0).map (fun g => NatMap.get none g.lanes 1) = some (some 1))) = true := by decide +kernel
def spilled1 : Bin := { bin1 with spilled := true }
theorem only_spill {u : Unit_} {b : Bin} (h1 : u.bins = [b]) (h2 : b.spilled = true) (h3 : b.place = none) (h4 : b.threads ≠ []) :
    OnlySpill u b := ⟨h2, h3, by simp [h1], by simp [h1], h4⟩
def spillUnit : Unit_ := { opUnit with bins := [spilled1], nthreads := 64, tl := [] }
theorem witness_only_spill : (binned spilled1 0).unit? 0 = some spillUnit ∧ OnlySpill spillUnit spilled1 ∧
    (storedBins (binned spilled1 0) 0).length < 64 ∧ (binned spilled1 0).reports = [] ∧ leastBy drawKey (eligibleBins (binned spilled1 0) 0) = some (0, spillUnit, spilled1) ∧
    drawQuadrant (binned spilled1 0) 0 (if spillUnit.redundant then 2 else 1) = some 0 ∧
    ((binned spilled1 0).core 0).drewAt ≤ (binned spilled1 0).clock :=
  ⟨by decide +kernel, only_spill rfl rfl rfl (by decide), by decide +kernel, by decide +kernel, by decide +kernel, by decide +kernel, by decide +kernel⟩
/-- The spilled bin has been written to the save area, at 0x18000. -/
def placed1 : Bin := { spilled1 with place := some 0x18000 }
def inArea : State :=
  let s := binned placed1 0
  { s with mem := NatMap.setRange 0 s.mem 0x18000 (binRecord placed1) }
theorem witness_bring_back : (match inArea.unit? 0 with
    | some u => decide (u.spill ⟨0x8000, none⟩ = some placed1) && decide ((storedBins inArea u.core).length < 64) &&
        (match loadBin inArea 0 u placed1 with
         | (.inr y, s1) => decide (y.threads = [0, 1, 33]) && decide (s1.unit? 0 = some u) && decide (s1.reports = [])
         | _ => false)
    | none => false) = true := by decide +kernel
/-- Every slot of core 0 holds a group, and an eligible bin waits. -/
def full : State :=
  { ((List.range 32).foldl (fun s n => s.setGroup 0 n (some { placeGroup 0 with drawn := n })) base).modUnit 0 (fun u =>
      { u with bins := [{ bin1 with waiting := some 0 }] }) with clock := 10000000 }
theorem witness_dissolution_mark : full.reports = [] ∧ (match full.group? 0 0, full.unit? 0 with
    | some g, some u => !g.front.priv && decide (u.ageLimit full ≤ full.clock - g.drawn) && decide (g.uid = 0) &&
        (List.range 32).all (fun n => match full.group? 0 n with
          | some h => !h.marked && (decide (n = 0) || decide (g.drawn < h.drawn))
          | none => true)
    | _, _ => false) = true ∧ (takenSlots full 0).length = 32 ∧ binWaited full 0 = true := by decide +kernel
def markedGroup : State := base.modGroup 0 0 (fun g => { g with marked := true })
theorem witness_group_dissolve : (match markedGroup.group? 0 0 with
    | some g => g.marked && decide (g.front.j = 0) && !g.front.priv && decide (g.front.hold = none) && decide (g.members ≠ []) &&
        (markedGroup.unit? g.uid).isSome
    | none => false) = true := by decide +kernel

/-- A node that may start its one cohort of one unit. -/
def starting : State :=
  modLaunch { (base.setUnit 0 none).setGroup 0 0 none with clock := 5 } 0 0 (fun l => { l with
    cohorts := 0, readyAt := some 0, home := none, obj := { l.obj with st := .pending } })
theorem witness_cohort_start : starting.reports = [] ∧ (match leastBy (startKey starting) (startable starting) with
    | some x => decide (x.again = none ∧ x.clusters = [0]) && decide (launchOf starting x.func x.idx = some x.slot) &&
        xFree starting 0 0 x.slot.rcd.xbytes && decide ((starting.cluster 0).lastServed = none ∨ (starting.cluster 0).lastServed = some 0) &&
        decide ((starting.func 0).savedClusters = []) && !(starting.func 0).torn
    | none => false) = true := by decide +kernel
-- R192: the unit stands on core 0 with 32 threads.
theorem test_cohort_start : after (exec (.cohortStart [0]) starting) (fun t =>
    decide ((t.unit? starting.nextUid).map (fun u => (u.core, u.nthreads, u.cohort)) = some (0, 32, 0))) = true := by decide +kernel
def allExited : State := base.modUnit 0 (fun u => { u with
  threads := (List.range 32).map (fun i => (i, { Thread.start with exited := true })) })
theorem witness_unit_complete : (match allExited.unit? 0 with
    | some u => decide (u.live = []) && !u.stopping && !u.relaunchDue && enginesIdle allExited 0 u && decide (u.buffer = [] ∧ allExited.sent = []) && (launchOf allExited 0 0).isSome &&
        !(allExited.cluster 0).turning
    | none => false) = true := by decide +kernel
def ctxExiting : State := base.setCtx 0 0 (some { placeCtx with exiting := true })
theorem witness_context_end : (match ctxExiting.ctx? 0 0 with
    | some c => c.exiting && !c.ended && decide (c.tl.i = c.tl.c) && !(ctxExiting.cluster 0).turning
    | none => false) = true := by decide +kernel
def unitsDone : State := modLaunch ((base.setUnit 0 none).setGroup 0 0 none) 0 0 (fun l => { l with unitsDone := 1 })
theorem witness_launch_complete : (match launchOf unitsDone 0 0 with
    | some l => !l.obj.ended && decide (l.obj.cancelAt = none) && decide (l.unitsDone = l.rcd.units) &&
        decide (ctxsOfLaunch unitsDone 0 0 = []) && decide ((unitsDone.func 0).savedCtxs = [])
    | none => false) = true := by decide +kernel

-- Commands.

/-- Function 2 of `fabric`, whose queue of 64 entries at 0x10000 holds the one entry `b`. -/
def queued (b : List Byte) (s : State := fabric) : State :=
  { s.modFunc 2 (fun x => { x with cqbase := 0x10000, cqen := true, cqlog2n := 6, cqtail := 1 }) with
    mem := NatMap.setRange 0 s.mem 0x10000 b }
def command (opc irq : Nat) (a0 a1 a2 : DWord) : List Byte :=
  leBytes 1 opc ++ leBytes 1 irq ++ leBytes 14 0 ++ leBytes 8 a0.toNat ++ leBytes 8 a1.toNat ++ leBytes 8 a2.toNat ++ leBytes 24 0
def readOf (s : State) : State := (readHead s 2).2
def headB (s : State) (b : List Byte) : Bool :=
  let s1 := readOf s
  decide (s.reports = []) && decide (s1.reports = []) && accepts s 2 && decide ((readHead s 2).1 = some (0x10000, b)) &&
    decide (pendingEntries { s.func 2 with cqhead := ((s.func 2).cqhead + 1) % 65536 } = 0) &&
    tablesB s1 2 && keyedB s1 0x10008 0 && decide (homeOf s1 0x10008 < 4) && keyedB s1 0x10004 0 && decide (homeOf s1 0x10004 < 4) &&
    s1.dir.all (fun p => decide (p.2.st ≠ .u)) && decide (accErr s1 0x10008 0 = none ∧ accErr s1 0x10004 0 = none) && roomB s1
theorem head_of {s : State} {b : List Byte} (h : headB s b = true) :
    AtHead s (readOf s) 2 0x10000 b ⟨0x10008, 0, false⟩ ⟨0x10004, 0, false⟩ := by
  simp only [headB, Bool.and_eq_true, decide_eq_true_eq] at h
  obtain ⟨⟨⟨⟨⟨⟨⟨⟨⟨⟨⟨⟨h1, h2⟩, h3⟩, h4⟩, h5⟩, h6⟩, h7⟩, h8⟩, h9⟩, h10⟩, h11⟩, h12⟩, h13⟩ := h
  have clear : ∀ a, 0x1000 ≤ a → a < 0x4008 → ¬ (bytesAt 0x10008 8 a ∨ bytesAt 0x10004 4 a) := by
    rintro a - h (⟨h', -⟩ | ⟨h', -⟩) <;> omega
  exact ⟨h1, h2, h3, by decide, Prod.ext h4 rfl, h5, maps_of h6 (by decide) clear h7 h8 h12.1,
    maps_of h6 (by decide) clear h9 h10 h12.2,
    fun sec => of_decide_eq_true (dir_all (fun e => decide (e.st ≠ .u)) ⟨by decide, h11⟩ sec), l2room_of h13⟩
theorem witness_cqtail : fabric.reports = [] ∧ fabric.boot.state = 1 ∧ funcExists fabric 2 = true := by decide +kernel
/-- Function 2 has collapsed, or is at the end of its collapse. -/
def asleep (w : WakeState) : State := fabric.modFunc 2 (fun x => { x with wake := w })
theorem witness_cqtail_wake : ((asleep .collapsed).func 2).wake = .collapsed ∧ ((asleep .collapsed).func 2).torn = false ∧
    ((asleep .collapsing).func 2).wake = .collapsing ∧ ((asleep .collapsing).func 2).merging = false ∧ collapseLeft (asleep .collapsing) 2 = [] := by decide +kernel
/-- A live object of generation 1 in its slot 0. -/
def liveObj : Obj := { placeLaunch.obj with gen := 1, st := .running }
/-- The boundaries of an unassigned opcode: 0 and 9. -/
def unassigned (n : Nat) : List Byte := command n 1 0 0 0
theorem witness_cqtail_unassigned : headB (queued (unassigned 9)) (unassigned 9) = true ∧ fld (unassigned 9) 0 1 = 9 ∧
    headB (queued (unassigned 0)) (unassigned 0) = true ∧ fld (unassigned 0) 0 1 = 0 := by decide +kernel
def unrung : State := (queued (unassigned 9)).modFunc 2 (fun x => { x with cqtail := 0 })
def rung : State := (hostDoorbell unrung).modFunc 2 (fun x => { x with
  cqtail := (bits (1 : BitVec 32) 0 16).toNat, idleSince := unrung.clock
  drained := x.begun.isSome && (bits (1 : BitVec 32) 0 16).toNat % 2 ^ x.cqlog2n == x.cqhead % 2 ^ x.cqlog2n })
theorem witness_cqtail_before : unrung.reports = [] ∧ unrung.boot.state = 1 ∧ (unrung.func 2).wake = .awake ∧
    pendingEntries (rung.func 2) ≠ 0 ∧ headB rung (unassigned 9) = true := by decide +kernel
theorem test_cqtail : after (exec (.cqtailWrite 2 1) unrung) (fun t => decide (homeBytes t 0x10004 2 = [1, 3] ∧ (t.func 2).cqhead = 1))
    = true := by decide +kernel
/-- JOB with a byte that must be 0. -/
def badJob : List Byte := command 1 0 1 0 0
theorem witness_bad_command : headB (queued badJob) badJob = true ∧ (Instr.job 2, 1) ∈ commandsOf 2 ∧ fld badJob 0 1 = 1 ∧
    entryOk badJob = false := by decide +kernel
def cmdAt (opc : Nat) (a0 a1 a2 : DWord) (s : State := fabric) : Bool :=
  headB (queued (command opc 1 a0 a1 a2) s) (command opc 1 a0 a1 a2) && entryOk (command opc 1 a0 a1 a2) &&
    decide (fld (command opc 1 a0 a1 a2) 0 1 = opc)
def noObject (opc : Nat) (a0 a1 : DWord) : Bool :=
  cmdAt opc a0 a1 0 && (match lookupHandle (readOf (queued (command opc 1 a0 a1 0))) 2 a0 with
    | .live .. => false
    | _ => true)
theorem witness_bad_handle : noObject 5 (handleOf .job 1 0) 0 = true ∧ noObject 6 (handleOf .job 1 0) 0 = true ∧
    noObject 8 (handleOf .job 1 0) 0 = true ∧ noObject 8 (handleOf .job 1 0) 1 = true ∧ noObject 2 (handleOf .job 1 0) 0 = true ∧
    noObject 3 (handleOf .phase 1 0) 0x10400 = true ∧ noObject 4 (handleOf .job 1 0) 0 = true := by decide +kernel
theorem witness_job : cmdAt 1 0 0 0 = true ∧ firstFree (readOf (queued (command 1 1 0 0 0))) 2 .job = some 0 := by decide +kernel
/-- Every job slot holds a live job. -/
def noSlot : State :=
  fabric.modFunc 2 (fun x => { x with jobs := (List.range (tableLen .job)).map (fun n => (n, some { placeLaunch.obj with gen := 1, st := .running })) })
theorem witness_job_waits : cmdAt 1 0 0 0 noSlot = true ∧ firstFree (readOf (queued (command 1 1 0 0 0) noSlot)) 2 .job = none ∧
    ((queued (command 1 1 0 0 0) noSlot).func 2).begun = none := by decide +kernel
-- R304, R307: the first job is generation 1 of slot 0.
theorem test_job : after (exec (.job 2) (queued (command 1 1 0 0 0))) (fun t =>
    decide ((objOf t 2 .job 0).map (fun o => (o.gen, o.st)) = some (1, .running)) && decide ((t.func 2).cqhead = 1)) = true := by
  decide +kernel
def withJob : State := fabric.modFunc 2 (fun x => { x with jobs := [(0, some liveObj)] })
def withPhase : State := withJob.modFunc 2 (fun x => { x with phases := [(0, some ⟨liveObj, 1⟩)] })
def openB (s : State) (b : List Byte) (lv : Level) : Bool :=
  match lookupHandle (readOf (queued b s)) 2 (argOf b 0) with
  | .live l i o => decide (l = lv ∧ i = 0) && !o.ended && !o.closed && decide (o.cancelAt = none)
  | _ => false
theorem witness_phase : cmdAt 2 (handleOf .job 1 0) 0x700000005 0 withJob = true ∧
    openB withJob (command 2 1 (handleOf .job 1 0) 0x700000005 0) .job = true ∧
    firstFree (readOf (queued (command 2 1 (handleOf .job 1 0) 0x700000005 0) withJob)) 2 .phase = some 0 := by decide +kernel
theorem witness_close : cmdAt 4 (handleOf .job 1 0) 0 0 withJob = true ∧ openB withJob (command 4 1 (handleOf .job 1 0) 0 0) .job = true := by
  decide +kernel
theorem witness_cancel : cmdAt 5 (handleOf .job 1 0) 0 0 withJob = true ∧ openB withJob (command 5 1 (handleOf .job 1 0) 0 0) .job = true := by
  decide +kernel
theorem witness_wait : cmdAt 6 (handleOf .job 1 0) 0 0 withJob = true ∧ openB withJob (command 6 1 (handleOf .job 1 0) 0 0) .job = true := by
  decide +kernel
-- The range lies just above the queue's page.
theorem witness_inval : cmdAt 7 0x11000 0x1000 0 = true ∧
    NatMap.wf [] (readOf (queued (command 7 1 0x11000 0x1000 0))).tlbs = true ∧ 0x10000 / 4096 * 4096 < 0x11000 := by decide +kernel
def invalidating : State := { fabric with invals := [⟨7, 2, 0, 0x11000, 0x12000, [], 2, 0x10000, true⟩] }
theorem witness_inval_complete : invalidating.reports = [] ∧ invalidating.invals.find? (fun x => x.id == 7) =
      some ⟨7, 2, 0, 0x11000, 0x12000, [], 2, 0x10000, true⟩ ∧ invalDone invalidating ⟨7, 2, 0, 0x11000, 0x12000, [], 2, 0x10000, true⟩ = true ∧
    Maps invalidating 2 .write (0x10000 + 4) ⟨0x10004, 0, false⟩ (bytesAt 0x10004 4) ∧ (∀ sec, (dirOf invalidating sec).st ≠ .u) ∧
    invalidating.faults = [] ∧ L2Room invalidating 0 :=
  ⟨by decide +kernel, by decide +kernel, by decide +kernel, maps_of (by decide +kernel) (by decide)
    (by rintro a - h ⟨h', -⟩; omega) (by decide +kernel) (by decide +kernel) (by decide +kernel), not_merged (by decide +kernel), by decide +kernel, l2room_of (by decide +kernel)⟩
/-- A graph of one node at 0x10400 with its record at 0x10500: one unit of 32 threads at 0x8000. -/
def graphBytes : List Byte :=
  leBytes 32 1 ++ leBytes 8 0x10500 ++ leBytes 4 9
def launchBytes : List Byte :=
  leBytes 24 0x8000 ++ leBytes 4 1 ++ leBytes 4 1 ++ leBytes 4 1 ++ leBytes 2 32 ++ leBytes 2 32
def withGraph : State :=
  { withPhase with mem := NatMap.setRange 0 (NatMap.setRange 0 withPhase.mem 0x10400 graphBytes) 0x10500 launchBytes }
theorem witness_graph : cmdAt 3 (handleOf .phase 1 0) 0x10400 0 withGraph = true ∧
    openB withGraph (command 3 1 (handleOf .phase 1 0) 0x10400 0) .phase = true ∧
    (match readGraph 2 0x10400 (readOf (queued (command 3 1 (handleOf .phase 1 0) 0x10400 0) withGraph)) with
     | (.inr nodes, s2) => decide (nodes.length = 1) && decide (nodes.foldl (fun n x => n + x.regions.length) 0 ≤ 4096) &&
        (createGraph s2 2 0 0x10000 0x10400 true nodes).isSome
     | _ => false) = true := by decide +kernel

-- Work objects and answers.

def node (f : LaunchSlot → LaunchSlot) : State := modLaunch base 0 0 f
def nodeB (s : State) (f : LaunchSlot → Bool) : Bool :=
  decide (s.reports = []) && (match launchOf s 0 0 with
    | some l => f l
    | none => false)
-- The node waits for its one predecessor, the boundary, which has completed.
def afterOne : State :=
  (node (fun l => { l with preds := [(1, 1)], obj := { l.obj with st := .pending } })).modFunc 0 (fun x => { x with
    launches := NatMap.set none x.launches 1 (some { placeLaunch with obj := { liveObj with st := .complete } }) })
theorem witness_node_start : nodeB afterOne (fun l => decide (l.readyAt = none) && !l.obj.ended && decide (l.obj.cancelAt = none) &&
    l.preds.all (fun p => decide (nodeState afterOne 0 p = .complete)) && !l.devlnch) = true := by decide +kernel
theorem test_node_start : after (exec (.nodeStart 0 0) afterOne) (fun t =>
    decide ((launchOf t 0 0).map (fun l => l.readyAt) = some (some afterOne.clock))) = true := by decide +kernel
def cancelledNode : State := node (fun l => { l with obj := { l.obj with cancelAt := some 0 } })
theorem witness_launch_end : nodeB cancelledNode (fun l => !l.obj.ended && l.obj.cancelAt.isSome && launchStopped cancelledNode 0 0)
    = true := by decide +kernel
-- A cancelled phase ends as cancelled and its job, of generation 1, loses a child (R315).
def phaseLost : State :=
  base.modFunc 0 (fun x => { x with
    jobs := [(0, some liveObj)], phases := [(0, some ⟨{ liveObj with closed := true, cancelAt := some 0, parentGen := 1 }, 0⟩)] })
theorem test_phase_lost : after (exec (.workObjectEnd 0 .phase 0) phaseLost) (fun t =>
    decide ((objOf t 0 .phase 0).map (fun o => o.st) = some .cancelled ∧ (objOf t 0 .job 0).map (fun o => o.lost) = some true)) = true := by
  decide +kernel
/-- A closed job whose one phase has ended as complete. -/
def jobOver : State :=
  base.modFunc 0 (fun x => { x with
    jobs := [(0, some { liveObj with closed := true })], phases := [(0, some ⟨{ liveObj with st := .complete, parentGen := 1 }, 0⟩)] })
theorem witness_job_end : jobOver.reports = [] ∧ (match objOf jobOver 0 .job 0 with
    | some o => !o.ended && o.closed && !o.lost && !(o.cancelAt.isSome) && (childrenOf jobOver 0 .job 0).all (fun c => match objOf jobOver 0 c.1 c.2 with
        | some q => decide (q.st = .complete)
        | none => true)
    | none => false) = true ∧ childrenOf jobOver 0 .job 0 = [(.phase, 0)] := by decide +kernel
-- R307, R184: the job ends as complete.
theorem test_job_end : after (exec (.workObjectEnd 0 .job 0) jobOver) (fun t =>
    decide ((objOf t 0 .job 0).map (fun o => o.st) = some .complete)) = true := by decide +kernel
-- A deadline of 3 µs, at the clock of its expiry.
def late : State :=
  { node (fun l => { l with obj := { l.obj with deadline := 3, dlStart := some 0, dlCancel := true } }) with clock := 4200 }
theorem witness_deadline : (objOf late 0 .launch 0).any (fun o => decide (o.deadline ≠ 0 ∧ o.dlStart = some 0) &&
    decide (0 + 1400 * o.deadline ≤ late.clock) && !o.ended && !o.expired) = true := by decide +kernel
def latePhase : State :=
  { base.modFunc 0 (fun x => { x with phases := [(0, some ⟨{ liveObj with deadline := 3, dlStart := some 0 }, 0⟩)] }) with clock := 4200 }
theorem witness_phase_deadline : (objOf latePhase 0 .phase 0).any (fun o => decide (o.deadline ≠ 0 ∧ o.dlStart = some 0) &&
    decide (0 + 1400 * o.deadline ≤ latePhase.clock) && !o.ended && !o.expired) = true := by decide +kernel
def hung : State :=
  { node (fun l => { l with obj := { l.obj with cancelAt := some 0, asked := some 0 } }) with clock := 140000000 }
theorem witness_hang : (objOf hung 0 .launch 0).any (fun o => decide (o.asked = some 0) && !o.ended &&
    decide (140000000 ≤ hung.clock - 0)) = true := by decide +kernel

-- Answers: to a copy, a fetch, a held word and a saved unit.
def faulted (src : FaultSrc) (s : State) : State := { s with faults := [⟨4, 0, 0x5000, 0, 0, 0, 0, 0, 0, 3, true, false, src, none⟩] }
theorem witness_answer_none : base.reports = [] ∧ base.boot.state = 1 ∧ funcExists base 0 = true ∧ base.faults = [] := by decide +kernel
def opFaulted : State := faulted (.op 9) (withOp { cpyX with waiting := some 4 })
theorem witness_answer_op : (answered opFaulted 0 3).isSome = true ∧ (opOf opFaulted 9).isSome = true := by decide +kernel
def fetchFaulted : State :=
  faulted (.agent (.group 0 0) true) (base.modGroup 0 0 (fun g => { g with front := { g.front with hold := some (.fault 4 none) } }))
theorem witness_answer_fetch : (answered fetchFaulted 0 3).isSome = true ∧ (match frontOf fetchFaulted (.group 0 0) with
    | some fr => decide (fr.hold = some (.fault 4 none)) && !fr.priv
    | none => false) = true ∧ agentLaunch fetchFaulted (.group 0 0) = some (0, 0) ∧ (recOf fetchFaulted 0 0).trapentry ≠ 0 := by
  decide +kernel
def wordFaulted : State :=
  faulted (.agent (.group 0 0) false) (base.modGroup 0 0 (fun g => { g with front := { g.front with
    hold := some (.fault 4 (some entryAdd)) } }))
theorem witness_answer_word : (answered wordFaulted 0 3).isSome = true ∧ entryAdd.instr.isSome = true ∧
    (match frontOf wordFaulted (.group 0 0) with
     | some fr => decide (fr.hold = some (.fault 4 (some entryAdd))) && !fr.priv
     | none => false) = true := by decide +kernel
-- The oldest unfinished word of a group stands at a fault.
def standingFault : State :=
  faulted (.agent (.group 0 0) false) (base.modGroup 0 0 (fun g => { g with front := { g.front with
    unfinished := [⟨entryAdd, ⟨0, 0⟩, ArrayReg.reset⟩], hold := some (.standing 4) } }))
theorem witness_answer_standing : (answered standingFault 0 3).isSome = true ∧ (match frontOf standingFault (.group 0 0) with
    | some fr => decide (fr.hold = some (.standing 4)) && !fr.priv && decide (older fr = [entryAdd])
    | none => false) = true ∧ agentLaunch standingFault (.group 0 0) = some (0, 0) ∧ (recOf standingFault 0 0).trapentry ≠ 0 := by
  decide +kernel
-- R234: DELIVER raises 0x19 for a fetch.
theorem test_deliver_fetch : after (exec (.fanswerDeliver 0 3) fetchFaulted) (fun t => match frontOf t (.group 0 0) with
      | some fr => decide (fr.xcause.setWidth 8 = 0x19#8) && fr.priv
      | none => false) = true := by decide +kernel
-- Of a saved unit or context that stands no more, and of a saved context that stands.
theorem witness_answer_gone : (answered (faulted (.saved 0 0 0) base) 0 3).isSome = true ∧ (base.func 0).saved = [] ∧
    (base.func 0).savedCtxs = [] := by decide +kernel
def ctxAway : State := faulted (.saved 0 (2 ^ 32) 0) (base.modFunc 0 (fun x => { x with savedCtxs := [⟨0, 0, 0x20000, 4096, false, placeCtx⟩] }))
theorem witness_answer_saved : (answered ctxAway 0 3).isSome = true ∧
    (∃ c ∈ (ctxAway.func 0).savedCtxs, 2 ^ 32 + 8 * c.cluster + c.ctx = 2 ^ 32) := by
  refine ⟨by decide +kernel, ⟨0, 0, 0x20000, 4096, false, placeCtx⟩, ?_, by decide⟩
  decide +kernel

-- Pre-emption.

/-- Cluster 1 of partition 3 serves function 2; function 4 is enabled beside it. -/
def slices (clock : Nat) : State :=
  { fabric.modFunc 2 (fun x => { x with savebase := 0x10000, savesize := 0x1000 }) with
    fcfg := [(2, { Fcfg.reset with en := true, part := 3, keyhi := 1, s2root := 0x1000 }),
      (4, { Fcfg.reset with en := true, part := 3, keyhi := 1, s2root := 0x1000 })]
    clusters := [(1, { ClusterSt.reset with serving := some 2, lastServed := some 2, w := [(5, 7)] })], clock := clock }
def sliceB (s : State) : Bool :=
  decide (s.reports = []) && decide ((s.cluster 1).serving = some 2) && (partOfCluster s 1).isSome && !(s.cluster 1).turning &&
    (sliceOver s 2 1 || !hasCohort s 2 1)
-- Function 2 has no cohort, and at 2,000 µs its slice is over.
theorem witness_slice_renewed : sliceB (slices 0) = true ∧ nextFunc (slices 0) 2 1 = none := by decide +kernel
/-- Function 4 has a node that may start. -/
def contended (clock : Nat) : State :=
  (slices clock).modFunc 4 (fun x => { x with launches := [(0, some { placeLaunch with
    cohorts := 0, readyAt := some 0, home := none, obj := { placeLaunch.obj with st := .pending } })] })
theorem witness_slice_passes : sliceB (contended 2800000) = true ∧ nextFunc (contended 2800000) 2 1 = some 4 ∧
    holdsOn (contended 2800000) 2 1 = false ∧ clearable ((contended 2800000).cluster 1) = true ∧
    ((contended 2800000).cluster 1).lastServed = some 2 ∧ (∀ i ∈ ((contended 2800000).func 4).savedClusters, i.cluster ≠ 1) ∧
    sliceOver (contended 2800000) 2 1 = true := by decide +kernel
theorem test_slice_passes : after (exec (.tenantSliceEnd 1) (contended 2800000)) (fun t =>
    decide ((t.cluster 1).serving = some 4 ∧ (t.cluster 1).w = []) &&
      decide ((t.func 2).savedClusters = [⟨1, 0x10000, 112⟩] ∧ homeBytes t (0x10000 + 104) 8 = [5, 0, 0, 0, 7, 0, 0, 0])) = true := by decide +kernel
def tenantUnit : Unit_ := { placeUnit with func := 2, core := 4 }
def occupied : State := (((contended 2800000).setUnit 0 none).setGroup 0 0 none).setUnit 3 (some tenantUnit)
theorem units_one {s : State} (uid : Nat) {u : Unit_} (h : s.units = [(uid, some u)]) (P : Unit_ → Prop) (hp : P u) :
    ∀ n v, s.unit? n = some v → P v := by
  intro n v hv
  simp only [State.unit?, h, NatMap.get] at hv
  split at hv
  · cases hv; exact hp
  · cases hv
theorem witness_slice_decides : sliceB occupied = true ∧ nextFunc occupied 2 1 = some 4 ∧ occupied.unit? 3 = some tenantUnit ∧
    Undecided tenantUnit :=
  ⟨by decide +kernel, by decide +kernel, by decide +kernel, by decide +kernel, by decide +kernel, by decide +kernel⟩
theorem witness_slice_undecided : ∀ n v, occupied.unit? n = some v → Undecided v :=
  units_one 3 (by decide +kernel) Undecided witness_slice_decides.2.2.2
def draining : State := { base.modUnit 0 (fun u => { u with drain := some 5 }) with clock := 5 }
theorem witness_drain : (match draining.unit? 0 with
    | some u => decide (u.drain = some 5) && !u.stopping && !u.relaunchDue && decide (u.saveBy = none ∧ restartMark u = none)
    | none => false) = true := by decide +kernel
-- Its 32 threads stand in one region: between runs, and in the middle of one.
def restarting (j : Nat) : State :=
  { (base.modUnit 0 (fun u => { u with
      drain := some 5, threads := (List.range 32).map (fun i => (i, { Thread.start with mark := some 0x8000 })) })).modGroup 0 0
      (fun g => { g with front := { g.front with j := j } }) with clock := 5 }
theorem witness_drain_restart : [(0, true), (1, false)].all (fun c => match (restarting c.1).unit? 0 with
    | some u => decide (u.drain = some 5) && !u.stopping && !u.relaunchDue && decide (u.saveBy = none) &&
        decide (restartable (restarting c.1) 0 u = some 0x8000) && decide (betweenRuns (restarting c.1) 0 u = c.2) &&
        (unitGroups (restarting c.1) 0 u.core).all (fun g => !g.2.front.faulted)
    | none => false) = true := by decide +kernel
-- A unit of no bytes of X and one thread, in whose function's save area an image of 1,248 bytes has room.
def saveUnit1 : Unit_ := { placeUnit with nthreads := 1, regs := 0, xbytes := 0, saveBy := some 5 }
def saving (u : Unit_) : State :=
  { ((base.setGroup 0 0 none).setUnit 0 (some u)).modFunc 0 (fun x => { x with savebase := 0x10000, savesize := 0x1000 }) with clock := 5 }
theorem settled_saving : Settled (saving saveUnit1) :=
  settled_of (by decide +kernel)
theorem witness_unit_save : (saving saveUnit1).unit? 0 = some saveUnit1 ∧ saveUnit1.restarts = false ∧
    saveStands (saving saveUnit1) saveUnit1 = true ∧ savable (saving saveUnit1) 0 saveUnit1 = true ∧
    saveForced (saving saveUnit1) saveUnit1 = false ∧ unitSlots (saving saveUnit1) 0 = [] ∧ (saving saveUnit1).engineOps = [] ∧
    saveUnit1.bins = [] ∧ saveUnit1.threads = [] ∧ ((saving saveUnit1).cluster 0).turning = false := by decide +kernel
theorem witness_unit_save_room : let s := (saving saveUnit1).setUnit 0 (some saveUnit1)
    let b := unitImage s { saveUnit1 with drain := none, saveBy := none } 0 none [] []
    placeImage s 0 b.length = some 0x10000 ∧ (deviceWrite s 0 0x10000 b).1 = none := by decide +kernel
/-- One of its two threads has arrived at the barrier. -/
def forcedUnit : Unit_ := { saveUnit1 with
  nthreads := 2, arrived := [0], parked := [⟨[0], [], 0x8000, .bar, 0⟩], bins := [⟨⟨0x8000, none⟩, [1], [], 0, false, false, none, none⟩] }
theorem witness_forced_save : saveStands (saving forcedUnit) forcedUnit = true ∧ savable (saving forcedUnit) 0 forcedUnit = true ∧
    saveForced (saving forcedUnit) forcedUnit = true ∧ forcedUnit.restarts = false ∧ unitSlots (saving forcedUnit) 0 = [] ∧
    (saving forcedUnit).engineOps = [] ∧ (∀ x ∈ forcedUnit.bins, x.spilled = false) := by decide +kernel
theorem settled_forced : Settled (saving forcedUnit) := settled_of (by decide +kernel)
theorem witness_forced_room : let s := (saving forcedUnit).setUnit 0 (some forcedUnit)
    let b := unitImage s { forcedUnit with drain := none, saveBy := none, atFault := false } 2 none [] []
    placeImage s 0 b.length = some 0x10000 ∧ (deviceWrite s 0 0x10000 b).1 = none := by decide +kernel
/-- Its threads stand in no region any more. -/
def lostUnit : Unit_ := { saveUnit1 with restarts := true }
theorem witness_restart_lost : (saving lostUnit).unit? 0 = some lostUnit ∧ saveStands (saving lostUnit) lostUnit = true ∧
    savable (saving lostUnit) 0 lostUnit = true ∧ restartable (saving lostUnit) 0 lostUnit = none := by decide +kernel
def ctxSaving : State :=
  (base.setCtx 0 0 (some { placeCtx with saveBy := some 0 })).modFunc 0 (fun x => { x with savebase := 0x10000, savesize := 0x1000 })
theorem witness_context_save : (match ctxSaving.ctx? 0 0 with
    | some c => c.saveBy.isSome && !c.ended && !c.exiting && decide (c.tl.i = c.tl.c) && c.front.atBoundary &&
        !(ctxSaving.cluster 0).turning && decide (placeImage ctxSaving 0 (ctxImage ctxSaving { c with saveBy := none } 0 0).length
          = some 0x10000) && decide ((deviceWrite ctxSaving 0 0x10000 (ctxImage ctxSaving { c with saveBy := none } 0 0)).1 = none)
    | none => false) = true := by decide +kernel
def savedCtx : SavedCtx := ⟨0, 0, 0x10000, 664, false, placeCtx⟩
/-- Its image (R330), the CRC computed outside. -/
def ctxStored : State :=
  { base.modFunc 0 (fun x => { x with savedCtxs := [savedCtx] }) with mem := base.mem ++
    [(65536, 49), (65537, 73), (65538, 83), (65539, 71), (65540, 1), (65544, 1), (65548, 152), (65549, 2), (65556, 1), (65559, 16),
     (65572, 192), (65573, 180), (65574, 104), (65575, 18), (66113, 128)] }
theorem witness_context_restore : cohortImages ctxStored 0 0 0 = [] ∧ cohortCtxs ctxStored 0 0 0 = [savedCtx] ∧
    placesFree ctxStored 0 0 0 0 [] [savedCtx] = true ∧ ctxStored.faults = [] ∧ (ctxStored.func 0).savedClusters = [] ∧
    (ctxStored.func 0).torn = false ∧ (∀ q ∈ (ctxStored.func 0).cmds, q.opc ≠ 8) := by decide +kernel
theorem witness_context_load : (match (loadCtx 0 savedCtx ctxStored).1 with
    | .inr _ => true
    | .inl _ => false) = true := by decide +kernel
-- What the images of a context and of a cluster may hold, at the bounds.
theorem witness_context_image : placeCtx.park = none ∧ NatMap.wf 0 [(63, (1 : DWord))] = true ∧ NatMap.wf 0 [(65535, (1 : Byte))] = true ∧
    placeCtx.tl.i < 2 ^ 64 := by decide +kernel
theorem witness_cluster_image : NatMap.wf 0 [(4194303, (7 : Byte))] = true ∧ NatMap.wf 0 [(2097151, (7 : Byte))] = true ∧
    (∀ e ∈ [(⟨0, 4194304, .sealed, 0, none, false⟩ : SealEntry)], e.refs = 0 ∧ e.owner = none ∧ e.start < 2 ^ 64 ∧ e.len < 2 ^ 64) := by
  decide +kernel

-- An image of that unit (R330), its CRC computed outside.
def imageMem : NatMap Byte :=
  [(65536, 0x31), (65537, 0x49), (65538, 0x53), (65539, 0x47), (65540, 1), (65548, 0xE0), (65549, 4), (65556, 1), (65559, 16),
   (65572, 0x88), (65573, 0x59), (65574, 0x48), (65575, 0xFB), (65576, 1)]
def imageBytes : List Byte :=
  [0x31, 0x49, 0x53, 0x47, 1, 0, 0, 0, 0, 0, 0, 0, 0xE0, 4, 0, 0, 0, 0, 0, 0, 1, 0, 0, 16, 0, 0, 0, 0, 0, 0, 0, 0, 0, 0, 0, 0,
   0x88, 0x59, 0x48, 0xFB, 1] ++ List.replicate (71 * 17) 0
def savedUnit1 : SavedUnit :=
  { id := 0, addr := 0x10000, size := 1248, how := 0, launch := 0, index := 0, cohort := 0, core := 0, xoff := 0, xbytes := 0
    bySwitch := false, rest := { saveUnit1 with saveBy := none }, groups := [], ops := [], seals := [], barriers := [], queues := [] }
def unitSaved : State :=
  { ((saving saveUnit1).setUnit 0 none).modFunc 0 (fun x => { x with saved := [savedUnit1] }) with mem := base.mem ++ imageMem }
-- zlib gives the same CRC-32 of these bytes.
theorem test_crc : crc32 (imageBytes.drop 40) = 0xFB485988 := by decide +kernel
theorem image_header : headerHolds savedUnit1 imageBytes = true := by decide +kernel
theorem image_counts : countsHold savedUnit1 imageBytes = true := by decide +kernel
theorem image_members : membersHold (readImage savedUnit1 imageBytes) = true := by decide +kernel
theorem image_intervals : intervalsHold (readImage savedUnit1 imageBytes) = true := by decide +kernel
theorem witness_image : checkImage savedUnit1 imageBytes = .inr (readImage savedUnit1 imageBytes) ∧
    (readImage savedUnit1 imageBytes).groups = [] ∧ (readImage savedUnit1 imageBytes).ops = [] :=
  ⟨by simp only [checkImage, image_header, image_counts, image_members, image_intervals, Bool.not_true, Bool.false_eq_true, if_false],
    by decide +kernel, by decide +kernel⟩
theorem witness_unit_restore : cohortImages unitSaved 0 0 0 = [savedUnit1] ∧ cohortCtxs unitSaved 0 0 0 = [] ∧
    placesFree unitSaved 0 0 0 0 [savedUnit1] [] = true ∧ (unitSaved.func 0).savedClusters = [] ∧ (unitSaved.func 0).torn = false ∧ unitSaved.faults = [] ∧ (unitSaved.func 0).cmds = [] := by decide +kernel
theorem witness_unit_restore_read : (deviceRead 0 1248 unitSaved 0x10000).1 = some imageBytes := by decide +kernel

-- CTXSW.
theorem witness_ctxsw_nothing : cmdAt 8 (handleOf .job 1 0) 0 0 withJob = true ∧ cmdAt 8 (handleOf .job 1 0) 1 0 withJob = true ∧
    openB withJob (command 8 1 (handleOf .job 1 0) 0 0) .job = true ∧
    launchesUnder (readOf (queued (command 8 1 (handleOf .job 1 0) 0 0) withJob)) 2 (handleOf .job 1 0) = [] := by decide +kernel
/-- The job holds a phase, a graph and a launch, with a unit. -/
def withUnit : State :=
  (withPhase.modFunc 2 (fun x => { x with
    phases := [(0, some ⟨{ liveObj with parentGen := 1 }, 1⟩)], graphs := [(0, some ⟨{ liveObj with parentGen := 1 }, [0]⟩)]
    launches := [(0, some { placeLaunch with obj := { liveObj with parentGen := 1 } })] })).setUnit 0 (some tenantUnit)
theorem witness_ctxsw_save : cmdAt 8 (handleOf .job 1 0) 0 0 withUnit = true ∧
    openB withUnit (command 8 1 (handleOf .job 1 0) 0 0) .job = true ∧
    launchesUnder (readOf (queued (command 8 1 (handleOf .job 1 0) 0 0) withUnit)) 2 (handleOf .job 1 0) = [0] ∧
    (readOf (queued (command 8 1 (handleOf .job 1 0) 0 0) withUnit)).units = [(0, some tenantUnit)] := by decide +kernel
def heldImage : State :=
  (withUnit.setUnit 0 none).modFunc 2 (fun x => { x with saved := [{ savedUnit1 with bySwitch := true }] })
theorem witness_ctxsw_resume : cmdAt 8 (handleOf .job 1 0) 1 0 heldImage = true ∧
    openB heldImage (command 8 1 (handleOf .job 1 0) 1 0) .job = true ∧
    launchesUnder (readOf (queued (command 8 1 (handleOf .job 1 0) 1 0) heldImage)) 2 (handleOf .job 1 0) = [0] := by decide +kernel
def cut : PendCmd := ⟨8, 0x10000, true, handleOf .job 1 0, 0, 0, some 5, none⟩
def cutState : State :=
  { withJob.modFunc 2 (fun x => { x with cmds := [cut], savebase := 0x10000, savesize := 0x1000 }) with clock := 5 }
theorem witness_switch_timeout : cutState.reports = [] ∧ (cutState.func 2).cmds.find? (fun q => q.opc == 8) = some cut ∧
    cut.cutAt = some 5 ∧ launchesUnder cutState 2 cut.handle = [] ∧ cut.recAt = none ∧
    (writeImage cutState 2 (progressRecord cutState 2 cut)).1 = some 0x10000 := by decide +kernel
def relaunchable : State := base.modUnit 0 (fun u => { u with relaunchDue := true })
theorem witness_relaunch : (match relaunchable.unit? 0 with
    | some u => u.relaunchDue && (launchOf relaunchable u.func u.launch).isSome
    | none => false) = true := by decide +kernel
theorem test_relaunch : after (exec (.unitRelaunch 0) relaunchable) (fun t =>
    decide ((launchOf t 0 0).map (fun l => l.relaunch) = some [(0, 0)])) = true := by decide +kernel

-- Tenants.

/-- Function 2 alone in partition 3, whose clusters are 1 and 2, with an idle time of 10 µs and wake class 1; cluster 1 served it
last. -/
def tenant (w : WakeState) (wclass : Nat) (savesize : Nat := 0x1000) : State :=
  { fabric.modFunc 2 (fun x => { x with wake := w, savebase := 0x10000, savesize := savesize }) with
    parts := [(3, { Part.reset with en := true, ppid := 5, lanes := 15, clus := 6, chan := 1 })]
    fcfg := [(2, { Fcfg.reset with en := true, part := 3, keyhi := 1, idle := 10, wclass := wclass, s2root := 0x1000 })]
    clusters := [(1, { ClusterSt.reset with lastServed := some 2, w := [(5, 7)] })], clock := 14000 }
theorem witness_collapse_begin : (tenant .awake 1).reports = [] ∧ ((tenant .awake 1).fcfgOf 2).en = true ∧
    ((tenant .awake 1).fcfgOf 2).idle ≠ 0 ∧ ((tenant .awake 1).func 2).wake = .awake ∧ funcIdle (tenant .awake 1) 2 = true ∧
    ((tenant .awake 1).func 2).idleSince + 1400 * ((tenant .awake 1).fcfgOf 2).idle ≤ (tenant .awake 1).clock ∧
    (tenant .awake 1).sent = [] ∧ (tenant .awake 1).dir = [] := by decide +kernel
theorem sound_of {s : State} (h : (s.cores.all (fun p => decide (p.2.partials = [])) &&
    s.dies.all (fun p => decide (p.2.collectors = []))) = true) (sec : Nat) : SoundParts s sec := by
  simp only [Bool.and_eq_true, List.all_eq_true, decide_eq_true_eq] at h
  have h1 (c : Nat) : (s.core c).partials = [] := get_all (fun k : CoreSt => k.partials = []) rfl h.1 c
  have h2 (d : Nat) : (s.die d).collectors = [] := get_all (fun k : DieSt => k.collectors = []) rfl h.2 d
  refine ⟨fun c p hp => ?_, fun d x p hc _ => ?_⟩
  · simp [partialOf, h1] at hp
  · simp [collectorOf, h2] at hc
theorem tenant_sound (sec : Nat) : SoundParts (tenant .awake 1) sec := sound_of (by decide +kernel) sec
/-- The merge of a collapse, with a partial in core 4, of cluster 1. -/
def mergingNow : State :=
  ((tenant .collapsing 1).modFunc 2 (fun x => { x with merging := true })).modCore 4 (fun c => { c with partials := [(1024, some part1)] })
theorem witness_collapse_merge : mergingNow.reports = [] ∧ (mergingNow.func 2).wake = .collapsing ∧ (mergingNow.func 2).merging = true ∧
    mergingNow.sent = [] ∧ (mergingNow.cluster (4 / 4)).lastServed = some 2 ∧ partialOf mergingNow 4 1024 = some part1 ∧
    mergingNow.dir = [] := by decide +kernel
theorem merging_sound (sec : Nat) : SoundParts ((tenant .collapsing 1).modFunc 2 (fun x => { x with merging := true })) sec :=
  sound_of (by decide +kernel) sec
-- A wake during the merge ends it, and nothing is saved (R300).
theorem test_wake_merge : after (exec (.wakeWrite 2 1) ((tenant .collapsing 1).modFunc 2 (fun x => { x with merging := true }))) (fun t =>
    decide ((t.func 2).wake = .waking ∧ (t.func 2).savedClusters = [] ∧ (t.cluster 1).w = [(5, 7)])) = true := by decide +kernel
/-- The image of cluster 1, of which one byte of W is not 0. -/
def tenantImage : List Byte := clusterImage 2 1 ((tenant .collapsing 1).cluster 1)
def unlisted (s : State) : State :=
  s.modFunc 2 (fun x => { x with savedClusters := x.savedClusters.filter (fun i => i.cluster != 1) })
theorem witness_collapse_image : (tenant .collapsing 1).reports = [] ∧ ((tenant .collapsing 1).func 2).wake = .collapsing ∧
    ((tenant .collapsing 1).func 2).merging = false ∧ collapseLeft (tenant .collapsing 1) 2 = [1] ∧ ((tenant .collapsing 1).func 2).torn = false ∧
    placeImage (unlisted (tenant .collapsing 1)) 2 tenantImage.length = some 0x10000 ∧
    (deviceWrite (unlisted (tenant .collapsing 1)) 2 0x10000 tenantImage).1 = none ∧
    (deviceWrite (unlisted (tenant .collapsing 1)) 2 0x10000 tenantImage).2.reports = [] := by decide +kernel
-- The boundary: the area is smaller than the image by one byte.
theorem witness_collapse_no_room : tenantImage.length = 112 ∧ collapseLeft (tenant .collapsing 1 111) 2 = [1] ∧
    placeImage (unlisted (tenant .collapsing 1 111)) 2 tenantImage.length = none := by decide +kernel
/-- At the end of its collapse, with no cluster left. -/
def collapsedOut (wclass : Nat) : State :=
  { tenant .collapsing wclass with clusters := if wclass = 0 then (tenant .collapsing wclass).clusters else [] }
theorem witness_collapse_complete : (∀ n, n < 2 → (collapsedOut n).reports = [] ∧ ((collapsedOut n).func 2).wake = .collapsing ∧
      ((collapsedOut n).func 2).merging = false ∧ collapseLeft (collapsedOut n) 2 = [] ∧ ((collapsedOut n).fcfgOf 2).en = true ∧ partOfCluster (collapsedOut n) 1 = some 3 ∧
      NatMap.wf .reset (collapsedOut n).fcfg = true ∧ holdsOn (collapsedOut n) 0 1 = false ∧
      ((collapsedOut n).fcfgOf 2).wclass = n) ∧ ((collapsedOut 1).fcfgOf 2).part = 3 := by decide +kernel
theorem fcfg_one {s : State} {g : Fcfg} (h : s.fcfg = [(2, g)]) (i : Nat) (he : (s.fcfgOf i).en = true) : i = 2 := by
  simp only [State.fcfgOf, h, NatMap.get] at he
  split at he
  · rename_i hi; exact hi.symm
  · simp [Fcfg.reset] at he
theorem witness_collapse_alone (n h : Nat) (he : ((collapsedOut n).fcfgOf h).en = true) : h = 2 := fcfg_one rfl h he
theorem test_collapse_image : after (exec (.collapseComplete 2) (tenant .collapsing 1)) (fun t =>
    decide ((t.func 2).savedClusters = [⟨1, 0x10000, 112⟩] ∧ (t.cluster 1).w = [] ∧ (t.func 2).wake = .collapsing)) = true := by
  decide +kernel
theorem test_collapse_complete : after (exec (.collapseComplete 2) (collapsedOut 1)) (fun t =>
    decide ((t.cluster 1).gate = .powerGated ∧ (t.func 2).wake = .collapsed)) = true := by decide +kernel
-- A wake write ends a collapse, or acts once the image under way has been saved; another is ignored.
theorem witness_woken : (∀ w ∈ [WakeState.awake, .waking], ((tenant w 1).func 2).wake ≠ .collapsing ∧
      ((tenant w 1).func 2).wake ≠ .collapsed) ∧ ((tenant .collapsed 1).func 2).torn = false ∧ (tenant .collapsed 1).dir = [] ∧
    ((wakesFrom (tenant .collapsing 1) 2).func 2).torn = false ∧ (wakesFrom (tenant .collapsing 1) 2).reports = [] ∧
    (wakesFrom (tenant .collapsing 1) 2).sent = [] ∧ (wakesFrom (tenant .collapsing 1) 2).dir.all (fun p => decide (p.2.st ≠ .u)) = true := by
  decide +kernel
theorem witness_wake_write : (tenant .collapsed 1).boot.state = 1 ∧ funcExists (tenant .collapsed 1) 2 = true := by decide +kernel
-- The bound of wake class 1 is 300 µs; one clock more is missed.
def waking : State := { tenant .waking 1 with clock := 300 * 1400 + 1 }
theorem witness_wake_end : waking.reports = [] ∧ (waking.func 2).wake = .waking := by decide +kernel
theorem test_wake_end : after (exec (.wakeEnd 2) waking) (fun t => decide ((t.func 2).wmiss = 1)) = true := by decide +kernel
theorem witness_partition_enable : base.reports = [] ∧ base.boot.state = 1 ∧ (base.part 19).en = false ∧
    (1 : BitVec 64).getLsbD 0 = true ∧ (fabric.part 3).en = true := by decide +kernel
def claims : State := { base with parts := [(19, { Part.reset with clus := 3 })] }
-- R341: two clusters are enough.
theorem test_partition_enable : after (exec (.partitionEnable 19 1) claims) (fun t => (t.part 19).en) = true := by decide +kernel
theorem witness_partition_disable : (0 : BitVec 64).getLsbD 0 = false ∧ (fabric.part 3).en = true ∧ funcsOfPart fabric 3 = [2] ∧
    (base.part 3).en = false := by decide +kernel
/-- A value of FCFG: enabled in partition 3, key slots 1 to 2, SLICE 2,000. -/
def fcfgValue : BitVec 512 := BitVec.ofNat 512 (1 + 3 * 2 + 2 ^ 18 + 2 * 2 ^ 28 + 2000 * 2 ^ 384)
theorem witness_function_create : (fcfgOfValue fcfgValue).en = true ∧ (fabric.fcfgOf 512).en = false ∧
    fcfgOk fabric (fcfgOfValue fcfgValue) = true ∧ fcfgOk base (fcfgOfValue fcfgValue) = false := by decide +kernel
theorem witness_function_sound (sec : Nat) : SoundParts fabric sec := sound_of (by decide +kernel) sec
theorem witness_function_disable : (fcfgOfValue 0).en = false ∧ (fabric.fcfgOf 2).en = true := by decide +kernel
theorem witness_key_ctl : (1 : BitVec 64).getLsbD 1 = false ∧ (2 : BitVec 64).getLsbD 1 = true := by decide +kernel
theorem witness_psplit : (∀ q, q < 18 → bits (0 : BitVec 64) (2 * q) 2 ≠ 3 ∧
      (bits (0 : BitVec 64) (2 * q) 2 = bits fabric.psplit (2 * q) 2 ∨ portOwned fabric q = false)) ∧
    bits (3 : BitVec 64) (2 * 0) 2 = 3 ∧ bits (1 : BitVec 64) (2 * 0) 2 ≠ bits fabric.psplit (2 * 0) 2 ∧ portOwned fabric 0 = true := by
  decide +kernel
-- R341: EBCAP below 128 is ignored.
-- A locked register, and one that is not; a reserved answer; a register beyond the window of another function.
theorem witness_register : funcExists fabric 2 = true ∧ (fabric.func 2).cqen = false ∧ fabric.faults = [] ∧
    (3 * 2 ^ 34) / 2 ^ 34 % 4 = 3 := by decide +kernel
-- LIM of the last function on the last die, the last advisory entry, and the last byte of ROUTE; PFEB with an EBCAP below 128.
theorem test_lim : after (exec (.registerWrite ⟨0, 0x120004 + 32 * 512 + 8 * 3, 4, 0xFFFFF⟩) base) (fun t =>
    decide (NatMap.get 0xFFFFF (t.die 3).lim 512 = 0xFFFFF)) = true ∧ (0xFFFF : Nat) < 65536 ∧ (15 : Nat) + 1 ≤ 16 ∧ 5119 + 1 ≤ 5120 := by
  decide +kernel
theorem test_pfeb : after (exec (.registerWrite ⟨0, 0x130140, 8, 127 * 2 ^ 32 + 7⟩) base) (fun t =>
    decide (t.pfebRef = 7 ∧ t.pfebCap = base.pfebCap)) = true := by decide +kernel
theorem test_fanswer_reserved : after (exec (.registerWrite ⟨2, 0x40, 8, 3 * 2 ^ 34⟩) fabric) (fun t => decide (t = fabric)) = true := by
  decide +kernel
theorem test_ebcap : after (exec (.registerWrite ⟨0, 0x100000 + 20, 4, 127⟩) base) (fun t => decide ((t.part 0).ebcap = 128)) = true ∧
    after (exec (.registerWrite ⟨0, 0x100000 + 20, 4, 128⟩) base) (fun t => decide ((t.part 0).ebcap = 128)) = true := by decide +kernel

-- Repair, power and bring-up.

def repairValue (ty : Nat) (t : Nat) : BitVec 128 := BitVec.ofNat 128 (t + ty * 2 ^ 64 + 2 ^ 69)
theorem witness_repair : base.repairStatus ≠ .busy ∧ (∀ ty, ty < 8 → (bits (repairValue ty 0) 64 4).toNat = ty ∧
    (repairValue ty 0).getLsbD 69 = true ∧ (repairValue ty 0).getLsbD 68 = false ∧ bits (repairValue ty 0) 72 56 = 0 ∧
    targetOk ty 0 = true) ∧ sparesUsed base 1 0 < spareCount 1 0 ∧ targetOk 0 (2 ^ 31) = false := by decide +kernel
-- The two spares of a bank are used up.
def noSpare : State := { base with repairMap := [⟨1, 0⟩, ⟨1, 0⟩], softUsed := [0] }
theorem witness_repair_spent : spareCount 1 0 ≤ sparesUsed noSpare 1 0 ∧ (bits (0 : DWord) 0 13).toNat ∈ noSpare.softUsed := by
  decide +kernel
def softening : State := { base with softRow := some 5, repairStatus := .busy }
theorem witness_soft_row : softening.reports = [] ∧ softening.softRow = some 5 ∧ softening.repairStatus = .busy := by decide +kernel
theorem witness_pclr : (BitVec.ofNat 64 (0x10000 + 1)).getLsbD 0 = true ∧ (bits (BitVec.ofNat 64 (0x10000 + 1)) 6 46).toNat * 64 = 0x10000 ∧
    populated 0x10000 = true ∧ (∀ k, k < 4 → (poisonedHere.die k).held.Nodup) := by decide +kernel
theorem test_pclr : after (exec (.pclr (BitVec.ofNat 64 (0x10000 + 1))) poisonedHere) (fun t => decide (t.poison = [])) = true := by
  decide +kernel
theorem witness_attest_go : (BitVec.ofNat 128 (2 ^ 64 + 0x10000)).getLsbD 64 = true ∧ base.attStatus ≠ .busy := by decide +kernel
def attesting (a : Nat) : State := { base with attStatus := .busy, attBuf := a }
theorem witness_attest : (attesting 0x10000).attStatus = .busy ∧ (deviceRead 0 64 (attesting 0x10000) 0x10000).1 = some (leBytes 64 0) ∧
    (deviceRead 0 64 (attesting 0x10000000000) 0x10000000000).1 = none := by decide +kernel
-- R370: while an attestation runs only GO is ignored.
theorem test_attest_busy : after (exec (.attest (BitVec.ofNat 128 (2 ^ 64 + 0x20000))) (attesting 0x10000)) (fun t =>
    decide (t.attAddr = 0x20000 ∧ t.attBuf = 0x10000)) = true := by decide +kernel
theorem witness_recovery : ({ State.reset with boot := ⟨2, 0, 1, false⟩ } : State).boot.state = 2 := rfl
-- Bring-up with an image that step 1 has accepted (R367, R369), and one whose step 6 fails with check 9 (R368).
theorem test_boot : (startUp State.reset ⟨[], 3, 0, [], []⟩ ⟨false, none⟩ 0).boot = ⟨1, 7, 0, false⟩ ∧
    (startUp State.reset ⟨[], 3, 0, [], []⟩ ⟨false, none⟩ 0).rollback = 3 ∧
    (startUp State.reset ⟨[], 3, 0, [], []⟩ ⟨false, some (6, 9)⟩ 0).boot = ⟨3, 5, 9, false⟩ := by decide +kernel
-- FIPS 197, appendix C.3: AES-256 of 00112233445566778899AABBCCDDEEFF.
theorem test_aes : aesEncrypt (roundKeys ((List.range 32).map (BitVec.ofNat 8))) ((List.range 16).map (fun i => BitVec.ofNat 8 (17 * i)))
    = [0x8E, 0xA2, 0xB7, 0xCA, 0x51, 0x67, 0x45, 0xBF, 0xEA, 0xFC, 0x49, 0x90, 0x4B, 0x49, 0x60, 0x89] := by decide +kernel
-- FIPS 202: the first bytes of SHA3-512 of the empty message.
theorem test_sha3 : (leBytes 64 (sha3 []).toNat).take 4 = [0xA6, 0x9F, 0x73, 0xCC] := by decide +kernel
end Sys2Proof.Tests
end

section
/-! The intervals of R59 and R66: what a word's meaning writes to its D field and with which interval, and IWIDEN (R69). -/

namespace Sys2Proof.Proofs.Intervals

open Machine Laws Claims

-- The interval rules of the model are the rows of the table of R66.

theorem clampZ_eq {x lo hi : Int} (h : lo ≤ hi) : clampZ x lo hi = max lo (min x hi) := by
  unfold clampZ; split_ifs <;> omega

theorem clampZ_eq_satBound (x : Int) : clampZ x (-2147483648) 2147483647 = satBound x := clampZ_eq (by decide)

section rules

variable {g : Group} {u : Unit_} {rc : LaunchRec} (iv : NatMap Iv) (o : AOps) (a b d : Iv)

theorem ivAdd_eq_ivSpec : ivAdd (modS o) a b = ivSpec g u rc (.iadd o) a b d := by
  simp only [ivSpec, modS]
  generalize bits o.x 1 2 = m
  obtain rfl | rfl | rfl | rfl : m = 0 ∨ m = 1 ∨ m = 2 ∨ m = 3 := by revert m; decide
  all_goals simp [ivAdd, clampZ_eq_satBound]

theorem ivSub_eq_ivSpec : ivSub (modS o) a b = ivSpec g u rc (.isub o) a b d := by
  simp only [ivSpec, modS]
  generalize bits o.x 1 2 = m
  obtain rfl | rfl | rfl | rfl : m = 0 ∨ m = 1 ∨ m = 2 ∨ m = 3 := by revert m; decide
  all_goals simp [ivSub, clampZ_eq_satBound]

/-- The amount of a shift, read from σ of its second source. -/
theorem litShift_litOf (p : Src) : litShift (litOf p (sigma iv p)) = shiftLit p := by
  cases p <;> simp [litOf, litShift, shiftLit, sigma, Iv.exact]

theorem ivShl_eq_ivSpec : ivShl a (litOf o.s2 (sigma iv o.s2)) = ivSpec g u rc (.shl o) a b d := by
  cases h : shiftLit o.s2 <;> simp [ivShl, ivSpec, litShift_litOf, h]

theorem ivShra_eq_ivSpec : ivShra a (litOf o.s2 (sigma iv o.s2)) = ivSpec g u rc (.shra o) a b d := by
  cases h : shiftLit o.s2 <;> simp [ivShra, ivSpec, litShift_litOf, h]

theorem ivShrl_eq_ivSpec : ivShrl a (litOf o.s2 (sigma iv o.s2)) = ivSpec g u rc (.shrl o) a b d := by
  cases h : shiftLit o.s2 <;> simp [ivShrl, ivSpec, litShift_litOf, h]

/-- The mask that a literal is for an AND: one that is not negative. -/
def maskOf (v : Option Int) : Option Int := v.bind (fun m => if 0 ≤ m then some m else none)

/-- The mask of an AND's source, read from σ. -/
theorem maskOf_litOf (p : Src) : maskOf (litOf p (sigma iv p)) = maskLit p := by
  cases p <;> simp [maskOf, litOf, maskLit, sigma, Iv.exact]

theorem ivAnd_eq_andIv (la lb : Option Int) : ivAnd a b la lb = andIv (maskOf lb) a (andIv (maskOf la) b Iv.top) := by
  cases la <;> cases lb <;> simp only [ivAnd, andIv, maskOf, Option.bind_none, Option.bind_some] <;> split_ifs <;> simp_all

theorem ivAnd_eq_ivSpec : ivAnd (sigma iv o.s1) (sigma iv o.s2) (litOf o.s1 (sigma iv o.s1)) (litOf o.s2 (sigma iv o.s2))
    = ivSpec g u rc (.and o) (sigma iv o.s1) (sigma iv o.s2) d := by
  rw [ivAnd_eq_andIv, maskOf_litOf, maskOf_litOf]; rfl

/-- Beside an immediate the literal S1 of an AND gives nothing new: where it is a mask, the immediate's row holds already. -/
theorem ivAnd_imm_eq_ivSpec (o : IOps) : ivAnd (sigma iv o.s1) (ivImm o) (litOf o.s1 (sigma iv o.s1)) (some o.imm.toInt)
    = ivSpec g u rc (.andWide o) (sigma iv o.s1) b d := by
  have hm : maskOf (some o.imm.toInt) = if 0 ≤ o.imm.toInt then some o.imm.toInt else none := rfl
  rw [ivAnd_eq_andIv, maskOf_litOf, hm]
  cases o.s1 with
  | lit q => by_cases hi : 0 ≤ o.imm.toInt <;> by_cases hq : 0 ≤ q.toInt <;> simp [ivSpec, andIv, maskLit, sigma, ivImm, Iv.exact, hi, hq]
  | _ => rfl

theorem kmovIv_eq_ivSpec : kmovIv o.x a = ivSpec g u rc (.kmov o) a b d := by
  simp only [ivSpec]
  generalize o.x = x
  obtain rfl | rfl | rfl | rfl | rfl | rfl | rfl | rfl :
      x = 0 ∨ x = 1 ∨ x = 2 ∨ x = 3 ∨ x = 4 ∨ x = 5 ∨ x = 6 ∨ x = 7 := by revert x; decide
  all_goals simp [kmovIv, Iv.inside]

theorem specIv_eq_specialIv (n : Nat) : specIv u rc n = specialIv u rc n := by
  by_cases h : n < 13
  · interval_cases n <;> rfl
  · obtain ⟨k, rfl⟩ : ∃ k, n = k + 13 := ⟨n - 13, by omega⟩
    rfl

end rules

-- Uniform operands (check 7 of R44).

theorem differing_of_equal {l : List Nat} {f : Nat → DWord} (h : ∀ m ∈ l, ∀ n ∈ l, f m = f n) : differing l f = [] := by
  cases l with
  | nil => rfl
  | cons a r =>
    simp only [differing, List.filter_eq_nil_iff, bne_iff_ne, ne_eq, Decidable.not_not]
    intro m hm
    exact h m (by simp [hm]) a (by simp)

theorem uniformOr_of_equal {l : List Nat} {f : Nat → DWord} (h : ∀ m ∈ l, ∀ n ∈ l, f m = f n) (s : State) (r : Res) :
    uniformOr l f s r = r := by
  simp [uniformOr, differing_of_equal h]

-- What an undisturbed word of a group sees of it.

/-- What the meaning of word `i` reads of its group, its unit and its launch record in state `s`, with σ of its sources. -/
structure Sees (i : Instr) (s : State) (c : Cap) (g : Group) (u : Unit_) (rc : LaunchRec) : Prop where
  kind : c.kind = .vector
  group : groupOf s c.agent = some g
  unit : unitOf s c.agent = some u
  record : recOf s u.func u.launch = rc
  sigma1 : c.i1 = sigma g.iv ((sources i).getD 0 (.none, .reg 0)).2
  sigma2 : c.i2 = sigma g.iv ((sources i).getD 1 (.none, .reg 0)).2

section group

variable {i : Instr} {s : State} {k sl f l : Nat} {fr : Front} {c : Cap} {g : Group} {u : Unit_}

theorem capture_sigma (hg : s.group? k sl = some g) {w : BitVec 64} (h : capture s (.group k sl) i w fr = some c) :
    c.present = g.members.map Prod.fst ∧ c.i1 = sigma g.iv ((sources i).getD 0 (.none, .reg 0)).2 ∧
      c.i2 = sigma g.iv ((sources i).getD 1 (.none, .reg 0)).2 := by
  simp only [capture, hg, Option.bind_some, Option.map_eq_some_iff] at h
  obtain ⟨u, -, rfl⟩ := h
  exact ⟨rfl, rfl, rfl⟩

theorem present_eq (h : OnGroup i s k sl f l fr c g u) : c.present = g.members.map Prod.fst :=
  (capture_sigma h.group h.operands).1

theorem launch_eq (h : OnGroup i s k sl f l fr c g u) : f = u.func ∧ l = u.launch := by
  have := h.launch
  simp only [agentLaunch, h.group, h.unit, Option.bind_some, Option.map_some, Option.some.injEq, Prod.mk.injEq] at this
  exact ⟨this.1.symm, this.2.symm⟩

theorem tokenAcquire_recOf (s : State) (u : Unit_) (i : Instr) (f l : Nat) : recOf (tokenAcquire s u i) f l = recOf s f l := by
  have hf : (tokenAcquire s u i).funcs = s.funcs := by
    have := congrArg State.funcs (tokenAcquire_frame s u i); simpa using this
  unfold recOf launchOf State.func
  rw [hf]

theorem sees (h : OnGroup i s k sl f l fr c g u) : Sees i (tokenAcquire s u i) c g u (recOf s f l) := by
  obtain ⟨ha, hk, -, -⟩ := capture_group h.operands
  obtain ⟨hg, hu, -, -⟩ := acquired (i := i) h.group h.unit ha
  obtain ⟨-, h1, h2⟩ := capture_sigma h.group h.operands
  obtain ⟨rfl, rfl⟩ := launch_eq h
  exact ⟨hk, by rw [ha]; exact hg, by rw [ha]; exact unitOf_group hg hu, tokenAcquire_recOf _ _ _ _ _, h1, h2⟩

end group

-- What the meanings write.

/-- The word's meaning writes its D field in the active lanes, as a register whose new interval is `N`. -/
def WritesD (i : Instr) (c : Cap) (s : State) (N : Iv) : Prop := ∃ v, bodyOf i c s = .ok (writeT s c (dest i) N v)

section words

variable {i : Instr} {s : State} {c : Cap} {g : Group} {u : Unit_} {rc : LaunchRec}

theorem boundOf_eq (hg : groupOf s c.agent = some g) (p : Src) : boundOf s c p = boundIn g p := by
  cases p <;> simp [boundOf, boundIn, hg]

theorem writesD_of_writeT {N N' : Iv} {v : Nat → Word} (hb : bodyOf i c s = .ok (writeT s c (dest i) N v)) (hN : N = N') :
    WritesD i c s N' := ⟨v, hN ▸ hb⟩

theorem writeD_vector (hk : c.kind = .vector) (d : Nat) (n : Iv) (f : Nat → DWord) (s : State) :
    writeD c d n f s = writeT s c d n (fun m => (f m).setWidth 32) := by
  simp [writeD, hk]

theorem writesD_of_writeS (hk : c.kind = .vector) {o : AOps} (hx : o.x.getLsbD 0 = false) {N N' : Iv} {v : Nat → DWord}
    (hb : bodyOf i c s = writeS c o N v s) (hd : dest i = o.d.toNat) (hN : N = N') : WritesD i c s N' :=
  writesD_of_writeT (hb.trans (by rw [hd, writeS, if_neg (by simp [hk]), if_neg (by rw [hx]; decide)])) hN

theorem writesD_of_writeD (hk : c.kind = .vector) {N N' : Iv} {v : Nat → DWord}
    (hb : bodyOf i c s = .ok (writeD c (dest i) N v s)) (hN : N = N') : WritesD i c s N' :=
  writesD_of_writeT (by rw [hb, writeD_vector hk]) hN

theorem writesD_of_writeCross (hk : c.kind = .vector) (hne : c.active ≠ []) {N N' : Iv} {v : Nat → DWord}
    (hb : bodyOf i c s = .ok (writeCross c (dest i) N v s)) (hN : N = N') : WritesD i c s N' :=
  writesD_of_writeD hk (by rw [hb, writeCross, if_neg hne]) hN

theorem bodyRdspec_unit (hu : unitOf s c.agent = some u) (o : IOps) : bodyRdspec o c s =
    .ok (writeT s c o.d.toNat (specIv u (recOf s u.func u.launch) o.imm.toNat)
      (fun m => BitVec.ofNat 32 (specVal s u (recOf s u.func u.launch) (laneThread s c.agent m) o.imm.toNat))) := by
  simp only [bodyRdspec, hu]

theorem bodyAget_unit (hu : unitOf s c.agent = some u) (o : AOps) : bodyAget o c s =
    .ok (writeT s c o.d.toNat .top (fun _ => agetVal (u.aregAt s.clock (litField o.s1)) o.x)) := by
  simp only [bodyAget, hu]

theorem bodyCvts_unit (hu : unitOf s c.agent = some u) (o : AOps) : ∃ v, bodyCvts o c s = .ok (writeT s c o.d.toNat .top v) := by
  simp only [bodyCvts, hu]
  exact ⟨_, rfl⟩

/-- Integer words with a thread destination (R60 to R65, R67). -/
theorem intWord_writesD (hs : Sees i s c g u rc) (hi : isIntA i = true) (hx : sDestOf .vector i = false) :
    WritesD i c s (ivSpec g u rc i c.i1 c.i2 c.i3) := by
  obtain ⟨hk, -, -, -, h1, h2⟩ := hs
  cases i with
  | iadd o => exact writesD_of_writeS hk hx rfl rfl (ivAdd_eq_ivSpec ..)
  | isub o => exact writesD_of_writeS hk hx rfl rfl (ivSub_eq_ivSpec ..)
  | shl o => exact writesD_of_writeS hk hx rfl rfl (h2 ▸ ivShl_eq_ivSpec g.iv ..)
  | shra o => exact writesD_of_writeS hk hx rfl rfl (h2 ▸ ivShra_eq_ivSpec g.iv ..)
  | shrl o => exact writesD_of_writeS hk hx rfl rfl (h2 ▸ ivShrl_eq_ivSpec g.iv ..)
  | and o => exact writesD_of_writeS hk hx rfl rfl (h1 ▸ h2 ▸ ivAnd_eq_ivSpec g.iv ..)
  | _ => simp [isIntA] at hi <;> exact writesD_of_writeS hk hx rfl rfl rfl

/-- The wide forms (R61). -/
theorem wideWord_writesD (hs : Sees i s c g u rc) (hi : isWideI i = true) :
    WritesD i c s (ivSpec g u rc i c.i1 c.i2 c.i3) := by
  obtain ⟨hk, -, -, -, h1, -⟩ := hs
  cases i with
  | andWide o => exact writesD_of_writeD hk rfl (h1 ▸ ivAnd_imm_eq_ivSpec g.iv ..)
  | _ => simp [isWideI] at hi <;> exact writesD_of_writeD hk rfl rfl

/-- The moves, special registers and index words that write with no lane active too (R18, R67, R68, R70, R73, R107). -/
theorem indexWord_writesD (hs : Sees i s c g u rc) (hi : isIndexWord i = true) (hc : isCrossLane i = false) :
    WritesD i c s (ivSpec g u rc i c.i1 c.i2 c.i3) := by
  obtain ⟨hk, hg, hu, hr, -, -⟩ := hs
  cases i with
  | kmov o => exact writesD_of_writeD hk rfl (kmovIv_eq_ivSpec ..)
  | rdspec o => exact writesD_of_writeT (bodyRdspec_unit hu o) (hr ▸ specIv_eq_specialIv _)
  | klo o => exact writesD_of_writeT rfl (by simp only [ivSpec, boundOf_eq hg]; rfl)
  | khi o => exact writesD_of_writeT rfl (by simp only [ivSpec, boundOf_eq hg]; rfl)
  | sel o => exact writesD_of_writeD hk rfl rfl
  | aget o => exact writesD_of_writeT (bodyAget_unit hu o) rfl
  | _ => simp [isIndexWord, isCrossLane] at hi hc

/-- The cross-lane words, where a lane is active (R74 to R76). -/
theorem crossWord_writesD (hs : Sees i s c g u rc) (hc : isCrossLane i = true) (hne : c.active ≠ [])
    (hb : ∀ o, i = .lbcast o → ∀ m ∈ c.active, ∀ m' ∈ c.active, c.a2 m = c.a2 m') :
    WritesD i c s (ivSpec g u rc i c.i1 c.i2 c.i3) := by
  cases i with
  | lbcast o => exact writesD_of_writeCross hs.kind hne (uniformOr_of_equal (hb o rfl) _ _) rfl
  | _ => simp [isCrossLane] at hc <;> exact writesD_of_writeCross hs.kind hne rfl rfl

/-- A cross-lane word with no lane active writes nothing (R74). -/
theorem crossWord_idle (hc : isCrossLane i = true) (h0 : c.active = []) : bodyOf i c s = .ok s := by
  cases i with
  | lbcast o => exact (uniformOr_of_equal (by simp [h0]) _ _).trans (congrArg Res.ok (if_pos h0))
  | _ => simp [isCrossLane] at hc <;> exact congrArg Res.ok (if_pos h0)

/-- The floating-point words of a 32-bit result (R89, R91 to R100). -/
theorem floatWord_writesD (hi : isFloatWord i = true) : WritesD i c s (ivSpec g u rc i c.i1 c.i2 c.i3) := by
  cases i with
  | _ => simp [isFloatWord] at hi <;> exact writesD_of_writeT rfl rfl

/-- The conversions through a format slot (R101 to R103). -/
theorem slotWord_writesD (hs : Sees i s c g u rc) (hi : isSlotWord i = true) : WritesD i c s (ivSpec g u rc i c.i1 c.i2 c.i3) := by
  cases i with
  | cvts o =>
    obtain ⟨_, hb⟩ := bodyCvts_unit hs.unit o
    exact writesD_of_writeT hb rfl
  | _ => simp [isSlotWord] at hi <;> exact writesD_of_writeT rfl rfl

end words

-- How an undisturbed word ends.

section ending

variable {i : Instr} {s : State} {k sl f l : Nat} {fr : Front} {c : Cap} {g : Group} {u : Unit_}

/-- A performed word whose meaning left the group `g1` and the unit `u1`. -/
theorem finish_ok {s1 : State} {g1 : Group} {u1 : Unit_} (hg : s1.group? k sl = some g1) (hu : s1.unit? g1.uid = some u1)
    (hfr : g1.front = fr) (hs : u1.stopping = false) (hq : Reported s1) :
    ∃ t, finish s (.group k sl) c g1.uid f (.ok s1) = .next t ∧
      t.group? k sl = some { g1 with front := frontAfter fr c } ∧ t.unit? g1.uid = some (unitAfter u1 c) := by
  refine ⟨_, rfl, ?_⟩
  rcases advance_group (c := c) hg hu hfr hs with e | ⟨e0, e⟩
  · rw [e, flushReports_quiet (by exact hq)]
    simp
  · rw [e, flushReports_quiet (by exact hq)]
    simp [hu, unitAfter, e0]

/-- The interval of a k destination, as step 3 of R59 writes it: `old` joins where a present lane was not active. -/
def newIv (c : Cap) (old N : Iv) : Iv := if c.active = c.present then cutTop N else Iv.hull old (cutTop N)

theorem writeIv_eq (hg : s.group? k sl = some g) (ha : c.agent = .group k sl) (hp : c.present = g.members.map Prod.fst)
    (n : Nat) (N : Iv) : writeIv s c (480 + n) N =
      s.setGroup k sl (some { g with iv := ivSet g.iv n (newIv c (ivGet g.iv n) N) }) := by
  have hd : ¬ 480 + n < 480 := by omega
  simp only [writeIv, hd, if_false, ha, State.modGroup_some _ hg, Nat.add_sub_cancel_left, newIv, cutTop, hp]

theorem front_eq (h : OnGroup i s k sl f l fr c g u) : g.front = fr := by
  simpa [frontOf, h.group] using h.front

/-- A word whose meaning writes one interval last, in a state `s1` with the group as it stood and the unit as `u1`. -/
theorem finish_writeIv (h : OnGroup i s k sl f l fr c g u) {s1 : State} {u1 : Unit_} (hg : s1.group? k sl = some g)
    (hu : s1.unit? g.uid = some u1) (hs : u1.stopping = false) (hq : Reported s1) (n : Nat) (N : Iv) :
    ∃ t, finish s (.group k sl) c g.uid f (.ok (writeIv s1 c (480 + n) N)) = .next t ∧
      t.group? k sl = some { g with iv := ivSet g.iv n (newIv c (ivGet g.iv n) N), front := frontAfter fr c } ∧
      t.unit? g.uid = some (unitAfter u1 c) := by
  obtain ⟨ha, -⟩ := capture_group h.operands
  rw [writeIv_eq hg ha (present_eq h)]
  exact finish_ok (g1 := { g with iv := ivSet g.iv n (newIv c (ivGet g.iv n) N) }) (State.group_setGroup_same ..)
    (by simpa using hu) (show g.front = fr from front_eq h) hs hq

-- Lanes of the group's unit.

theorem writeLanes_eq (hg : s.group? k sl = some g) (hu : s.unit? g.uid = some u) (ha : c.agent = .group k sl) (d : Nat)
    (v : Nat → Word) (l : List Nat) : writeLanes s c d (l.map (fun m => (m, v m)))
      = s.setUnit g.uid (some (onLanes (laneThread s c.agent) (fun m x => x.setReg d (v m)) l u)) := by
  unfold writeLanes
  rw [uid_of_group ha hg, State.modUnit_some _ hu, foldl_lanes]

theorem setBounds_eq (hg : s.group? k sl = some g) (hu : s.unit? g.uid = some u) (ha : c.agent = .group k sl) (l : List Nat) :
    setBounds s c l
      = s.setUnit g.uid (some (onLanes (laneThread s c.agent) (fun _ x => { x with bounds := true }) l u)) := by
  unfold setBounds
  rw [uid_of_group ha hg, State.modUnit_some _ hu]
  rfl

theorem onLanes_stopping (T : Nat → Nat) (upd : Nat → Thread → Thread) (l : List Nat) (u : Unit_) :
    (onLanes T upd l u).stopping = u.stopping := by
  have := congrArg Unit_.stopping (onLanes_frame T upd l u); simpa using this

theorem setUnit_reported {x : Option Unit_} {n : Nat} (h : Reported s) : Reported (s.setUnit n x) := h

theorem acquired_reported (h : OnGroup i s k sl f l fr c g u) : Reported (tokenAcquire s u i) :=
  (tokenAcquire_reports s u i).trans h.quiet

/-- The interval after a word whose meaning writes its D field. -/
theorem finish_writesD (h : OnGroup i s k sl f l fr c g u) {n : Nat} {N : Iv} (hd : dest i = 480 + n)
    (hw : WritesD i c (tokenAcquire s u i) N) :
    ∃ t g', finish s (.group k sl) c g.uid f (bodyOf i c (tokenAcquire s u i)) = .next t ∧ t.group? k sl = some g' ∧
      ivGet g'.iv n = newIv c (ivGet g.iv n) N := by
  obtain ⟨v, hv⟩ := hw
  obtain ⟨ha, -⟩ := capture_group h.operands
  obtain ⟨hg, hu, -, -⟩ := acquired (i := i) h.group h.unit ha
  rw [hv, hd, writeT, writeLanes_eq hg hu ha]
  obtain ⟨t, ht, hg', -⟩ := finish_writeIv h (State.group_setUnit .. |>.trans hg) (State.unit_setUnit .. |>.trans (if_pos rfl))
    ((onLanes_stopping ..).trans h.goes) (setUnit_reported (acquired_reported h)) n N
  exact ⟨t, _, ht, hg', NatMap.get_set_same _ _ _ _⟩

end ending

-- The words of the table.

section table

variable {i : Instr} {s : State} {k sl f l : Nat} {fr : Front} {c : Cap} {g : Group} {u : Unit_}

/-- A word of the table is issued with its meaning, and touches neither region marks nor containment. -/
theorem ivWord_issues (hi : hasIvSpec i = true) :
    (∀ s, exec i s = issue i (bodyOf i) s) ∧ clearsMark i = false ∧ endsContainment i = false := by
  cases i with
  | _ => simp [hasIvSpec, isIndexWord, isFloatWord, isSlotWord] at hi <;> exact ⟨fun _ => rfl, rfl, rfl⟩

theorem ivWord_exec (h : OnGroup i s k sl f l fr c g u) (hi : hasIvSpec i = true) :
    exec i s = finish s (.group k sl) c g.uid f (bodyOf i c (tokenAcquire s u i)) := by
  obtain ⟨he, hm, hc⟩ := ivWord_issues hi
  rw [he, issue_onGroup h _ hm hc]

theorem ivWord_kinds (hi : hasIvSpec i = true) :
    isIntA i = true ∨ isWideI i = true ∨ isIndexWord i = true ∨ isFloatWord i = true ∨ isSlotWord i = true := by
  cases i with
  | _ => simp [hasIvSpec, isIndexWord, isFloatWord, isSlotWord] at hi <;> simp [isIntA, isWideI, isIndexWord, isFloatWord, isSlotWord]

/-- Every word of the table writes its D field with the table's interval, but for a cross-lane word with no lane active. -/
theorem ivWord_writesD {rc : LaunchRec} (hs : Sees i s c g u rc) (hi : hasIvSpec i = true) (hx : sDestOf .vector i = false)
    (hc : isCrossLane i = true → c.active ≠ [])
    (hb : ∀ o, i = .lbcast o → ∀ m ∈ c.active, ∀ m' ∈ c.active, c.a2 m = c.a2 m') :
    WritesD i c s (ivSpec g u rc i c.i1 c.i2 c.i3) := by
  rcases ivWord_kinds hi with hi | hi | hi | hi | hi
  · exact intWord_writesD hs hi hx
  · exact wideWord_writesD hs hi
  · cases hcl : isCrossLane i with
    | true => exact crossWord_writesD hs hcl (hc hcl) hb
    | false => exact indexWord_writesD hs hi hcl
  · exact floatWord_writesD hi
  · exact slotWord_writesD hs hi

theorem ivWord_interval (h : OnGroup i s k sl f l fr c g u) (hi : hasIvSpec i = true) (hx : sDestOf .vector i = false) {n : Nat}
    (hd : dest i = 480 + n) (hb : ∀ o, i = .lbcast o → ∀ m ∈ c.active, ∀ m' ∈ c.active, c.a2 m = c.a2 m') :
    ∃ t g', exec i s = .next t ∧ t.group? k sl = some g' ∧ ivGet g'.iv n =
      (if isCrossLane i = true ∧ c.active = [] then ivGet g.iv n
       else newIv c (ivGet g.iv n) (ivSpec g u (recOf s f l) i c.i1 c.i2 c.i3)) := by
  rw [ivWord_exec h hi]
  by_cases hidle : isCrossLane i = true ∧ c.active = []
  · obtain ⟨ha, -⟩ := capture_group h.operands
    obtain ⟨hg, hu, -, -⟩ := acquired (i := i) h.group h.unit ha
    rw [crossWord_idle hidle.1 hidle.2, if_pos hidle]
    obtain ⟨t, ht, hg', -⟩ := finish_ok (f := f) (s := s) (c := c) hg hu (front_eq h) h.goes (acquired_reported h)
    exact ⟨t, _, ht, hg', rfl⟩
  · rw [if_neg hidle]
    exact finish_writesD h hd (ivWord_writesD (sees h) hi hx (fun hc h0 => hidle ⟨hc, h0⟩) hb)

end table

-- The clamp of IWIDEN (R69), on the threads `T` of the lanes `l`.

section clamp

variable {T : Nat → Nat} {l : List Nat} {u : Unit_} {d m : Nat} {lo hi : Word}

/-- The lanes whose value of register `d` lies outside [lo, hi]. -/
def lanesOutside (T : Nat → Nat) (l : List Nat) (u : Unit_) (d : Nat) (lo hi : Word) : List Nat :=
  l.filter (fun m => decide (((u.thread (T m)).reg d).toInt < lo.toInt) || decide (hi.toInt < ((u.thread (T m)).reg d).toInt))

/-- The value that the clamp gives a lane's register. -/
def clampedWord (T : Nat → Nat) (u : Unit_) (d : Nat) (lo hi : Word) (m : Nat) : Word :=
  BitVec.ofInt 32 (clampZ ((u.thread (T m)).reg d).toInt lo.toInt hi.toInt)

/-- The unit after the clamp of the lanes outside the range, with their threads' bounds flags set. -/
def clampedUnit (T : Nat → Nat) (l : List Nat) (u : Unit_) (d : Nat) (lo hi : Word) : Unit_ :=
  onLanes T (fun _ x => { x with bounds := true }) (lanesOutside T l u d lo hi)
    (onLanes T (fun m x => x.setReg d (clampedWord T u d lo hi m)) (lanesOutside T l u d lo hi) u)

theorem mem_lanesOutside : m ∈ lanesOutside T l u d lo hi ↔
    m ∈ l ∧ (((u.thread (T m)).reg d).toInt < lo.toInt ∨ hi.toInt < ((u.thread (T m)).reg d).toInt) := by
  simp [lanesOutside]

theorem toInt_clampedWord (h : lo.toInt ≤ hi.toInt) :
    (clampedWord T u d lo hi m).toInt = max lo.toInt (min ((u.thread (T m)).reg d).toInt hi.toInt) := by
  rw [← clampZ_eq h, clampedWord, clampZ]
  split_ifs <;> rw [BitVec.ofInt_toInt]

theorem clampedUnit_stopping : (clampedUnit T l u d lo hi).stopping = u.stopping :=
  (onLanes_stopping ..).trans (onLanes_stopping ..)

theorem clampedUnit_bounds (h : m ∈ lanesOutside T l u d lo hi) :
    ((clampedUnit T l u d lo hi).thread (T m)).bounds = true :=
  onLanes_made (P := fun x => x.bounds = true) _ _ m _ h (fun _ => rfl) (fun _ _ _ _ => rfl) _

/-- The register of a lane that is alone on its thread: what the clamp gives it outside the range, else what it held. -/
theorem clampedUnit_reg {w : Word} (alone : ∀ n ∈ lanesOutside T l u d lo hi, T n = T m → n = m)
    (hw : w = if m ∈ lanesOutside T l u d lo hi then clampedWord T u d lo hi m else (u.thread (T m)).reg d) :
    ((clampedUnit T l u d lo hi).thread (T m)).reg d = w := by
  unfold clampedUnit
  refine onLanes_kept (P := fun x => x.reg d = w) _ _ _ _ (by intro _ _ _ _ hx; exact hx) _ ?_
  by_cases hout : m ∈ lanesOutside T l u d lo hi
  · rw [if_pos hout] at hw
    refine onLanes_made (P := fun x => x.reg d = w) _ _ m _ hout (fun x => by simp [hw]) (fun n hn hT x => ?_) _
    simp [alone n hn hT, hw]
  · rw [if_neg hout] at hw
    exact onLanes_kept (P := fun x => x.reg d = w) _ _ _ _ (fun n hn hT => absurd (alone n hn hT ▸ hn) hout) _ hw.symm

theorem clampedUnit_toInt (h : lo.toInt ≤ hi.toInt) (hm : m ∈ l) (hsole : ∀ n ∈ l, T n = T m → n = m) :
    (((clampedUnit T l u d lo hi).thread (T m)).reg d).toInt =
      max lo.toInt (min ((u.thread (T m)).reg d).toInt hi.toInt) := by
  rw [clampedUnit_reg (fun n hn => hsole n (mem_lanesOutside.mp hn).1) rfl]
  split
  · exact toInt_clampedWord h
  · rename_i hout
    rw [mem_lanesOutside, not_and, not_or, not_lt, not_lt] at hout
    obtain ⟨h1, h2⟩ := hout hm
    rw [min_eq_left h2, max_eq_right h1]

end clamp

-- IWIDEN.

section iwiden

variable {s : State} {k sl f l : Nat} {fr : Front} {c : Cap} {g : Group} {u : Unit_} {o : AOps} {lo hi : Word}

theorem wf_of_checkWord {i : Instr} {a : Agent} {rc : LaunchRec} (h : checkWord s a fr rc i = none) : i.wf a.kind = true := by
  by_contra hw
  simp only [Bool.not_eq_true] at hw
  simp only [checkWord, hw, Bool.not_false, Bool.true_or, if_true] at h
  split_ifs at h

/-- IWIDEN names a k-register and has no guard. -/
theorem iwiden_wf (h : (Instr.iwiden o).wf .vector = true) : 480 ≤ o.d.toNat ∧ o.g.en = false := by
  simp only [Instr.wf, Instr.desc, wfA, DKind.ok, guardOk, Bool.and_eq_true, decide_eq_true_eq] at h
  simp_all

theorem iwiden_active (h : OnGroup (.iwiden o) s k sl f l fr c g u) : c.active = c.present := by
  have hen := (iwiden_wf (wf_of_checkWord h.checks)).2
  have hc := h.operands
  simp only [capture, h.group, Option.bind_some, Option.map_eq_some_iff] at hc
  obtain ⟨u', -, rfl⟩ := hc
  simp [Instr.desc, hen]

/-- A range of two words needs no cut. -/
theorem newIv_words (ha : c.active = c.present) (old : Iv) (lo hi : Word) :
    newIv c old ⟨lo.toInt, hi.toInt⟩ = ⟨lo.toInt, hi.toInt⟩ := by
  have h1 := lo.le_toInt
  have h2 := hi.toInt_lt
  rw [newIv, if_pos ha, cutTop, if_neg]
  simp only [not_or]
  constructor <;> norm_num at h1 h2 ⊢ <;> omega

/-- The bound that IWIDEN reads of an operand that is equal in the present lanes. -/
theorem sv_lowP {a : Nat → DWord} (hne : c.present ≠ []) (h : ∀ m ∈ c.present, a m = lo.setWidth 64) :
    sv 32 (a c.lowP) = lo.toInt := by
  have hm : c.lowP ∈ c.present := by
    unfold Cap.lowP
    cases hp : c.present with
    | nil => exact absurd hp hne
    | cons m r => simp
  simp [sv, h _ hm]

/-- Does IWIDEN's action, or that of its launch, trap (R69)? -/
def widenTraps (o : AOps) (rc : LaunchRec) : Bool := if o.x = 0 then rc.flags.getLsbD 2 else o.x == 2

/-- The unit after IWIDEN: the clamp is made where the old interval lies outside the range. -/
def widenedUnit (T : Nat → Nat) (c : Cap) (g : Group) (u : Unit_) (o : AOps) (lo hi : Word) : Unit_ :=
  if Iv.inside (ivGet g.iv (o.d.toNat - 480)) ⟨lo.toInt, hi.toInt⟩ = true then u else clampedUnit T c.present u o.d.toNat lo hi

theorem widenedUnit_stopping (T : Nat → Nat) : (widenedUnit T c g u o lo hi).stopping = u.stopping := by
  unfold widenedUnit
  split
  · rfl
  · exact clampedUnit_stopping

/-- The clamp and the flags, as the two updates of IWIDEN's meaning make them. -/
theorem setBounds_writeLanes (hg : s.group? k sl = some g) (hu : s.unit? g.uid = some u) (ha : c.agent = .group k sl) (d : Nat) :
    setBounds (writeLanes s c d ((lanesOutside (laneThread s c.agent) c.present u d lo hi).map
        (fun m => (m, clampedWord (laneThread s c.agent) u d lo hi m)))) c (lanesOutside (laneThread s c.agent) c.present u d lo hi)
      = s.setUnit g.uid (some (clampedUnit (laneThread s c.agent) c.present u d lo hi)) := by
  rw [writeLanes_eq hg hu ha]
  refine (setBounds_eq (s := s.setUnit g.uid _) hg ((State.unit_setUnit ..).trans (if_pos rfl)) ha _).trans ?_
  simp only [State.setUnit, NatMap.set_set]
  rfl

/-- What IWIDEN does with equal bounds, low not above high: after the clamp, if any, it writes the interval. -/
theorem bodyIwiden_eq {rc : LaunchRec} (hs : Sees (.iwiden o) s c g u rc) (hg : s.group? k sl = some g)
    (hu : s.unit? g.uid = some u) (ha : c.agent = .group k sl) (hne : c.present ≠ [])
    (hb : ∀ m ∈ c.present, c.a1 m = lo.setWidth 64 ∧ c.a2 m = hi.setWidth 64) (hle : lo.toInt ≤ hi.toInt)
    (hnt : Iv.inside (ivGet g.iv (o.d.toNat - 480)) ⟨lo.toInt, hi.toInt⟩ = true ∨ widenTraps o rc = false ∨
      lanesOutside (laneThread s c.agent) c.present u o.d.toNat lo hi = []) :
    ∃ s1, bodyIwiden o c s = .ok (writeIv s1 c o.d.toNat ⟨lo.toInt, hi.toInt⟩) ∧ s1.group? k sl = some g ∧
      s1.unit? g.uid = some (widenedUnit (laneThread s c.agent) c g u o lo hi) ∧ s1.reports = s.reports := by
  have h1 : ∀ m ∈ c.present, ∀ n ∈ c.present, c.a1 m = c.a1 n := fun m hm n hn => (hb m hm).1.trans (hb n hn).1.symm
  have h2 : ∀ m ∈ c.present, ∀ n ∈ c.present, c.a2 m = c.a2 n := fun m hm n hn => (hb m hm).2.trans (hb n hn).2.symm
  rw [bodyIwiden, uniformOr_of_equal h1, uniformOr_of_equal h2]
  simp only [sv_lowP hne (fun m hm => (hb m hm).1), sv_lowP hne (fun m hm => (hb m hm).2), hs.group, hs.unit, hs.record]
  rw [if_neg (by omega)]
  by_cases hin : Iv.inside (ivGet g.iv (o.d.toNat - 480)) ⟨lo.toInt, hi.toInt⟩ = true
  · exact ⟨s, if_pos hin, hg, by rw [hu, widenedUnit, if_pos hin], rfl⟩
  · have hno : ¬ (lanesOutside (laneThread s c.agent) c.present u o.d.toNat lo hi ≠ [] ∧ widenTraps o rc = true) := by
      rintro ⟨hbad, htrap⟩
      rcases hnt with h | h | h
      · exact hin h
      · exact Bool.false_ne_true (h.symm.trans htrap)
      · exact hbad h
    have hset := setBounds_writeLanes (lo := lo) (hi := hi) hg hu ha o.d.toNat
    exact ⟨_, (if_neg hin).trans ((if_neg hno).trans (congrArg (fun x => Res.ok (writeIv x c o.d.toNat _)) hset)), hg,
      by rw [State.unit_setUnit, if_pos rfl, widenedUnit, if_neg hin], rfl⟩

/-- IWIDEN with equal bounds, low not above high, where it does not trap: its register's interval is the bounds. -/
theorem iwiden_exec (h : OnGroup (.iwiden o) s k sl f l fr c g u) (hne : c.present ≠ [])
    (hb : ∀ m ∈ c.present, c.a1 m = lo.setWidth 64 ∧ c.a2 m = hi.setWidth 64) (hle : lo.toInt ≤ hi.toInt)
    (hnt : Iv.inside (ivGet g.iv (o.d.toNat - 480)) ⟨lo.toInt, hi.toInt⟩ = true ∨ widenTraps o (recOf s f l) = false ∨
      lanesOutside (laneThread s c.agent) c.present u o.d.toNat lo hi = []) :
    ∃ t, exec (.iwiden o) s = .next t ∧
      t.group? k sl = some { g with iv := ivSet g.iv (o.d.toNat - 480) ⟨lo.toInt, hi.toInt⟩, front := frontAfter fr c } ∧
      t.unit? g.uid = some (unitAfter (widenedUnit (laneThread s c.agent) c g u o lo hi) c) := by
  obtain ⟨ha, -⟩ := capture_group h.operands
  obtain ⟨hg, hu, hT, -⟩ := acquired (i := .iwiden o) h.group h.unit ha
  obtain ⟨n, hn⟩ := Nat.exists_eq_add_of_le (iwiden_wf (wf_of_checkWord h.checks)).1
  obtain ⟨s1, e, hg1, hu1, hq1⟩ := bodyIwiden_eq (sees h) hg hu ha hne hb hle (by rw [hT]; exact hnt)
  rw [hT] at hu1
  have hx : exec (.iwiden o) s = finish s (.group k sl) c g.uid f (bodyIwiden o c (tokenAcquire s u (.iwiden o))) :=
    issue_onGroup h _ rfl rfl
  have := finish_writeIv h hg1 hu1 ((widenedUnit_stopping _).trans h.goes) (hq1.trans (acquired_reported h)) n
    ⟨lo.toInt, hi.toInt⟩
  rw [newIv_words (iwiden_active h)] at this
  rw [hx, e, hn, Nat.add_sub_cancel_left]
  exact this

/-- Where none of the statement's reasons to trap holds, IWIDEN does not. -/
theorem iwiden_no_trap {T : Nat → Nat} {rc : LaunchRec}
    (h : Iv.inside (ivGet g.iv (o.d.toNat - 480)) ⟨lo.toInt, hi.toInt⟩ = true ∨ o.x = 1 ∨ (o.x = 0 ∧ rc.flags.getLsbD 2 = false) ∨
      (∀ m ∈ c.present, lo.toInt ≤ ((u.thread (T m)).reg o.d.toNat).toInt ∧ ((u.thread (T m)).reg o.d.toNat).toInt ≤ hi.toInt)) :
    Iv.inside (ivGet g.iv (o.d.toNat - 480)) ⟨lo.toInt, hi.toInt⟩ = true ∨ widenTraps o rc = false ∨
      lanesOutside T c.present u o.d.toNat lo hi = [] := by
  rcases h with h | h | ⟨h, hf⟩ | h
  · exact .inl h
  · exact .inr (.inl (by simp [widenTraps, h]))
  · exact .inr (.inl (by rw [widenTraps, if_pos h, hf]))
  · refine .inr (.inr (List.filter_eq_nil_iff.mpr fun m hm => ?_))
    obtain ⟨h1, h2⟩ := h m hm
    simp [h1, h2]

end iwiden

end Sys2Proof.Proofs.Intervals

open Sys2Proof Sys2Proof.Machine Sys2Proof.Claims Sys2Proof.Laws Sys2Proof.Proofs.Intervals

/-- Settles O9: a word of the table writes its D field once, with the model's interval, which is the table's row; IWIDEN writes
its register's interval after a clamp of the lanes that lie outside. -/
theorem intWordsSetIntervals : Obligations.IntWordsSetIntervals := by
  unfold Obligations.IntWordsSetIntervals
  constructor
  · intro i s k sl f l fr c g u n h hi hx hd hb
    exact ivWord_interval h hi hx hd hb
  · intro o s k sl f l fr c g u lo hi h hne hb hle hnt
    obtain ⟨t, ht, hg, hu⟩ := iwiden_exec h hne hb hle (iwiden_no_trap hnt)
    refine ⟨t, _, _, ht, hg, hu, rfl, NatMap.get_set_same .., fun n hn => ivGet_ivSet_ne _ _ ?_, fun hin => ?_,
      fun hin m hm => ⟨fun hsole => ?_, fun hout => ?_⟩⟩
    · have := (iwiden_wf (wf_of_checkWord h.checks)).1
      omega
    · rw [widenedUnit, if_pos hin]
    · rw [widenedUnit, if_neg (by simp [hin])]
      exact clampedUnit_toInt hle hm hsole
    · rw [widenedUnit, if_neg (by simp [hin])]
      exact clampedUnit_bounds (mem_lanesOutside.mpr ⟨hm, hout⟩)
end

section
/-! Floating-point values and formats: how large a rounded pattern is, and when a wider format does not overflow (R87, R262,
R264). -/

namespace Sys2Proof.Proofs.Floats

open Machine Claims

theorem toNat_bits {n : Nat} (x : BitVec n) (start len : Nat) : (bits x start len).toNat = x.toNat / 2 ^ start % 2 ^ len := by
  simp [bits, Nat.shiftRight_eq_div_pow]

/-- A flag of X (R91), asked for as a field or as a bit. -/
theorem bits_one_eq (x : BitVec 3) : ∀ n < 3, (bits x n 1 = 1) = (x.getLsbD n = true) := by
  intro n hn
  interval_cases n <;> revert x <;> decide

theorem modeSpec_eq (rm : BitVec 2) : modeSpec rm = Mode.ofRm rm := by
  revert rm; decide

section formats

variable {f : Fmt} {mode : Mode} {m : Nat} {q : Int}

theorem ieee_patterns (hs : f.sp = .ieee) : f.maxPat = f.infPat - 1 ∧ f.nanPat = f.infPat + 2 ^ (f.mb - 1) := by
  simp [Fmt.maxPat, Fmt.nanPat, Fmt.infPat, hs]

/-- Infinity stands one binade below the sign bit. -/
theorem infPat_add (f : Fmt) : f.infPat + 2 ^ f.mb = 2 ^ (f.eb + f.mb) := by
  have : 1 ≤ 2 ^ f.eb := Nat.one_le_two_pow
  rw [Fmt.infPat, Fmt.emax, ← Nat.succ_mul, Nat.succ_eq_add_one, Nat.sub_add_cancel this, pow_add]

theorem signPat_le (neg : Bool) : f.signPat neg ≤ 2 ^ (f.eb + f.mb) := by
  cases neg <;> simp [Fmt.signPat]

theorem overflowPat_le (hs : f.sp = .ieee) (neg : Bool) : overflowPat f mode neg ≤ f.infPat := by
  obtain ⟨hmax, -⟩ := ieee_patterns hs
  cases mode <;> cases neg <;> simp [overflowPat, hmax]

theorem nanPat_lt (hs : f.sp = .ieee) (hm : 0 < f.mb) : f.nanPat < 2 ^ (f.eb + f.mb) := by
  have := infPat_add f
  have := Nat.pow_lt_pow_right (a := 2) (by decide) (Nat.sub_lt hm (by decide : 0 < 1))
  have := (ieee_patterns hs).2
  omega

/-- What round makes of a finite value, without its sign (R264 step 3). -/
def magPat (f : Fmt) (mode : Mode) (neg : Bool) (mag : Nat) (exp : Int) (sticky : Bool) : Nat :=
  let r := roundMag f.mb f.emin mode neg mag exp sticky
  if overflows f r.1 r.2 then overflowPat f mode neg else patOf f r.1 r.2

theorem roundTo_fin (neg : Bool) (mag : Nat) (exp : Int) (sticky : Bool) :
    roundTo f mode (.fin neg mag exp) sticky = f.signPat neg + magPat f mode neg mag exp sticky := by
  simp only [roundTo, magPat]
  split <;> rfl

theorem magPat_le (hs : f.sp = .ieee) (neg : Bool) (mag : Nat) (exp : Int) (sticky : Bool) :
    magPat f mode neg mag exp sticky ≤ f.infPat := by
  simp only [magPat]
  split
  · exact overflowPat_le hs neg
  · have := (ieee_patterns hs).1
    simp_all only [overflows, decide_eq_true_eq]
    omega

/-- A result of round fits its format. -/
theorem roundTo_lt (hs : f.sp = .ieee) (hm : 0 < f.mb) (x : FVal) (sticky : Bool) :
    roundTo f mode x sticky < 2 ^ (f.eb + f.mb + 1) := by
  have hn := nanPat_lt hs hm
  have hinf := infPat_add f
  have hpos : 0 < 2 ^ f.mb := Nat.two_pow_pos _
  rw [pow_succ]
  cases x with
  | nan => simp only [roundTo]; omega
  | inf neg =>
    have := signPat_le (f := f) neg
    simp only [roundTo]; omega
  | fin neg mag exp =>
    have := signPat_le (f := f) neg
    have := magPat_le (mode := mode) hs neg mag exp sticky
    rw [roundTo_fin]; omega

theorem fminmax_lt {w : Bool} {a b n : Nat} (hn : f.nanPat < n) (ha : a < n) (hb : b < n) : fminmax f w a b < n := by
  simp only [fminmax]
  split_ifs <;> assumption

theorem fsatP_lt {p n : Nat} (h1 : f.bias * 2 ^ f.mb < n) (hp : p < n) : fsatP f p < n := by
  unfold fsatP
  cases decodeF f p with
  | nan => exact Nat.zero_lt_of_lt hp
  | inf neg => dsimp only; split <;> omega
  | fin neg m e => dsimp only; split_ifs <;> omega

/-- The pattern of a value below 2^(E - bias) lies below E binades. -/
theorem patOf_lt {E : Nat} (hq : f.emin - f.mb ≤ q) (hE : q + Nat.log2 m + f.bias < E) (h1 : 1 ≤ E) :
    patOf f m q < E * 2 ^ f.mb := by
  have hbin : 2 ^ f.mb ≤ E * 2 ^ f.mb := Nat.le_mul_of_pos_left _ h1
  have hpos : 0 < 2 ^ f.mb := Nat.two_pow_pos _
  have hm : m < 2 ^ (Nat.log2 m + 1) := Nat.lt_log2_self
  unfold patOf
  simp only
  split_ifs with h0 hsub hup
  · omega
  · refine lt_of_lt_of_le ?_ hbin
    obtain ⟨k, hk⟩ := Int.eq_ofNat_of_zero_le (sub_nonneg.mpr hq)
    rw [hk, Int.toNat_natCast]
    calc m * 2 ^ k < 2 ^ (Nat.log2 m + 1) * 2 ^ k := Nat.mul_lt_mul_of_pos_right hm (Nat.two_pow_pos _)
      _ = 2 ^ (Nat.log2 m + 1 + k) := (pow_add ..).symm
      _ ≤ 2 ^ f.mb := Nat.pow_le_pow_right (by decide) (by omega)
  all_goals
    have hb : ((q + Nat.log2 m + f.bias).toNat + 1) * 2 ^ f.mb ≤ E * 2 ^ f.mb := Nat.mul_le_mul_right _ (by omega)
    rw [Nat.succ_mul] at hb
  · have : m / 2 ^ (q + (Nat.log2 m : Int) - f.mb - q).toNat < 2 ^ (f.mb + 1) := by
      rw [Nat.div_lt_iff_lt_mul (Nat.two_pow_pos _), ← pow_add]
      exact lt_of_lt_of_le hm (Nat.pow_le_pow_right (by decide) (by omega))
    rw [pow_succ] at this
    omega
  · have : m * 2 ^ (q - (q + (Nat.log2 m : Int) - f.mb)).toNat < 2 ^ (f.mb + 1) := by
      calc _ < 2 ^ (Nat.log2 m + 1) * 2 ^ (q - (q + (Nat.log2 m : Int) - f.mb)).toNat :=
            Nat.mul_lt_mul_of_pos_right hm (Nat.two_pow_pos _)
        _ = 2 ^ (Nat.log2 m + 1 + (q - (q + (Nat.log2 m : Int) - f.mb)).toNat) := (pow_add ..).symm
        _ ≤ 2 ^ (f.mb + 1) := Nat.pow_le_pow_right (by decide) (by omega)
    rw [pow_succ] at this
    omega

end formats

/-- The candidate that is chosen: exact, or one of the two about the value. -/
theorem roundMag_cases (mb : Nat) (emin : Int) (mode : Mode) (neg : Bool) (mag : Nat) (exp : Int) (sticky : Bool) :
    ∃ M q, roundMag mb emin mode neg mag exp sticky = (M, q) ∧ q = max (exp + Nat.log2 mag - mb) (emin - mb) ∧
      ∃ k : Nat, (exp = q + k ∧ M = mag * 2 ^ k) ∨ (q = exp + k ∧ M ≤ mag / 2 ^ k + 1) := by
  unfold roundMag
  simp only
  generalize max (exp + (Nat.log2 mag : Int) - mb) (emin - mb) = q
  by_cases h : q ≤ exp
  · rw [if_pos h]
    exact ⟨_, _, rfl, rfl, (exp - q).toNat, .inl ⟨by omega, rfl⟩⟩
  · rw [if_neg h]
    refine ⟨_, _, rfl, rfl, (q - exp).toNat, .inr ⟨by omega, ?_⟩⟩
    split <;> omega

theorem log2_mul_two_pow_le (m k : Nat) : Nat.log2 (m * 2 ^ k) ≤ Nat.log2 m + k := by
  by_cases h0 : m = 0
  · simp [h0]
  · rw [← Nat.lt_succ_iff, Nat.log2_lt (by positivity), Nat.succ_eq_add_one, Nat.add_right_comm, pow_add]
    exact Nat.mul_lt_mul_of_pos_right Nat.lt_log2_self (Nat.two_pow_pos _)

theorem log2_le_of_le_div_add_one {M m k : Nat} (h : M ≤ m / 2 ^ k + 1) : Nat.log2 M ≤ Nat.log2 m + 1 - k := by
  by_cases h0 : M = 0
  · simp [h0]
  have hdiv : m / 2 ^ k < 2 ^ (Nat.log2 m + 1 - k) := by
    rw [Nat.div_lt_iff_lt_mul (Nat.two_pow_pos _), ← pow_add]
    exact lt_of_lt_of_le Nat.lt_log2_self (Nat.pow_le_pow_right (by decide) (by omega))
  rw [← Nat.lt_succ_iff, Nat.log2_lt h0, Nat.succ_eq_add_one, pow_succ]
  omega

/-- A rounded value has at most one binade more than the exact one, or is the least. -/
theorem roundMag_bound {mb M mag : Nat} {emin exp q : Int} {mode : Mode} {neg sticky : Bool}
    (h : roundMag mb emin mode neg mag exp sticky = (M, q)) :
    emin - mb ≤ q ∧ q + Nat.log2 M ≤ max (exp + Nat.log2 mag + 1) (emin - mb) := by
  obtain ⟨M', q', e, hq, k, ⟨hk, rfl⟩ | ⟨hk, hM⟩⟩ := roundMag_cases mb emin mode neg mag exp sticky <;>
    obtain ⟨rfl, rfl⟩ := Prod.mk.inj (h.symm.trans e)
  · have := log2_mul_two_pow_le mag k
    omega
  · have := log2_le_of_le_div_add_one hM
    omega

theorem log2_le {x n : Nat} (h : x < 2 ^ (n + 1)) : Nat.log2 x ≤ n := by
  by_cases h0 : x = 0
  · simp [h0]
  · exact Nat.lt_succ_iff.mp ((Nat.log2_lt h0).mpr h)

/-- The value of an FP32 pattern by its fields. -/
theorem decodeF_fp32 (p : Nat) : decodeF fp32 p =
    if p / 2 ^ 23 % 2 ^ 8 = 255 then
      (if p % 2 ^ 23 = 0 then .inf (decide (p / 2 ^ 31 % 2 = 1)) else .nan)
    else if p / 2 ^ 23 % 2 ^ 8 = 0 then .fin (decide (p / 2 ^ 31 % 2 = 1)) (p % 2 ^ 23) (-149)
    else .fin (decide (p / 2 ^ 31 % 2 = 1)) (2 ^ 23 + p % 2 ^ 23) (((p / 2 ^ 23 % 2 ^ 8 : Nat) : Int) - 127 - 23) := by
  simp [decodeF, fp32, Fmt.emax, Fmt.emin]
  rfl

/-- A finite FP32 value lies below 2^128. -/
theorem decodeF_fp32_fin {p m : Nat} {n : Bool} {e : Int} (h : decodeF fp32 p = .fin n m e) : e + Nat.log2 m ≤ 127 := by
  rw [decodeF_fp32] at h
  split at h
  · split at h <;> exact absurd h nofun
  split at h <;> obtain ⟨-, rfl, rfl⟩ := FVal.fin.inj h
  · have := log2_le (n := 23) (x := p % 2 ^ 23) (by omega)
    omega
  · have := log2_le (n := 23) (x := 2 ^ 23 + p % 2 ^ 23) (by omega)
    omega

/-- A format with the exponents of FP32 and no special values holds every FP32 value, rounded. -/
theorem wide_not_overflows {f : Fmt} {p m : Nat} {n : Bool} {e : Int} {mode : Mode} (hp : decodeF fp32 p = .fin n m e)
    (heb : f.eb = 8) (hb : f.bias ≤ 126) :
    patOf f (roundMag f.mb f.emin mode n m e false).1 (roundMag f.mb f.emin mode n m e false).2 < 2 ^ (f.eb + f.mb) := by
  obtain ⟨h1, h2⟩ := roundMag_bound (Prod.mk.eta (p := roundMag f.mb f.emin mode n m e false)).symm
  have := decodeF_fp32_fin hp
  have hemin : f.emin = 1 - (f.bias : Int) := rfl
  rw [heb, pow_add]
  exact patOf_lt (E := 2 ^ 8) h1 (by push_cast; omega) (by decide)

end Sys2Proof.Proofs.Floats
end

section
/-! The values of the floating-point words (R91 to R100) where the model's arithmetic and the table say them in two ways: packed
halves, conversions and classes. -/

namespace Sys2Proof.Proofs.Floats

open Machine Laws Claims Intervals

/-- Half `n` of a register, at bit 16 * `n`. -/
theorem half_toNat (v : DWord) (n : Nat) : (bits (v.setWidth 32) (16 * n) 16).toNat = lowNat v / 2 ^ (16 * n) % 65536 :=
  toNat_bits ..

theorem toNat_append_halves {a b : Nat} (ha : a < 2 ^ 16) (hb : b < 2 ^ 16) :
    (BitVec.ofNat 16 a ++ BitVec.ofNat 16 b).toNat = b + 65536 * a := by
  rw [BitVec.toNat_append, BitVec.toNat_ofNat, BitVec.toNat_ofNat, Nat.mod_eq_of_lt ha, Nat.mod_eq_of_lt hb,
    ← Nat.shiftLeft_add_eq_or_of_lt hb, Nat.shiftLeft_eq]
  omega

theorem saturated_half_lt {fmt : Fmt} (hfmt : fmt = fp16 ∨ fmt = bf16) (sat : Bool) {r : Nat} (hr : r < 2 ^ 16) :
    (if sat = true then fsatP fmt r else r) < 2 ^ 16 := by
  split
  · exact fsatP_lt (by rcases hfmt with rfl | rfl <;> decide) hr
  · exact hr

/-- R98: a packed word whose operation keeps FP16 and BF16 patterns to 16 bits. -/
theorem halves_eq_packedSpec (x : BitVec 3) {f : Fmt → Mode → Nat → Nat → Nat → Nat} (a b d : DWord)
    (hf : ∀ fmt, fmt = fp16 ∨ fmt = bf16 → ∀ mode p q r, p < 2 ^ 16 → q < 2 ^ 16 → r < 2 ^ 16 → f fmt mode p q r < 2 ^ 16) :
    halves x f a b d = packedSpec x (a.setWidth 32) (b.setWidth 32) (d.setWidth 32) f := by
  have hfmt : (if x.getLsbD 2 = true then bf16 else fp16) = fp16 ∨ (if x.getLsbD 2 = true then bf16 else fp16) = bf16 := by
    split <;> simp
  unfold halves packedSpec
  simp only [bits_one_eq x _ (by decide : 0 < 3), bits_one_eq x _ (by decide : 1 < 3), bits_one_eq x _ (by decide : 2 < 3)]
  have h0 (v : DWord) : (bits (v.setWidth 32) 0 16).toNat = lowNat v / 2 ^ (16 * 0) % 65536 := half_toNat v 0
  have h1 (v : DWord) : (bits (v.setWidth 32) 16 16).toNat = lowNat v / 2 ^ (16 * 1) % 65536 := half_toNat v 1
  simp only [h0, h1]
  have hlt (v : DWord) (n : Nat) : lowNat v / 2 ^ (16 * n) % 65536 < 2 ^ 16 := Nat.mod_lt _ (by decide)
  exact (toNat_append_halves (saturated_half_lt hfmt _ (hf _ hfmt _ _ _ _ (hlt a 1) (hlt b 1) (hlt d 1)))
    (saturated_half_lt hfmt _ (hf _ hfmt _ _ _ _ (hlt a 0) (hlt b 0) (hlt d 0)))).symm

/-- A rounded FP16 or BF16 pattern has 16 bits. -/
theorem half_roundTo_lt {fmt : Fmt} (hfmt : fmt = fp16 ∨ fmt = bf16) {mode : Mode} (x : FVal) : roundTo fmt mode x < 2 ^ 16 := by
  rcases hfmt with rfl | rfl <;> exact roundTo_lt rfl (by decide) x false

/-- R99: roundint chooses between the two integers about the value. -/
theorem roundInt_eq_nearInt (mode : Mode) (neg : Bool) (m : Nat) (e : Int) : roundInt mode neg m e = nearInt mode neg m e := by
  unfold roundInt nearInt roundUpQ
  by_cases he : 0 ≤ e
  · have hd : (-e).toNat = 0 := by omega
    cases mode <;> simp [he, hd, Nat.mod_one]
  · obtain ⟨k, hk⟩ : ∃ k, (-e).toNat = k + 1 := ⟨(-e).toNat - 1, by omega⟩
    have he0 : e.toNat = 0 := by omega
    simp only [he, if_false, hk, he0, pow_zero, mul_one, Nat.add_sub_cancel, pow_succ, Bool.or_false]
    have hrne : (2 ^ k < m % (2 ^ k * 2)) = (2 ^ k * 2 < 2 * (m % (2 ^ k * 2))) := by rw [eq_iff_iff]; omega
    have hhalf : (m % (2 ^ k * 2) = 2 ^ k) = (2 ^ k * 2 = 2 * (m % (2 ^ k * 2))) := by rw [eq_iff_iff]; omega
    have hrna : (2 ^ k ≤ m % (2 ^ k * 2)) = (2 ^ k * 2 ≤ 2 * (m % (2 ^ k * 2))) := by rw [eq_iff_iff]; omega
    cases mode <;> cases neg <;> simp [Nat.pos_iff_ne_zero, hrne, hhalf, hrna]

theorem f2iVal_eq (x : BitVec 3) (a : DWord) : f2iVal x a =
    (BitVec.ofInt 32 (if bits x 0 1 = 1 then intOf (modeSpec (bits x 1 2)) 0 (2 ^ 32 - 1) (lowNat a)
      else intOf (modeSpec (bits x 1 2)) (-(2 ^ 31)) (2 ^ 31 - 1) (lowNat a))).toNat := by
  rw [BitVec.toNat_ofInt, modeSpec_eq]
  simp only [f2iVal, bits_one_eq x _ (by decide : 0 < 3), intOf, rmOf]
  split_ifs <;> cases decodeF fp32 (lowNat a) <;> simp [clampZ_eq, roundInt_eq_nearInt]

theorem i2fVal_eq (x : BitVec 3) (a : DWord) : i2fVal x a = roundTo fp32 (modeSpec (bits x 1 2))
    (.ofInt (if bits x 0 1 = 1 then ((a.setWidth 32).toNat : Int) else (a.setWidth 32).toInt)) := by
  simp only [i2fVal, bits_one_eq x _ (by decide : 0 < 3), modeSpec_eq]
  rfl

theorem f2fVal_eq (x : BitVec 3) (a : DWord) : f2fVal x a = f2fSpec x (lowNat a) := by
  simp only [f2fVal, f2fSpec, bits_one_eq x _ (by decide : 0 < 3)]
  generalize bits x 1 2 = n
  obtain rfl | rfl | rfl | rfl : n = 0 ∨ n = 1 ∨ n = 2 ∨ n = 3 := by revert n; decide
  all_goals rfl

/-- R95. -/
theorem fclassVal_eq (a : DWord) : fclassVal a = 2 ^ classBit (a.setWidth 32) := by
  have hexp : (bits (a.setWidth 32) 23 8 = 255) = (lowNat a / 2 ^ 23 % 2 ^ 8 = 255) := by
    rw [← BitVec.toNat_inj, toNat_bits]; rfl
  have hexp0 : (bits (a.setWidth 32) 23 8 = 0) = (lowNat a / 2 ^ 23 % 2 ^ 8 = 0) := by
    rw [← BitVec.toNat_inj, toNat_bits]; rfl
  have hman : (bits (a.setWidth 32) 0 23 = 0) = (lowNat a % 2 ^ 23 = 0) := by
    rw [← BitVec.toNat_inj, toNat_bits, pow_zero, Nat.div_one]; rfl
  have hsign : (a.setWidth 32).msb = decide (lowNat a / 2 ^ 31 % 2 = 1) := by
    rw [BitVec.msb_eq_getLsbD_last, ← BitVec.testBit_toNat, Nat.testBit_eq_decide_div_mod_eq]; rfl
  have hquiet : (a.setWidth 32).getLsbD 22 = decide (lowNat a / 2 ^ 22 % 2 = 1) := by
    rw [← BitVec.testBit_toNat, Nat.testBit_eq_decide_div_mod_eq]; rfl
  have hlt := Nat.mod_lt (lowNat a) (Nat.two_pow_pos 23)
  unfold fclassVal classBit
  simp only [hexp, hexp0, hman, hsign, hquiet, decodeF_fp32]
  generalize lowNat a % 2 ^ 23 = m at hlt
  generalize lowNat a / 2 ^ 23 % 2 ^ 8 = e, decide (lowNat a / 2 ^ 31 % 2 = 1) = n, lowNat a / 2 ^ 22 % 2 = q
  by_cases he : e = 255
  · by_cases hm : m = 0
    · cases n <;> simp [he, hm]
    · by_cases hq : q = 1 <;> simp [he, hm, hq]
  · by_cases h0 : e = 0
    · by_cases hm : m = 0
      · cases n <;> simp [h0, hm]
      · cases n <;> simp [h0, hm, (by simpa using hlt : m < 8388608)]
    · cases n <;> simp [he, h0]

end Sys2Proof.Proofs.Floats
end

section
/-! Format slots (R101, R102, R262, R265): the element that CVTS makes of an FP32 value is that of the slot's format. First the
formats of an exponent and a mantissa. -/

namespace Sys2Proof.Proofs.Floats

open Machine Laws Claims Intervals

-- The fields of a slot.

theorem slotMode_eq (slot : DWord) : slotMode slot = modeAt slot := by
  unfold slotMode modeAt
  generalize bits slot 6 3 = x
  revert x; decide

theorem slotWidth_eq (n : Nat) : slotWidth n = widthOf n := by
  by_cases h : n < 12
  · interval_cases n <;> rfl
  · obtain ⟨k, rfl⟩ : ∃ k, n = k + 12 := ⟨n - 12, by omega⟩
    rfl

/-- The formats of R262 by their special values, then integers and sums of powers of two. -/
theorem format_kinds (n : Nat) : (n ≤ 3 ∨ n = 5) ∨ (n = 4 ∨ n = 6 ∨ n = 7) ∨ (n = 8 ∨ n = 9) ∨ n = 10 ∨ 11 ≤ n := by omega

theorem ieee_formats {n : Nat} (h : n ≤ 3 ∨ n = 5) : n = 0 ∨ n = 1 ∨ n = 2 ∨ n = 3 ∨ n = 5 := by omega

-- Formats with infinities (formats 0 to 3 and 5).

/-- The element of a value in a format with infinities. -/
def ieeeElem (f : Fmt) (mode : Mode) (sat zero : Bool) : FVal → Nat
  | .nan => if zero then 0 else f.nanPat
  | .inf n => f.signPat n + (if sat then f.maxPat else f.infPat)
  | .fin n m e =>
    let r := roundMag f.mb f.emin mode n m e false
    if overflows f r.1 r.2 then f.signPat n + (if sat then f.maxPat else overflowPat f mode n)
    else f.signPat n + patOf f r.1 r.2

theorem fmtSpec_ieee {n : Nat} (h : n ≤ 3 ∨ n = 5) :
    (fmtSpec n).sp = .ieee ∧ 0 < (fmtSpec n).mb ∧ 0 < (fmtSpec n).infPat := by
  obtain rfl | rfl | rfl | rfl | rfl := ieee_formats h
  all_goals decide

theorem ieee_width {n : Nat} (h : n ≤ 3 ∨ n = 5) :
    (fmtSpec n).eb + (fmtSpec n).mb + 1 + (if n = 1 then 13 else 0) = slotWidth n := by
  obtain rfl | rfl | rfl | rfl | rfl := ieee_formats h
  all_goals rfl

theorem cvtsVal_ieee {slot : DWord} {p : Nat} (h : slotFormat slot ≤ 3 ∨ slotFormat slot = 5) :
    cvtsVal slot p = ieeeElem (fmtSpec (slotFormat slot)) (slotMode slot) (slotSat slot) (slotNanZero slot) (decodeF fp32 p)
      * (if slotFormat slot = 1 then 2 ^ 13 else 1) := by
  obtain e | e | e | e | e := ieee_formats h
  all_goals
    simp only [cvtsVal, e, Nat.reduceEqDiff, zero_ne_one, if_true, if_false, mul_one]
    cases decodeF fp32 p <;> rfl

section ieee

variable {f : Fmt} {mode : Mode} {sat zero : Bool}

/-- A saturating conversion gives the greatest finite magnitude where round gives infinity. -/
theorem ieeeElem_fin (hs : f.sp = .ieee) (hinf : 0 < f.infPat) (n : Bool) (m : Nat) (e : Int) :
    ieeeElem f mode sat zero (.fin n m e) =
      if sat = true ∧ roundTo f mode (.fin n m e) % 2 ^ (f.eb + f.mb) = f.infPat then f.signPat n + f.maxPat
      else roundTo f mode (.fin n m e) := by
  have hlt : magPat f mode n m e false < 2 ^ (f.eb + f.mb) := by
    have := magPat_le (mode := mode) hs n m e false
    have := infPat_add f
    have := Nat.two_pow_pos f.mb
    omega
  have hmod : roundTo f mode (.fin n m e) % 2 ^ (f.eb + f.mb) = magPat f mode n m e false := by
    rw [roundTo_fin]
    cases n <;> simp [Fmt.signPat, Nat.mod_eq_of_lt hlt]
  obtain ⟨hmax, -⟩ := ieee_patterns hs
  rw [hmod, roundTo_fin]
  cases sat
  · simp only [ieeeElem, magPat, Bool.false_eq_true, if_false, false_and]
    split <;> rfl
  · simp only [ieeeElem, magPat, if_true, true_and]
    split
    · next hover =>
      have hcases : overflowPat f mode n = f.infPat ∨ overflowPat f mode n = f.maxPat := by
        cases mode <;> cases n <;> simp [overflowPat]
      rcases hcases with h | h <;> simp [h]
    · next hover =>
      simp only [overflows, decide_eq_true_eq] at hover
      rw [if_neg (by omega)]

theorem ieeeElem_lt (hs : f.sp = .ieee) (hm : 0 < f.mb) (hinf : 0 < f.infPat) (x : FVal) :
    ieeeElem f mode sat zero x < 2 ^ (f.eb + f.mb + 1) := by
  have hn := nanPat_lt hs hm
  obtain ⟨hmax, -⟩ := ieee_patterns hs
  have hadd := infPat_add f
  have hsign (n : Bool) := signPat_le (f := f) n
  have hpos := Nat.two_pow_pos f.mb
  have hr := roundTo_lt (f := f) (mode := mode) hs hm x false
  rw [pow_succ] at hr ⊢
  cases x with
  | nan => simp only [ieeeElem]; split <;> omega
  | inf n => have := hsign n; simp only [ieeeElem]; split <;> omega
  | fin n m e => have := hsign n; rw [ieeeElem_fin hs hinf]; split <;> omega

end ieee

theorem cvtsSpec_ieee {slot : DWord} {p : Nat} (h : fmtOf slot ≤ 3 ∨ fmtOf slot = 5) :
    cvtsSpec slot p = ieeeElem (fmtSpec (fmtOf slot)) (modeAt slot) (slot.getLsbD 9) (slot.getLsbD 10) (decodeF fp32 p)
      * (if fmtOf slot = 1 then 2 ^ 13 else 1) := by
  obtain ⟨hs, -, hinf⟩ := fmtSpec_ieee h
  simp only [cvtsSpec, if_pos h]
  congr 1
  generalize fmtSpec (fmtOf slot) = f at *
  obtain ⟨hmax, hnan⟩ := ieee_patterns hs
  have hbig : (2 ^ f.eb - 1) * 2 ^ f.mb - 1 = f.maxPat := hmax.symm
  have hsucc : f.maxPat + 1 = f.infPat := by omega
  rw [hbig, hsucc]
  cases decodeF fp32 p with
  | nan => simp only [ieeeElem, hnan]
  | inf n => rfl
  | fin n m e => rw [ieeeElem_fin hs hinf]; rfl

-- Formats without infinities (formats 4, 6 and 7).

/-- The element of a value in a format that a value past the greatest magnitude does not leave: `big` stands for it. -/
def cappedElem (f : Fmt) (mode : Mode) (big nan : Nat) : FVal → Nat
  | .nan => nan
  | .inf n => f.signPat n + big
  | .fin n m e =>
    let r := roundMag f.mb f.emin mode n m e false
    f.signPat n + (if overflows f r.1 r.2 then big else patOf f r.1 r.2)

/-- With the exponents of FP32 a format holds every FP32 value rounded to its own precision. -/
theorem roundTo_wide {f : Fmt} {mode : Mode} {p m : Nat} {n : Bool} {e : Int} (hp : decodeF fp32 p = .fin n m e)
    (hb : f.bias ≤ 126) : roundTo ⟨8, f.mb, f.bias, .none⟩ mode (.fin n m e) % 2 ^ (8 + f.mb) =
      patOf f (roundMag f.mb f.emin mode n m e false).1 (roundMag f.mb f.emin mode n m e false).2 := by
  have hlt := wide_not_overflows (f := ⟨8, f.mb, f.bias, .none⟩) (mode := mode) hp rfl hb
  have hmax : Fmt.maxPat ⟨8, f.mb, f.bias, .none⟩ = 2 ^ (8 + f.mb) - 1 :=
    congrArg (· - 1) (infPat_add ⟨8, f.mb, f.bias, .none⟩)
  have hmag : magPat ⟨8, f.mb, f.bias, .none⟩ mode n m e false =
      patOf f (roundMag f.mb f.emin mode n m e false).1 (roundMag f.mb f.emin mode n m e false).2 :=
    if_neg (by rw [overflows, hmax, decide_eq_true_eq]; exact fun h => absurd hlt (by dsimp only at h ⊢; omega))
  have hmod := Nat.mod_eq_of_lt (hmag ▸ hlt)
  rw [roundTo_fin, ← hmag]
  cases n
  · simpa [Fmt.signPat] using hmod
  · simpa [Fmt.signPat] using hmod

theorem cappedElem_lt {f : Fmt} {mode : Mode} {big nan N : Nat} (hbig : f.maxPat ≤ big) (hN : 2 ^ (f.eb + f.mb) + big < N)
    (hnan : nan < N) (x : FVal) : cappedElem f mode big nan x < N := by
  have hsign (n : Bool) := signPat_le (f := f) n
  cases x with
  | nan => exact hnan
  | inf n => have := hsign n; simp only [cappedElem]; omega
  | fin n m e =>
    have := hsign n
    simp only [cappedElem, overflows, decide_eq_true_eq]
    split <;> omega

theorem cvtsVal_capped {slot : DWord} {p : Nat} (h : slotFormat slot = 4 ∨ slotFormat slot = 6 ∨ slotFormat slot = 7) :
    cvtsVal slot p = cappedElem (fmtSpec (slotFormat slot)) (slotMode slot)
      (if slotFormat slot = 4 ∧ slotSat slot = false then 127 else (fmtSpec (slotFormat slot)).maxPat)
      (if slotFormat slot = 4 ∧ slotNanZero slot = false then 127 else 0) (decodeF fp32 p) := by
  rcases h with e | e | e
  · simp only [cvtsVal, e, true_and]
    cases slotSat slot <;> cases slotNanZero slot <;> cases decodeF fp32 p <;> rfl
  all_goals
    simp only [cvtsVal, e]
    cases decodeF fp32 p <;> rfl

theorem cvtsSpec_capped {slot : DWord} {p : Nat} (h : fmtOf slot = 4 ∨ fmtOf slot = 6 ∨ fmtOf slot = 7) :
    cvtsSpec slot p = cappedElem (fmtSpec (fmtOf slot)) (modeAt slot)
      (if fmtOf slot = 4 ∧ slot.getLsbD 9 = false then 127 else (fmtSpec (fmtOf slot)).maxPat)
      (if fmtOf slot = 4 ∧ slot.getLsbD 10 = false then 127 else 0) (decodeF fp32 p) := by
  have htop : [126, 0, 31].getD (fmtOf slot - 4) 7 = (fmtSpec (fmtOf slot)).maxPat ∧ (fmtSpec (fmtOf slot)).bias ≤ 126 := by
    rcases h with e | e | e <;> rw [e] <;> decide
  simp only [cvtsSpec, if_neg (show ¬ (fmtOf slot ≤ 3 ∨ fmtOf slot = 5) by omega), if_pos (show fmtOf slot ≤ 7 by omega),
    htop.1]
  cases hx : decodeF fp32 p with
  | nan => rfl
  | inf n => rfl
  | fin n m e =>
    simp only [roundTo_wide hx htop.2]
    simp only [cappedElem, overflows, decide_eq_true_eq]
    rfl

end Sys2Proof.Proofs.Floats
end

section
/-! The elements of integer formats and of the formats of powers of two (R102, R263, R264), and CVTS of every format. -/
namespace Sys2Proof.Proofs.Floats

open Machine Laws Claims Intervals

-- Integer elements (formats 8 and 9).

/-- The bits of an integer format's element. -/
def intBits (n : Nat) : Nat := if n = 8 then 8 else 4

theorem cvtsVal_int {slot : DWord} {p : Nat} (h : slotFormat slot = 8 ∨ slotFormat slot = 9) :
    cvtsVal slot p = (BitVec.ofInt (intBits (slotFormat slot)) (intOf (slotMode slot) (-(2 ^ (intBits (slotFormat slot) - 1)))
      (2 ^ (intBits (slotFormat slot) - 1) - 1) p)).toNat := by
  rw [BitVec.toNat_ofInt]
  obtain e | e := h
  all_goals
    simp only [cvtsVal, e, intBits, intOf]
    cases decodeF fp32 p <;> simp [clampZ_eq, roundInt_eq_nearInt]

theorem cvtsSpec_int {slot : DWord} {p : Nat} (h : fmtOf slot = 8 ∨ fmtOf slot = 9) :
    cvtsSpec slot p = (BitVec.ofInt (intBits (fmtOf slot)) (intOf (modeAt slot) (-(2 ^ (intBits (fmtOf slot) - 1)))
      (2 ^ (intBits (fmtOf slot) - 1) - 1) p)).toNat := by
  simp only [cvtsSpec, if_neg (show ¬ (fmtOf slot ≤ 3 ∨ fmtOf slot = 5) by omega),
    if_neg (show ¬ fmtOf slot ≤ 7 by omega), if_pos (show fmtOf slot ≤ 9 by omega)]
  rfl

-- Elements of powers of two (formats 10 and 11).

/-- The distance of a magnitude, at scale `d`, from the value. -/
def gap (v d n : Nat) : Nat := (n * d - v) + (v - n * d)

/-- The greatest magnitude of a list at or below the value, or `b`. -/
def lastBelow (v d b : Nat) (l : List Nat) : Nat := (l.filter (fun n => decide (n * d ≤ v))).getLastD b

theorem foldl_below (v d : Nat) (l : List Nat) : ∀ b, l.foldl (fun b n => if n * d ≤ v then n else b) b = lastBelow v d b l := by
  induction l with
  | nil => intro b; rfl
  | cons n r ih =>
    intro b
    rw [List.foldl_cons, ih, lastBelow, lastBelow, List.filter_cons]
    by_cases h : n * d ≤ v
    · rw [if_pos h, if_pos (decide_eq_true h), List.getLastD_cons]
    · rw [if_neg h, if_neg (by simpa using h)]

/-- Magnitudes that are all farther than `b` leave `b`. -/
theorem foldl_nearest_stays {v d b : Nat} {l : List Nat} (h : ∀ n ∈ l, gap v d b < gap v d n) :
    l.foldl (fun b n => if gap v d n ≤ gap v d b then n else b) b = b := by
  induction l with
  | nil => rfl
  | cons n r ih =>
    rw [List.foldl_cons, if_neg (Nat.not_le.mpr (h n (by simp)))]
    exact ih fun m hm => h m (by simp [hm])

/-- No magnitude above the value is at or below it. -/
theorem lastBelow_of_above {v d b : Nat} {l : List Nat} (h : ∀ n ∈ l, v < n * d) : lastBelow v d b l = b := by
  rw [lastBelow, List.filter_eq_nil_iff.mpr fun n hn => by simpa using h n hn]
  rfl

/-- Which of the two magnitudes about a value is the nearer; the greater where they are equally near. -/
def nearer (v d lo : Nat) (hi : Option Nat) : Nat :=
  hi.elim lo (fun hi => if lo * d = v then lo else if v - lo * d < hi * d - v then lo else hi)

/-- In an ascending list the nearest magnitude is one of the two about the value. -/
theorem foldl_nearest {v d : Nat} (hd : 0 < d) (l : List Nat) : ∀ b, (b :: l).Pairwise (· < ·) → b * d ≤ v →
    l.foldl (fun b n => if gap v d n ≤ gap v d b then n else b) b
      = nearer v d (lastBelow v d b l) (l.find? (fun n => decide (v ≤ n * d))) := by
  induction l with
  | nil => intro b _ _; rfl
  | cons n r ih =>
    intro b hs hb
    obtain ⟨hbl, hnr⟩ := List.pairwise_cons.mp hs
    have hbn : b * d < n * d := Nat.mul_lt_mul_of_pos_right (hbl n (by simp)) hd
    have habove : ∀ m ∈ r, n * d < m * d := fun m hm =>
      Nat.mul_lt_mul_of_pos_right ((List.pairwise_cons.mp hnr).1 m hm) hd
    rw [List.foldl_cons]
    rcases Nat.lt_trichotomy (n * d) v with h | h | h
    · have hstep : gap v d n ≤ gap v d b := by unfold gap; omega
      have hlast : lastBelow v d b (n :: r) = lastBelow v d n r := by
        rw [lastBelow, List.filter_cons, if_pos (decide_eq_true h.le), List.getLastD_cons, lastBelow]
      rw [if_pos hstep, ih n hnr h.le, hlast, List.find?_cons_of_neg (by simpa using h)]
    · have hstep : gap v d n ≤ gap v d b := by unfold gap; omega
      have hlast : lastBelow v d b (n :: r) = n := by
        rw [lastBelow, List.filter_cons, if_pos (decide_eq_true h.le), List.getLastD_cons]
        exact lastBelow_of_above fun m hm => h ▸ habove m hm
      rw [if_pos hstep, hlast, List.find?_cons_of_pos (by simpa using h.ge),
        foldl_nearest_stays fun m hm => by have := habove m hm; unfold gap; omega]
      exact (if_pos h).symm
    · have hlast : lastBelow v d b (n :: r) = b :=
        lastBelow_of_above fun m hm => by
          rcases List.mem_cons.mp hm with rfl | hm
          · exact h
          · exact h.trans (habove m hm)
      rw [hlast, List.find?_cons_of_pos (by simpa using h.le)]
      by_cases hstep : gap v d n ≤ gap v d b
      · rw [if_pos hstep, foldl_nearest_stays fun m hm => by have := habove m hm; unfold gap; omega]
        unfold gap at hstep
        simp only [nearer, Option.elim_some]
        rw [if_neg (by omega), if_neg (by omega)]
      · rw [if_neg hstep, foldl_nearest_stays fun m hm => by have := habove m hm; unfold gap at hstep ⊢; omega]
        unfold gap at hstep
        simp only [nearer, Option.elim_some]
        split_ifs
        · rfl
        · rfl
        · omega

theorem lastBelow_of_none {v d : Nat} {mags : List Nat}
    (hn : mags.find? (fun n => decide (v ≤ n * d)) = none) : lastBelow v d 0 mags = mags.getLastD 0 := by
  rw [lastBelow, List.filter_eq_self.mpr fun n hn' => ?_]
  have := List.find?_eq_none.mp hn n hn'
  simp only [decide_eq_true_eq, not_le] at this ⊢
  exact this.le

/-- The magnitude that a mode takes of the two about a value that is neither (R264). -/
def pickMag (mode : Mode) (neg : Bool) (v d lo hi : Nat) : Nat :=
  match mode with
  | .rtz => lo
  | .rup => if neg then lo else hi
  | .rdn => if neg then hi else lo
  | _ => if v - lo * d < hi * d - v then lo else hi

theorem pickMag_cases (mode : Mode) (neg : Bool) (v d lo hi : Nat) :
    pickMag mode neg v d lo hi = lo ∨ pickMag mode neg v d lo hi = hi := by
  cases mode with
  | rtz => exact .inl rfl
  | rdn => exact (ite_eq_or_eq ..).symm
  | _ => exact ite_eq_or_eq ..

/-- R102: a magnitude of the list, or one of the two about the value; the greatest stands for all above it. -/
theorem spRound_eq {v d : Nat} (mags : List Nat) (mode : Mode) (neg : Bool) (m : Nat) (e : Int) (hv : v = m * 2 ^ (e + 3).toNat)
    (hd : d = 2 ^ (-(e + 3)).toNat) : spRound mags mode neg m e =
      (mags.find? (fun n => decide (v ≤ n * d))).elim (mags.getLastD 0) (fun hi =>
        if lastBelow v d 0 mags * d = v then lastBelow v d 0 mags else pickMag mode neg v d (lastBelow v d 0 mags) hi) := by
  subst hv hd
  unfold spRound
  simp only
  cases mags.find? _ <;> rfl

/-- The magnitudes of a format of powers of two: ascending, from 0. -/
structure Magnitudes (mags : List Nat) : Prop where
  zero : ∃ r, mags = 0 :: r
  ascending : mags.Pairwise (· < ·)

section magnitudes

variable {mags : List Nat} (h : Magnitudes mags) {v d : Nat}
include h

theorem lastBelow_mem : lastBelow v d 0 mags ∈ mags := by
  obtain ⟨⟨r, rfl⟩, -⟩ := h
  have hm : lastBelow v d 0 (0 :: r) ∈ (0 :: r).filter (fun n => decide (n * d ≤ v)) := by
    rw [lastBelow, List.filter_cons, if_pos (by simp), List.getLastD_cons]
    exact List.getLastD_mem_cons ..
  exact (List.mem_filter.mp hm).1

theorem getLastD_mem : mags.getLastD 0 ∈ mags := by
  obtain ⟨⟨r, rfl⟩, -⟩ := h
  rw [List.getLastD_cons]
  exact List.getLastD_mem_cons ..

/-- Where the value is a magnitude, both neighbours are that magnitude. -/
theorem find_of_exact (hd : 0 < d) {hi : Nat} (hf : mags.find? (fun n => decide (v ≤ n * d)) = some hi)
    (he : lastBelow v d 0 mags * d = v) : hi = lastBelow v d 0 mags := by
  have hasc := h.ascending
  have hmem := lastBelow_mem h (v := v) (d := d)
  generalize lastBelow v d 0 mags = lo at *
  obtain ⟨hp, as, bs, rfl, has⟩ := List.find?_eq_some_iff_append.mp hf
  simp only [decide_eq_true_eq] at hp
  rcases List.mem_append.mp hmem with hlo | hlo
  · have := has lo hlo
    simp [he] at this
  · rcases List.mem_cons.mp hlo with rfl | hlo
    · rfl
    · have hlt := (List.pairwise_cons.mp (List.pairwise_append.mp hasc).2.1).1 lo hlo
      have := Nat.mul_lt_mul_of_pos_right hlt hd
      omega

theorem foldl_nearest_mags (hd : 0 < d) : mags.foldl (fun b n => if gap v d n ≤ gap v d b then n else b) 0
    = nearer v d (lastBelow v d 0 mags) (mags.find? (fun n => decide (v ≤ n * d))) := by
  obtain ⟨⟨r, rfl⟩, hasc⟩ := h
  have hlast : lastBelow v d 0 (0 :: r) = lastBelow v d 0 r := by
    rw [lastBelow, List.filter_cons, if_pos (by simp), List.getLastD_cons, lastBelow]
  rw [List.foldl_cons, ite_self, foldl_nearest hd r 0 hasc (by simp), hlast]
  by_cases hv : v = 0
  · subst hv
    have h0 : lastBelow 0 d 0 r = 0 := lastBelow_of_above fun n hn =>
      Nat.mul_pos ((List.pairwise_cons.mp hasc).1 n hn) hd
    rw [h0]
    cases r.find? (fun n => decide (0 ≤ n * d)) <;> simp [nearer]
  · rw [List.find?_cons_of_neg (by simpa using hv)]

theorem spRound_mem (mode : Mode) (neg : Bool) (m : Nat) (e : Int) : spRound mags mode neg m e ∈ mags := by
  have hlo := fun v d => lastBelow_mem h (v := v) (d := d)
  have hlast := getLastD_mem h
  rw [spRound_eq mags mode neg m e rfl rfl]
  cases hf : mags.find? (fun n => decide (m * 2 ^ (e + 3).toNat ≤ n * 2 ^ (-(e + 3)).toNat)) with
  | none => exact hlast
  | some hi =>
    have hhi := List.mem_of_find?_eq_some hf
    simp only [Option.elim_some]
    split
    · exact hlo _ _
    · rcases pickMag_cases mode neg (m * 2 ^ (e + 3).toNat) (2 ^ (-(e + 3)).toNat) (lastBelow _ _ 0 mags) hi with hp | hp
      · rw [hp]
        exact hlo _ _
      · rw [hp]
        exact hhi

/-- R102: both choose by the mode between the two magnitudes about the value. -/
theorem spRound_eq_spChosen {terms : Nat} (ht : spMagnitudes terms = mags) (mode : Mode) (neg : Bool) (m : Nat) (e : Int) :
    spRound mags mode neg m e = spChosen terms mode neg m e := by
  rw [spRound_eq mags mode neg m e rfl rfl]
  unfold spChosen
  have hd : 0 < 2 ^ (-(e + 3)).toNat := Nat.two_pow_pos _
  simp only [ht]
  generalize m * 2 ^ (e + 3).toNat = v, 2 ^ (-(e + 3)).toNat = d at *
  have hnear := foldl_nearest_mags h (v := v) hd
  unfold gap at hnear
  rw [foldl_below, hnear]
  cases hf : mags.find? (fun n => decide (v ≤ n * d)) with
  | none => cases mode <;> simp [lastBelow_of_none hf, nearer]
  | some hi =>
    by_cases he : lastBelow v d 0 mags * d = v
    · have := find_of_exact h hd hf he
      cases mode <;> simp [he, nearer, this]
    · cases mode <;> simp [he, nearer, pickMag]

end magnitudes

/-- The element of a value in a format of powers of two. -/
def spElem (mags : List Nat) (enc : Bool → Nat → Nat) (mode : Mode) : FVal → Nat
  | .nan => 0
  | .inf n => enc n (mags.getLastD 0)
  | .fin n m e => enc n (spRound mags mode n m e)

/-- The format's encoder `enc` gives the code of the rule, and it has `w` bits. -/
structure Encodes (terms : Nat) (mags : List Nat) (enc : Bool → Nat → Nat) (w : Nat) : Prop where
  magnitudes : spMagnitudes terms = mags
  shape : Magnitudes mags
  code : ∀ n ∈ mags, ∀ neg, spEncoded terms (if neg = true then -(n : Int) else n) = enc neg n
  fits : ∀ n ∈ mags, ∀ neg, enc neg n < 2 ^ w

/-- SP1 (R102, R263; log entry 31): eight magnitudes. -/
theorem encodes_sp1 : Encodes 1 sp1Mags sp1Enc 4 where
  magnitudes := by decide +kernel
  shape := ⟨⟨_, rfl⟩, by decide⟩
  code := by decide +kernel
  fits := by decide

/-- SP2 (R102, R263): forty magnitudes. -/
theorem encodes_sp2 : Encodes 2 sp2Mags sp2Enc 8 where
  magnitudes := by decide +kernel
  shape := ⟨⟨sp2Mags.tail, by decide +kernel⟩, by decide +kernel⟩
  code := by decide +kernel
  fits := by decide +kernel

theorem spElem_lt {terms w : Nat} {mags : List Nat} {enc : Bool → Nat → Nat} (h : Encodes terms mags enc w) (mode : Mode)
    (x : FVal) :
    spElem mags enc mode x < 2 ^ w := by
  cases x with
  | nan => exact Nat.two_pow_pos w
  | inf n => exact h.fits _ (getLastD_mem h.shape) n
  | fin n m e => exact h.fits _ (spRound_mem h.shape mode n m e) n

theorem cvtsVal_sp2 {slot : DWord} {p : Nat} (h : slotFormat slot = 10) :
    cvtsVal slot p = spElem sp2Mags sp2Enc (slotMode slot) (decodeF fp32 p) := by
  simp only [cvtsVal, h]
  cases decodeF fp32 p <;> rfl

theorem cvtsVal_sp1 {slot : DWord} {p : Nat} (h : 11 ≤ slotFormat slot) :
    cvtsVal slot p = spElem sp1Mags sp1Enc (slotMode slot) (decodeF fp32 p) := by
  obtain ⟨k, hk⟩ : ∃ k, slotFormat slot = k + 11 := ⟨slotFormat slot - 11, by omega⟩
  simp only [cvtsVal, hk]
  cases decodeF fp32 p <;> rfl

theorem cvtsSpec_sp {slot : DWord} {p terms w : Nat} {mags : List Nat} {enc : Bool → Nat → Nat} (h : Encodes terms mags enc w)
    (hf : 10 ≤ fmtOf slot) (ht : (if fmtOf slot = 10 then 2 else 1) = terms) :
    cvtsSpec slot p = spElem mags enc (modeAt slot) (decodeF fp32 p) := by
  simp only [cvtsSpec, if_neg (show ¬ (fmtOf slot ≤ 3 ∨ fmtOf slot = 5) by omega),
    if_neg (show ¬ fmtOf slot ≤ 7 by omega), if_neg (show ¬ fmtOf slot ≤ 9 by omega), ht, h.magnitudes]
  cases decodeF fp32 p with
  | nan => rfl
  | inf n => exact h.code _ (getLastD_mem h.shape) n
  | fin n m e =>
    rw [spElem, ← h.code _ (spRound_mem h.shape (modeAt slot) n m e) n, spRound_eq_spChosen h.shape h.magnitudes]

-- Every format.

/-- R101, R102: CVTS of every slot. -/
theorem cvtsVal_eq (slot : DWord) (p : Nat) : cvtsVal slot p = cvtsSpec slot p := by
  have hf : slotFormat slot = fmtOf slot := rfl
  have hm := slotMode_eq slot
  obtain h | h | h | h | h := format_kinds (slotFormat slot)
  · rw [cvtsVal_ieee h, cvtsSpec_ieee h, hm, hf]; rfl
  · rw [cvtsVal_capped h, cvtsSpec_capped h, hm, hf]; rfl
  · rw [cvtsVal_int h, cvtsSpec_int h, hm, hf]
  · rw [cvtsVal_sp2 h, cvtsSpec_sp encodes_sp2 h.ge (if_pos h), hm]
  · rw [cvtsVal_sp1 h, cvtsSpec_sp encodes_sp1 (by omega) (if_neg (by omega)), hm]

/-- An element has its format's width. -/
theorem cvtsVal_lt (slot : DWord) (p : Nat) : cvtsVal slot p < 2 ^ slotWidth (slotFormat slot) := by
  obtain h | h | h | h | h := format_kinds (slotFormat slot)
  · rw [cvtsVal_ieee h]
    obtain ⟨hs, hmb, hinf⟩ := fmtSpec_ieee h
    have hlt := ieeeElem_lt (mode := slotMode slot) (sat := slotSat slot) (zero := slotNanZero slot) hs hmb hinf (decodeF fp32 p)
    have hscale : (if slotFormat slot = 1 then 2 ^ 13 else 1) = 2 ^ (if slotFormat slot = 1 then 13 else 0) := by
      split <;> rfl
    rw [hscale, ← ieee_width h, pow_add]
    exact Nat.mul_lt_mul_of_pos_right hlt (Nat.two_pow_pos _)
  · rw [cvtsVal_capped h]
    obtain e | e | e := h
    all_goals
      rw [e]
      cases slotSat slot <;> cases slotNanZero slot <;> exact cappedElem_lt (by decide) (by decide) (by decide) _
  · rw [cvtsVal_int h]
    refine lt_of_lt_of_eq (BitVec.isLt _) ?_
    rcases h with e | e <;> rw [e] <;> rfl
  · rw [cvtsVal_sp2 h, h]
    exact spElem_lt encodes_sp2 _ _
  · rw [cvtsVal_sp1 h]
    refine (spElem_lt encodes_sp1 _ _).trans_le (Nat.pow_le_pow_right (by decide) ?_)
    unfold slotWidth
    split_ifs <;> decide

end Sys2Proof.Proofs.Floats
end

section
/-! CVTL of every format (R103), and the elements of a register (R101). -/
namespace Sys2Proof.Proofs.Floats

open Machine Laws Claims Intervals

-- CVTL.

/-- One term of an SP element: a sign and an exponent, in eighths (R263). -/
theorem spTerm_eq (n : Nat) : spTerm (n % 8) (decide (n / 8 % 2 = 1)) = termOf n := by
  have h8 : n % 8 = n % 16 % 8 := by omega
  have h1 : n / 8 % 2 = n % 16 / 8 % 2 := by omega
  have hlt : n % 16 < 16 := Nat.mod_lt _ (by decide)
  unfold termOf
  rw [h8, h1]
  generalize n % 16 = k at *
  interval_cases k <;> rfl

/-- The value of an element counted in eighths; 0 has one FP32 pattern at any exponent. -/
theorem roundTo_eighths (v : Int) :
    roundTo fp32 .rne (if v = 0 then .fin false 0 0 else .fin (decide (v < 0)) v.natAbs (-3)) =
      roundTo fp32 .rne (.fin (decide (v < 0)) v.natAbs (-3)) := by
  split
  · next h => subst h; rfl
  · rfl

/-- The value of a two's complement element of `w` bits. -/
theorem toInt_ofNat_eq {w p : Nat} (hw : 0 < w) (hp : p < 2 ^ w) :
    (BitVec.ofNat w p).toInt = if p < 2 ^ (w - 1) then (p : Int) else (p : Int) - 2 ^ w := by
  obtain ⟨k, rfl⟩ : ∃ k, w = k + 1 := ⟨w - 1, by omega⟩
  rw [BitVec.toInt_eq_toNat_cond, BitVec.toNat_ofNat, Nat.mod_eq_of_lt hp, Nat.add_sub_cancel, pow_succ]
  push_cast
  split_ifs <;> omega

theorem cvtlVal_of_not_nan {slot : DWord} {p : Nat} (h : (elemVal (slotFormat slot) p).isNan = false) :
    cvtlVal slot p = roundTo fp32 .rne (elemVal (slotFormat slot) p) := by
  unfold cvtlVal
  cases hx : elemVal (slotFormat slot) p with
  | nan => rw [hx] at h; exact absurd h (by decide)
  | _ => rfl

theorem elemVal_sp2 {p : Nat} (hp : p < 2 ^ 8) : elemVal 10 p =
    if termOf (p / 16) + termOf p = 0 then .fin false 0 0
    else .fin (decide (termOf (p / 16) + termOf p < 0)) (termOf (p / 16) + termOf p).natAbs (-3) := by
  have h : decide (128 ≤ p) = decide (p / 16 / 8 % 2 = 1) := decide_eq_decide.mpr (by omega)
  simp only [elemVal, h, spTerm_eq]

theorem elemVal_sp1 {n : Nat} (hn : 11 ≤ n) (p : Nat) : elemVal n p =
    if termOf p = 0 then .fin false 0 0 else .fin (decide (termOf p < 0)) (termOf p).natAbs (-3) := by
  obtain ⟨k, rfl⟩ : ∃ k, n = k + 11 := ⟨n - 11, by omega⟩
  simp only [elemVal, spTerm_eq]

/-- R103: the value of an integer element or of one of powers of two, as the rule gives it. -/
theorem roundTo_elemVal {n p : Nat} (hn : 8 ≤ n) (hp : p < 2 ^ slotWidth n) :
    (elemVal n p).isNan = false ∧ roundTo fp32 .rne (elemVal n p) =
      if n = 8 then roundTo fp32 .rne (.ofInt (BitVec.ofNat 8 p).toInt)
      else if n = 9 then roundTo fp32 .rne (.ofInt (BitVec.ofNat 4 p).toInt)
      else if n = 10 then roundTo fp32 .rne (.fin (decide (termOf (p / 16) + termOf p < 0)) (termOf (p / 16) + termOf p).natAbs (-3))
      else roundTo fp32 .rne (.fin (decide (termOf p < 0)) (termOf p).natAbs (-3)) := by
  obtain rfl | rfl | rfl | e : n = 8 ∨ n = 9 ∨ n = 10 ∨ 11 ≤ n := by omega
  · exact ⟨rfl, by rw [toInt_ofNat_eq (w := 8) (by decide) hp]; rfl⟩
  · exact ⟨rfl, by rw [toInt_ofNat_eq (w := 4) (by decide) hp]; rfl⟩
  · rw [elemVal_sp2 hp, roundTo_eighths]
    exact ⟨by split <;> rfl, rfl⟩
  · rw [elemVal_sp1 e]
    refine ⟨by split <;> rfl, ?_⟩
    rw [roundTo_eighths, if_neg (by omega), if_neg (by omega), if_neg (by omega)]

/-- R101, R103: CVTL of every slot, from an element of the format's width. -/
theorem cvtlVal_eq (slot : DWord) {p : Nat} (hp : p < 2 ^ slotWidth (slotFormat slot)) : cvtlVal slot p = cvtlSpec slot p := by
  have hf : slotFormat slot = fmtOf slot := rfl
  by_cases h : fmtOf slot ≤ 7
  · simp only [cvtlVal, cvtlSpec, hf, if_pos h]
    generalize fmtOf slot = n at h
    interval_cases n <;> rfl
  · obtain ⟨hnan, hval⟩ := roundTo_elemVal (not_le.mp h) hp
    rw [cvtlVal_of_not_nan hnan, hf, hval]
    simp only [cvtlSpec, if_neg h]

-- Elements of a register.

theorem toNat_ones {e : Nat} (h : e ≤ 32) : (ones 32 e).toNat = 2 ^ e - 1 := by
  have := Nat.pow_le_pow_right (n := 2) (by decide) h
  have := Nat.two_pow_pos e
  rw [ones, BitVec.toNat_ofNat, Nat.mod_eq_of_lt (by omega)]

/-- The element of `e` bits at bit `k`. -/
theorem element_eq (x : Word) {e : Nat} (k : Nat) (h : e ≤ 32) : ((x >>> k) &&& ones 32 e).toNat = x.toNat / 2 ^ k % 2 ^ e := by
  rw [BitVec.toNat_and, toNat_ones h, Nat.and_two_pow_sub_one_eq_mod, BitVec.toNat_ushiftRight, Nat.shiftRight_eq_div_pow]

/-- An element of `e` bits put in at bit `k`, the others kept. -/
theorem withElement_eq (x : Word) {e k v : Nat} (h : e ≤ 32) (hv : v < 2 ^ e) :
    BitVec.ofNat 32 (x.toNat - x.toNat / 2 ^ k % 2 ^ e * 2 ^ k + v * 2 ^ k)
      = (x &&& ~~~(ones 32 e <<< k)) ||| (BitVec.ofNat 32 v <<< k) := by
  have hsplit : x.toNat = 2 ^ k * (2 ^ e * (x.toNat / 2 ^ k / 2 ^ e) + x.toNat / 2 ^ k % 2 ^ e) + x.toNat % 2 ^ k := by
    rw [Nat.div_add_mod, Nat.div_add_mod]
  have hlow : x.toNat % 2 ^ k < 2 ^ k := Nat.mod_lt _ (Nat.two_pow_pos _)
  have hput : x.toNat - x.toNat / 2 ^ k % 2 ^ e * 2 ^ k + v * 2 ^ k
      = 2 ^ k * (2 ^ e * (x.toNat / 2 ^ k / 2 ^ e) + v) + x.toNat % 2 ^ k := by
    rw [Nat.mul_add] at hsplit ⊢
    rw [Nat.mul_comm _ (2 ^ k), Nat.mul_comm v]
    omega
  apply BitVec.eq_of_getLsbD_eq
  intro j hj
  rw [hput, BitVec.getLsbD_ofNat, Nat.testBit_two_pow_mul_add _ hlow, Nat.testBit_two_pow_mul_add _ hv]
  simp only [BitVec.getLsbD_or, BitVec.getLsbD_and, BitVec.getLsbD_not, BitVec.getLsbD_shiftLeft, ones, BitVec.getLsbD_ofNat,
    Nat.testBit_two_pow_sub_one, hj, decide_true, Bool.true_and]
  by_cases hk : j < k
  · simp [hk, BitVec.getLsbD]
  by_cases he : j - k < e
  · simp [hk, he, (by omega : j - k < 32)]
  · have hout : v.testBit (j - k) = false :=
      Nat.testBit_lt_two_pow (hv.trans_le (Nat.pow_le_pow_right (by decide) (not_lt.mp he)))
    have hj : j - k - e + e + k = j := by omega
    simp [hk, he, hout, Nat.testBit_div_two_pow, BitVec.getLsbD, hj]

end Sys2Proof.Proofs.Floats
end

section
/-! What the floating-point words write (R91 to R100): one register of a 32-bit result, a pair of a 64-bit one. -/

namespace Sys2Proof.Proofs.Floats

open Machine Laws Claims Intervals

section words

variable {i : Instr} {s : State} {c : Cap}

theorem packedSpec_hAdd (x : BitVec 3) (a b : DWord) :
    packedSpec x (a.setWidth 32) (b.setWidth 32) 0 (fun f m p q _ => faddP f m p q) = hAdd x a b :=
  (halves_eq_packedSpec x a b 0 fun _ hf _ _ _ _ _ _ _ => half_roundTo_lt hf _).symm

theorem packedSpec_hMul (x : BitVec 3) (a b : DWord) :
    packedSpec x (a.setWidth 32) (b.setWidth 32) 0 (fun f m p q _ => fmulP f m p q) = hMul x a b :=
  (halves_eq_packedSpec x a b 0 fun _ hf _ _ _ _ _ _ _ => half_roundTo_lt hf _).symm

theorem packedSpec_hFma (x : BitVec 3) (a b d : DWord) :
    packedSpec x (a.setWidth 32) (b.setWidth 32) (d.setWidth 32) ffmaP = hFma x a b d :=
  (halves_eq_packedSpec x a b d fun _ hf _ _ _ _ _ _ _ => half_roundTo_lt hf _).symm

theorem packedSpec_hMax (x : BitVec 3) (a b : DWord) :
    packedSpec x (a.setWidth 32) (b.setWidth 32) 0 (fun f _ p q _ => fminmax f true p q) = hMax x a b :=
  (halves_eq_packedSpec x a b 0 fun _ hf _ _ _ _ hp hq _ =>
    fminmax_lt (by rcases hf with rfl | rfl <;> decide) hp hq).symm

/-- The word's meaning writes its D field in the active lanes, with the lane's value by `spec` where it gives one. -/
def WritesValue (i : Instr) (c : Cap) (s : State) (spec : Nat → Option Word) : Prop :=
  ∃ N v, bodyOf i c s = .ok (writeT s c (dest i) N v) ∧ ∀ m w, spec m = some w → v m = w

theorem writesValue_of_writeF {val : Nat → Nat} {N : Iv}
    (hb : bodyOf i c s = .ok (writeT s c (dest i) N (fun m => BitVec.ofNat 32 (val m))))
    (hv : ∀ m, floatSpec c i m = some (val m)) :
    WritesValue i c s (fun m => (floatSpec c i m).map (BitVec.ofNat 32)) :=
  ⟨N, _, hb, fun m w h => by simpa [hv m] using h⟩

/-- R91 to R93, R95, R96, R98 to R100: the words of floatSpec write its results. -/
theorem floatWord_writesValue (hi : isFloatWord i = true) :
    WritesValue i c s (fun m => (floatSpec c i m).map (BitVec.ofNat 32)) := by
  cases i with
  | fclass o => exact writesValue_of_writeF rfl fun m => congrArg some (fclassVal_eq (c.a1 m)).symm
  | hadd2 o => exact writesValue_of_writeF rfl fun m => congrArg some (packedSpec_hAdd o.x (c.a1 m) (c.a2 m))
  | hmul2 o => exact writesValue_of_writeF rfl fun m => congrArg some (packedSpec_hMul o.x (c.a1 m) (c.a2 m))
  | hfma2 o => exact writesValue_of_writeF rfl fun m => congrArg some (packedSpec_hFma o.x (c.a1 m) (c.a2 m) (c.a3 m))
  | hmax2 o => exact writesValue_of_writeF rfl fun m => congrArg some (packedSpec_hMax o.x (c.a1 m) (c.a2 m))
  | f2i o => exact writesValue_of_writeF rfl fun m => congrArg some (f2iVal_eq o.x (c.a1 m)).symm
  | i2f o => exact writesValue_of_writeF rfl fun m => congrArg some (i2fVal_eq o.x (c.a1 m)).symm
  | f2f o => exact writesValue_of_writeF rfl fun m => congrArg some (f2fVal_eq o.x (c.a1 m)).symm
  | _ => simp [isFloatWord] at hi <;> exact writesValue_of_writeF rfl fun _ => rfl

theorem setWidth_ushiftRight_32 (n : Nat) : (BitVec.ofNat 64 n >>> 32).setWidth 32 = BitVec.ofNat 32 (n / 2 ^ 32) := by
  apply BitVec.eq_of_toNat_eq
  simp only [BitVec.toNat_setWidth, BitVec.toNat_ushiftRight, BitVec.toNat_ofNat, Nat.shiftRight_eq_div_pow]
  omega

/-- R92, R93, R100: the words of doubleSpec write its results to a pair. -/
theorem doubleWord_writesPair (hi : isDoubleWord i = true) :
    ∃ val : Nat → Nat, bodyOf i c s = .ok (writePair s c (dest i) (fun m => BitVec.ofNat 64 (val m))) ∧
      ∀ m, doubleSpec c i m = some (val m) := by
  cases i with
  | _ => simp [isDoubleWord] at hi <;> exact ⟨_, rfl, fun _ => rfl⟩

theorem doubleWord_issues (hi : isDoubleWord i = true) :
    (∀ s, exec i s = issue i (bodyOf i) s) ∧ clearsMark i = false ∧ endsContainment i = false := by
  cases i with
  | _ => simp [isDoubleWord] at hi <;> exact ⟨fun _ => rfl, rfl, rfl⟩

theorem floatWord_hasIvSpec (hi : isFloatWord i = true) : hasIvSpec i = true := by
  cases i with
  | _ => simp [isFloatWord] at hi <;> rfl

theorem slotWord_hasIvSpec (hi : isSlotWord i = true) : hasIvSpec i = true := by
  cases i with
  | _ => simp [isSlotWord] at hi <;> rfl

end words

-- The writes.

section group

variable {i : Instr} {s : State} {k sl f l : Nat} {fr : Front} {c : Cap} {g : Group} {u : Unit_}

/-- Two values that agree in the active lanes write the same. -/
theorem writeT_congr {v v' : Nat → Word} (h : ∀ m ∈ c.active, v m = v' m) (d : Nat) (N : Iv) :
    writeT s c d N v = writeT s c d N v' := by
  have hl : c.active.map (fun m => (m, v m)) = c.active.map (fun m => (m, v' m)) :=
    List.map_congr_left fun m hm => by rw [h m hm]
  rw [writeT, hl, writeT]

theorem writePair_congr {v v' : Nat → DWord} (h : ∀ m ∈ c.active, v m = v' m) (d : Nat) :
    writePair s c d v = writePair s c d v' := by
  have hl : c.active.map (fun m => (m, (v m).setWidth 32)) = c.active.map (fun m => (m, (v' m).setWidth 32)) :=
    List.map_congr_left fun m hm => by rw [h m hm]
  have hh : c.active.map (fun m => (m, (v m >>> 32).setWidth 32)) = c.active.map (fun m => (m, (v' m >>> 32).setWidth 32)) :=
    List.map_congr_left fun m hm => by rw [h m hm]
  rw [writePair, hl, hh, writePair]

/-- An undisturbed word whose meaning writes its D field. -/
theorem writesValue_wroteThreads (h : OnGroup i s k sl f l fr c g u) (hi : hasIvSpec i = true) {spec : Nat → Option Word}
    (hw : WritesValue i c (tokenAcquire s u i) spec) {v : Nat → Word} (hv : ∀ m ∈ c.active, spec m = some (v m)) :
    ∃ t, exec i s = .next t ∧ WroteThreads i s t k sl fr c g u [dest i] (fun m => [(dest i, v m)]) := by
  obtain ⟨N, w, hb, hval⟩ := hw
  rw [ivWord_exec h hi, hb, writeT_congr fun m hm => hval m _ (hv m hm)]
  exact finish_writeT h (dest i) N v

/-- Two registers written one after the other. -/
theorem threadRegs_pair {u1 u2 : Unit_} {d e : Nat} {v w : Nat → Word} (hde : d ≠ e)
    (h1 : ThreadRegs s c u u1 (fun m => [(d, v m)])) (h2 : ThreadRegs s c u1 u2 (fun m => [(e, w m)])) :
    ThreadRegs s c u u2 (fun m => [(d, v m), (e, w m)]) := by
  refine ⟨fun m hm hsole p hp => ?_, fun th n hn => ?_, fun th => ?_⟩
  · simp only [List.mem_cons, List.not_mem_nil, or_false] at hp
    obtain rfl | rfl := hp
    · rw [h2.kept _ d fun _ _ _ => by simpa using hde]
      exact h1.written m hm hsole (d, v m) (by simp)
    · exact h2.written m hm hsole (e, w m) (by simp)
  · simp only [List.map_cons, List.map_nil, List.mem_cons, List.not_mem_nil, or_false, not_or] at hn
    rw [h2.kept th n fun m hm hT => by simpa using (hn m hm hT).2, h1.kept th n fun m hm hT => by simpa using (hn m hm hT).1]
  · have e2 := congrArg (fun x : Thread => { x with r := (u.thread th).r }) (h2.others th)
    exact e2.trans (h1.others th)

/-- The unit after lane writes of a pair: the low half's register first. -/
def pairUnit (T : Nat → Nat) (d : Nat) (v : Nat → DWord) (l : List Nat) (u : Unit_) : Unit_ :=
  onLanes T (fun m x => x.setReg (d + 1) ((v m >>> 32).setWidth 32)) l
    (onLanes T (fun m x => x.setReg d ((v m).setWidth 32)) l u)

theorem pairUnit_frame (T : Nat → Nat) (d : Nat) (v : Nat → DWord) (l : List Nat) (u : Unit_) :
    pairUnit T d v l u = { u with threads := (pairUnit T d v l u).threads } := by
  have e1 := onLanes_frame T (fun m x => x.setReg d ((v m).setWidth 32)) l u
  have e2 := onLanes_frame T (fun m x => x.setReg (d + 1) ((v m >>> 32).setWidth 32)) l
    (onLanes T (fun m x => x.setReg d ((v m).setWidth 32)) l u)
  have e : { pairUnit T d v l u with threads := u.threads } = u :=
    (congrArg (fun w : Unit_ => { w with threads := u.threads }) e2).trans e1
  exact (congrArg (fun w : Unit_ => { w with threads := (pairUnit T d v l u).threads }) e)

theorem threadRegs_pairUnit (d : Nat) (v : Nat → DWord) (u : Unit_) :
    ThreadRegs s c u (pairUnit (laneThread s c.agent) d v c.active u)
      (fun m => [(d, (v m).setWidth 32), (d + 1, (v m >>> 32).setWidth 32)]) :=
  threadRegs_pair (Nat.succ_ne_self d).symm (threadRegs_onLanes d _ u) (threadRegs_onLanes (d + 1) _ _)

theorem writePair_unit (hg : s.group? k sl = some g) (hu : s.unit? g.uid = some u) (ha : c.agent = .group k sl) (d : Nat)
    (v : Nat → DWord) :
    writePair s c d v = s.setUnit g.uid (some (pairUnit (laneThread s c.agent) d v c.active u)) := by
  unfold writePair
  rw [writeLanes_unit hg hu ha]
  refine (writeLanes_unit (s := s.setUnit g.uid _) hg ((State.unit_setUnit ..).trans (if_pos rfl)) ha ..).trans ?_
  simp only [State.setUnit, NatMap.set_set]
  rfl

/-- The write of a register pair: two registers in the active lanes, and no interval. -/
theorem finish_writePair (h : OnGroup i s k sl f l fr c g u) (d : Nat) (v : Nat → DWord) :
    ∃ t, finish s (.group k sl) c g.uid f (.ok (writePair (tokenAcquire s u i) c d v)) = .next t ∧
      WroteThreads i s t k sl fr c g u [] (fun m => [(d, (v m).setWidth 32), (d + 1, (v m >>> 32).setWidth 32)]) := by
  obtain ⟨ha, -⟩ := capture_group h.operands
  obtain ⟨hg, hu, hT, hul⟩ := acquired (i := i) h.group h.unit ha
  have hr := threadRegs_pairUnit (s := s) (c := c) d v u
  rw [writePair_unit hg hu ha, hT]
  rw [pairUnit_frame] at hr ⊢
  refine finish_threads h (iv1 := g.iv) (setUnit_rest _) (fun n hn => ?_) (fun n _ => ?_) hg (fun _ _ => rfl) ?_ hr
  · rw [State.unit_setUnit, if_neg hn, hul]
  · rw [State.setUnit_groups, tokenAcquire_groups]
  · rw [State.unit_setUnit, if_pos rfl]

/-- An undisturbed word with a 64-bit result. -/
theorem doubleWord_wroteThreads (h : OnGroup i s k sl f l fr c g u) (hi : isDoubleWord i = true) {v : Nat → Nat}
    (hv : ∀ m ∈ c.active, doubleSpec c i m = some (v m)) :
    ∃ t, exec i s = .next t ∧ WroteThreads i s t k sl fr c g u [] (fun m =>
      [(dest i, BitVec.ofNat 32 (v m)), (dest i + 1, BitVec.ofNat 32 (v m / 2 ^ 32))]) := by
  obtain ⟨he, hm, hc⟩ := doubleWord_issues hi
  obtain ⟨val, hb, hval⟩ := doubleWord_writesPair (s := tokenAcquire s u i) (c := c) hi
  have hvv : ∀ m ∈ c.active, BitVec.ofNat 64 (val m) = BitVec.ofNat 64 (v m) := fun m hm => by
    rw [Option.some.inj ((hval m).symm.trans (hv m hm))]
  rw [he, issue_onGroup h _ hm hc, hb, writePair_congr hvv]
  simpa only [BitVec.setWidth_ofNat_of_le (by decide : 32 ≤ 64), setWidth_ushiftRight_32] using
    finish_writePair h (dest i) (fun m => BitVec.ofNat 64 (v m))

end group

end Sys2Proof.Proofs.Floats
end

section
/-! What CVTS and CVTL write (R101 to R103), and the statements about the floating-point words. -/
namespace Sys2Proof.Proofs.Floats

open Machine Laws Claims Intervals

section slotWords

variable {s : State} {k sl f l : Nat} {fr : Front} {c : Cap} {g : Group} {u : Unit_} {i : Instr}

theorem unitRec_eq (h : OnGroup i s k sl f l fr c g u) : unitRec (tokenAcquire s u i) c = recOf s f l := by
  obtain ⟨ha, -⟩ := capture_group h.operands
  obtain ⟨hg, hu, -, -⟩ := acquired (i := i) h.group h.unit ha
  obtain ⟨rfl, rfl⟩ := launch_eq h
  have hl : agentLaunch (tokenAcquire s u i) c.agent = some (u.func, u.launch) := by simp [ha, agentLaunch, hg, hu]
  simp only [unitRec, hl, tokenAcquire_recOf]

theorem widthOf_le (n : Nat) : widthOf n ≤ 32 := by
  rw [← slotWidth_eq, slotWidth]
  split_ifs <;> decide

theorem widthOf_fmtOf (slot : DWord) : slotWidth (slotFormat slot) = widthOf (fmtOf slot) := slotWidth_eq _

/-- The word `old` with element `n` converted from `a`, in the model's arithmetic. -/
def withCvts (slot : DWord) (n : Nat) (old : Word) (a : DWord) : Word :=
  let e := slotWidth (slotFormat slot)
  BitVec.ofNat 32 (old.toNat - old.toNat / 2 ^ (e * n) % 2 ^ e * 2 ^ (e * n) + cvtsVal slot (lowNat a) * 2 ^ (e * n))

/-- The value of element `n` of `a`, in the model's arithmetic. -/
def ofElement (slot : DWord) (n : Nat) (a : DWord) : Word :=
  let e := slotWidth (slotFormat slot)
  BitVec.ofNat 32 (cvtlVal slot (lowNat a / 2 ^ (e * n) % 2 ^ e))

theorem bodyCvts_eq {rc : LaunchRec} (hu : unitOf s c.agent = some u) (hr : unitRec s c = rc) (o : AOps) : bodyCvts o c s =
    .ok (writeT s c o.d.toNat .top (fun m => withCvts (slotOf rc o.x.toNat) (litIdx o.s2)
      ((u.thread (laneThread s c.agent m)).reg o.d.toNat) (c.a1 m))) := by
  simp only [bodyCvts, hu, hr]
  rfl

theorem bodyCvtl_eq {rc : LaunchRec} (hr : unitRec s c = rc) (o : AOps) : bodyCvtl o c s =
    .ok (writeT s c o.d.toNat .top (fun m => ofElement (slotOf rc o.x.toNat) (litIdx o.s2) (c.a1 m))) := by
  simp only [bodyCvtl, hr]
  rfl

theorem withCvts_eq (slot : DWord) (n : Nat) (old : Word) (a : DWord) : withCvts slot n old a =
    (old &&& ~~~(ones 32 (widthOf (fmtOf slot)) <<< (widthOf (fmtOf slot) * n))) |||
      (BitVec.ofNat 32 (cvtsSpec slot (a.setWidth 32).toNat) <<< (widthOf (fmtOf slot) * n)) := by
  have hlt := cvtsVal_lt slot (lowNat a)
  rw [widthOf_fmtOf] at hlt
  simp only [withCvts, widthOf_fmtOf]
  rw [withElement_eq old (widthOf_le _) hlt, cvtsVal_eq]
  rfl

theorem ofElement_eq (slot : DWord) (n : Nat) (a : DWord) : ofElement slot n a =
    BitVec.ofNat 32 (cvtlSpec slot ((a.setWidth 32 >>> (widthOf (fmtOf slot) * n)) &&& ones 32 (widthOf (fmtOf slot))).toNat) := by
  rw [element_eq _ _ (widthOf_le _), ofElement, ← widthOf_fmtOf, ← cvtlVal_eq slot (Nat.mod_lt _ (Nat.two_pow_pos _))]
  rfl

/-- R101 to R103: CVTS and CVTL write what slotSpec gives. -/
theorem slotWord_writesValue (h : OnGroup i s k sl f l fr c g u) (hi : isSlotWord i = true) :
    WritesValue i c (tokenAcquire s u i) (slotSpec s c u (recOf s f l) i) := by
  obtain ⟨ha, -⟩ := capture_group h.operands
  obtain ⟨-, -, hT, -⟩ := acquired (i := i) h.group h.unit ha
  have hrec := unitRec_eq h
  cases i with
  | cvts o =>
    refine ⟨.top, _, bodyCvts_eq (sees h).unit hrec o, fun m w hw => ?_⟩
    cases h2 : o.s2 with
    | lit n =>
      simp only [slotSpec, h2, Option.some.injEq] at hw
      rw [hT, ← hw, withCvts_eq]
      rfl
    | _ => simp [slotSpec, h2] at hw
  | cvtl o =>
    refine ⟨.top, _, bodyCvtl_eq hrec o, fun m w hw => ?_⟩
    cases h2 : o.s2 with
    | lit n =>
      simp only [slotSpec, h2, Option.some.injEq] at hw
      rw [← hw, ofElement_eq]
      rfl
    | _ => simp [slotSpec, h2] at hw
  | _ => simp [isSlotWord] at hi

end slotWords

end Sys2Proof.Proofs.Floats

open Sys2Proof Sys2Proof.Machine Sys2Proof.Claims Sys2Proof.Laws Sys2Proof.Proofs.Intervals Sys2Proof.Proofs.Floats

/-- Settles O4: the words of both tables write their D field once, with the table's value in every active lane. -/
theorem floatWordsWriteThreads : Obligations.FloatWordsWriteThreads := by
  unfold Obligations.FloatWordsWriteThreads
  constructor
  · intro i s k sl f l fr c g u v h hi hv
    exact writesValue_wroteThreads h (floatWord_hasIvSpec hi) (floatWord_writesValue hi) (fun m hm => by rw [hv m hm]; rfl)
  · intro i s k sl f l fr c g u v h hi hv
    exact writesValue_wroteThreads h (slotWord_hasIvSpec hi) (slotWord_writesValue h hi) hv

/-- Settles O5: a word with a 64-bit result writes the table's value to the pair, in two writes of the active lanes. -/
theorem doubleWordsWritePairs : Obligations.DoubleWordsWritePairs := by
  unfold Obligations.DoubleWordsWritePairs
  intro i s k sl f l fr c g u v h hi hv
  exact doubleWord_wroteThreads h hi hv
end
